-- ==== Sys2Proof/Word.lean ====
section
/-! DEFINITION. The words and index types of the part (00_scope.md, "Numbers and units" and "Numbering of
inputs, ports and feeds"). -/

namespace Sys2Proof

/-- One byte of a message, a link frame or the stored image. -/
abbrev Byte := BitVec 8

/-- A frame number: a 32-bit unsigned count that wraps (00_scope.md, "Frames and time"). -/
abbrev FrameNo := BitVec 32

/-- A sample: a 24-bit two's complement number. -/
abbrev Sample := BitVec 24

/-- A gain law mantissa: an unsigned 24-bit number (R63). -/
abbrev Mantissa := BitVec 24

/-- A preamp law entry as staged: an unsigned 16-bit number (R86). -/
abbrev LawEntry := BitVec 16

/-- F0 to F3. -/
abbrev Feed := Fin 4

/-- An input, or the channel of the same number, 0 to 47. -/
abbrev Input := Fin 48

/-- A group of eight inputs: converter port C0 to C5, or preamp bus B0 to B5. -/
abbrev Group := Fin 6

/-- A link port P0 to P7. -/
abbrev Port := Fin 8

end Sys2Proof
end

