-- ==== Sys2Proof/Syntax.lean ====
section
/-! DEFINITION. The commands the part takes: one constructor of `Instr` per row of spec/opcode_table.json. -/

namespace Sys2Proof

/-- The kinds of request of the kind table (09_the_control_lane.md, "Kind values"). -/
inductive ReqKind where
  | devStatus
  | devRestart
  | storeSave
  | clockSet
  | mapWindows
  | mapGet
  | tapTrim
  | tapMode
  | tapAnchor
  | tapMute
  | tapGet
  | feedGlide
  | lawStage
  | lawApply
  | plawStage
  | plawApply
  | lawGet
  | haSet
  | haNudge
  | haGet
  | ownClaim
  | ownRelease
  | ownAssign
  | supervisorSet
  | scnOpen
  | scnAdd
  | scnCommit
  | scnCancel
  | scnList
  | mtrSubscribe
  | clipSet
  | clipAck
  | clipGet
  deriving DecidableEq, Repr

/-- What the read of the stored image gave when it ended (R161, R163). -/
inductive EepromRead where
  /-- A transfer of the read went unacknowledged. -/
  | noAck
  /-- Every transfer was acknowledged and the EEPROM gave the bytes it holds. -/
  | held
  /-- Every transfer was acknowledged and the EEPROM, written outside the part, gave these bytes. -/
  | found (bytes : List Byte)
  deriving DecidableEq, Repr

/-- How the write of the stored image ended (R166). -/
inductive SaveEnd where
  /-- The last write was acknowledged. -/
  | ok
  /-- A transfer went unacknowledged, after `written` bytes of the writes that follow the version byte 0. -/
  | fail (written : Nat)
  deriving DecidableEq, Repr

/-- A command. A request carries the feed it comes from, its tag and its parameter bytes (R139). -/
inductive Instr where
  /-- The reset pin is asserted and released (R164). -/
  | reset
  /-- The frame in progress is completed and the counter advances (R1). -/
  | frameTick
  /-- What converter port `port` received in the frame: no start marker, or a start marker and the sample words
  (channel index, sample) before the next start marker (R4). -/
  | converterFrame (port : Group) (received : Option (List (Nat × Sample)))
  /-- What link port `port` received in the frame: for each frame that began with the sync word, the bytes that arrived
  after the sync word (R128). `afterRound` says that a request these bytes complete joins its queue after the frame's
  arbiter round (R145 leaves the order open). -/
  | upstreamFrame (port : Port) (received : List (List Byte)) (afterRound : Bool)
  /-- The word clock detector's present event (R8). -/
  | wordclockPresent
  /-- The word clock detector's absent event (R8). -/
  | wordclockAbsent
  /-- The revert timer falls due (R11). -/
  | revertTimerExpiry
  /-- The holdover timer falls due (R12). -/
  | holdoverTimerExpiry
  /-- Bus `bus` takes its send opportunity (R79). -/
  | busSendOpportunity (bus : Group)
  /-- Channel `input` takes its effective event (R84). -/
  | effectiveEvent (input : Input)
  /-- The settle mute end frame of channel `input` has passed (R83). -/
  | settleMuteEnd (input : Input)
  /-- The first scene of the scheduled list that is due executes (R116). -/
  | sceneExecution
  /-- The meter period of feed `feed` ends (R154). -/
  | meterPeriodEnd (feed : Feed)
  /-- The pending map of feed `feed` comes into force (R25). -/
  | pendingMapInForce (feed : Feed)
  /-- The pending gain law comes into effect (R67). -/
  | pendingLawInEffect
  /-- The read of the stored image ends (R161). -/
  | loadComplete (read : EepromRead)
  /-- The write of the stored image ends (R166). -/
  | saveComplete (ended : SaveEnd)
  | devStatus (feed : Feed) (tag : Byte) (params : List Byte)
  | devRestart (feed : Feed) (tag : Byte) (params : List Byte)
  | storeSave (feed : Feed) (tag : Byte) (params : List Byte)
  | clockSet (feed : Feed) (tag : Byte) (params : List Byte)
  | mapWindows (feed : Feed) (tag : Byte) (params : List Byte)
  | mapGet (feed : Feed) (tag : Byte) (params : List Byte)
  | tapTrim (feed : Feed) (tag : Byte) (params : List Byte)
  | tapMode (feed : Feed) (tag : Byte) (params : List Byte)
  | tapAnchor (feed : Feed) (tag : Byte) (params : List Byte)
  | tapMute (feed : Feed) (tag : Byte) (params : List Byte)
  | tapGet (feed : Feed) (tag : Byte) (params : List Byte)
  | feedGlide (feed : Feed) (tag : Byte) (params : List Byte)
  | lawStage (feed : Feed) (tag : Byte) (params : List Byte)
  | lawApply (feed : Feed) (tag : Byte) (params : List Byte)
  | plawStage (feed : Feed) (tag : Byte) (params : List Byte)
  | plawApply (feed : Feed) (tag : Byte) (params : List Byte)
  | lawGet (feed : Feed) (tag : Byte) (params : List Byte)
  | haSet (feed : Feed) (tag : Byte) (params : List Byte)
  | haNudge (feed : Feed) (tag : Byte) (params : List Byte)
  | haGet (feed : Feed) (tag : Byte) (params : List Byte)
  | ownClaim (feed : Feed) (tag : Byte) (params : List Byte)
  | ownRelease (feed : Feed) (tag : Byte) (params : List Byte)
  | ownAssign (feed : Feed) (tag : Byte) (params : List Byte)
  | supervisorSet (feed : Feed) (tag : Byte) (params : List Byte)
  | scnOpen (feed : Feed) (tag : Byte) (params : List Byte)
  | scnAdd (feed : Feed) (tag : Byte) (params : List Byte)
  | scnCommit (feed : Feed) (tag : Byte) (params : List Byte)
  | scnCancel (feed : Feed) (tag : Byte) (params : List Byte)
  | scnList (feed : Feed) (tag : Byte) (params : List Byte)
  | mtrSubscribe (feed : Feed) (tag : Byte) (params : List Byte)
  | clipSet (feed : Feed) (tag : Byte) (params : List Byte)
  | clipAck (feed : Feed) (tag : Byte) (params : List Byte)
  | clipGet (feed : Feed) (tag : Byte) (params : List Byte)
  /-- A request whose kind byte is not a request kind (R146). -/
  | unknownKindRequest (feed : Feed) (tag kind : Byte) (params : List Byte)
  deriving DecidableEq, Repr

end Sys2Proof
end

