-- ==== Sys2Proof/Decode.lean ====
section
/-! DEFINITION. The request kinds' byte values (09_the_control_lane.md, "Kind values"), and the command a table word
spells: no row of spec/opcode_table.json gives bits, so none does. -/

namespace Sys2Proof

/-- The kind byte of a request kind. -/
def ReqKind.code : ReqKind → Byte
  | .devStatus => 0x01#8
  | .devRestart => 0x02#8
  | .storeSave => 0x03#8
  | .clockSet => 0x04#8
  | .mapWindows => 0x08#8
  | .mapGet => 0x09#8
  | .tapTrim => 0x10#8
  | .tapMode => 0x11#8
  | .tapAnchor => 0x12#8
  | .tapMute => 0x13#8
  | .tapGet => 0x14#8
  | .feedGlide => 0x15#8
  | .lawStage => 0x18#8
  | .lawApply => 0x19#8
  | .plawStage => 0x1A#8
  | .plawApply => 0x1B#8
  | .lawGet => 0x1C#8
  | .haSet => 0x20#8
  | .haNudge => 0x21#8
  | .haGet => 0x22#8
  | .ownClaim => 0x24#8
  | .ownRelease => 0x25#8
  | .ownAssign => 0x26#8
  | .supervisorSet => 0x27#8
  | .scnOpen => 0x28#8
  | .scnAdd => 0x29#8
  | .scnCommit => 0x2A#8
  | .scnCancel => 0x2B#8
  | .scnList => 0x2C#8
  | .mtrSubscribe => 0x30#8
  | .clipSet => 0x31#8
  | .clipAck => 0x32#8
  | .clipGet => 0x33#8

/-- The request kind a kind byte names; every value outside the kind table is not a request kind. -/
def ReqKind.ofByte (b : Byte) : Option ReqKind :=
  match b.toNat with
  | 0x01 => some .devStatus
  | 0x02 => some .devRestart
  | 0x03 => some .storeSave
  | 0x04 => some .clockSet
  | 0x08 => some .mapWindows
  | 0x09 => some .mapGet
  | 0x10 => some .tapTrim
  | 0x11 => some .tapMode
  | 0x12 => some .tapAnchor
  | 0x13 => some .tapMute
  | 0x14 => some .tapGet
  | 0x15 => some .feedGlide
  | 0x18 => some .lawStage
  | 0x19 => some .lawApply
  | 0x1A => some .plawStage
  | 0x1B => some .plawApply
  | 0x1C => some .lawGet
  | 0x20 => some .haSet
  | 0x21 => some .haNudge
  | 0x22 => some .haGet
  | 0x24 => some .ownClaim
  | 0x25 => some .ownRelease
  | 0x26 => some .ownAssign
  | 0x27 => some .supervisorSet
  | 0x28 => some .scnOpen
  | 0x29 => some .scnAdd
  | 0x2A => some .scnCommit
  | 0x2B => some .scnCancel
  | 0x2C => some .scnList
  | 0x30 => some .mtrSubscribe
  | 0x31 => some .clipSet
  | 0x32 => some .clipAck
  | 0x33 => some .clipGet
  | _ => none

/-- The feed and the message (tag, kind byte, parameters) that a request command stands for; none for the other commands. -/
def Instr.request : Instr → Option (Feed × Byte × Byte × List Byte)
  | .devStatus f tag ps => some (f, tag, ReqKind.code .devStatus, ps)
  | .devRestart f tag ps => some (f, tag, ReqKind.code .devRestart, ps)
  | .storeSave f tag ps => some (f, tag, ReqKind.code .storeSave, ps)
  | .clockSet f tag ps => some (f, tag, ReqKind.code .clockSet, ps)
  | .mapWindows f tag ps => some (f, tag, ReqKind.code .mapWindows, ps)
  | .mapGet f tag ps => some (f, tag, ReqKind.code .mapGet, ps)
  | .tapTrim f tag ps => some (f, tag, ReqKind.code .tapTrim, ps)
  | .tapMode f tag ps => some (f, tag, ReqKind.code .tapMode, ps)
  | .tapAnchor f tag ps => some (f, tag, ReqKind.code .tapAnchor, ps)
  | .tapMute f tag ps => some (f, tag, ReqKind.code .tapMute, ps)
  | .tapGet f tag ps => some (f, tag, ReqKind.code .tapGet, ps)
  | .feedGlide f tag ps => some (f, tag, ReqKind.code .feedGlide, ps)
  | .lawStage f tag ps => some (f, tag, ReqKind.code .lawStage, ps)
  | .lawApply f tag ps => some (f, tag, ReqKind.code .lawApply, ps)
  | .plawStage f tag ps => some (f, tag, ReqKind.code .plawStage, ps)
  | .plawApply f tag ps => some (f, tag, ReqKind.code .plawApply, ps)
  | .lawGet f tag ps => some (f, tag, ReqKind.code .lawGet, ps)
  | .haSet f tag ps => some (f, tag, ReqKind.code .haSet, ps)
  | .haNudge f tag ps => some (f, tag, ReqKind.code .haNudge, ps)
  | .haGet f tag ps => some (f, tag, ReqKind.code .haGet, ps)
  | .ownClaim f tag ps => some (f, tag, ReqKind.code .ownClaim, ps)
  | .ownRelease f tag ps => some (f, tag, ReqKind.code .ownRelease, ps)
  | .ownAssign f tag ps => some (f, tag, ReqKind.code .ownAssign, ps)
  | .supervisorSet f tag ps => some (f, tag, ReqKind.code .supervisorSet, ps)
  | .scnOpen f tag ps => some (f, tag, ReqKind.code .scnOpen, ps)
  | .scnAdd f tag ps => some (f, tag, ReqKind.code .scnAdd, ps)
  | .scnCommit f tag ps => some (f, tag, ReqKind.code .scnCommit, ps)
  | .scnCancel f tag ps => some (f, tag, ReqKind.code .scnCancel, ps)
  | .scnList f tag ps => some (f, tag, ReqKind.code .scnList, ps)
  | .mtrSubscribe f tag ps => some (f, tag, ReqKind.code .mtrSubscribe, ps)
  | .clipSet f tag ps => some (f, tag, ReqKind.code .clipSet, ps)
  | .clipAck f tag ps => some (f, tag, ReqKind.code .clipAck, ps)
  | .clipGet f tag ps => some (f, tag, ReqKind.code .clipGet, ps)
  | .unknownKindRequest f tag kind ps => some (f, tag, kind, ps)
  | .reset => none
  | .frameTick => none
  | .converterFrame _ _ => none
  | .upstreamFrame _ _ _ => none
  | .wordclockPresent => none
  | .wordclockAbsent => none
  | .revertTimerExpiry => none
  | .holdoverTimerExpiry => none
  | .busSendOpportunity _ => none
  | .effectiveEvent _ => none
  | .settleMuteEnd _ => none
  | .sceneExecution => none
  | .meterPeriodEnd _ => none
  | .pendingMapInForce _ => none
  | .pendingLawInEffect => none
  | .loadComplete _ => none
  | .saveComplete _ => none

/-- The command spelled by a table word: the table gives no row any bits (log entry 24), so none. -/
def decodeTableWord (_nbits _w : Nat) : Option Instr := none

end Sys2Proof
end

