-- ==== Sys2Proof/Config.lean ====
section
/-! DEFINITION. The free values: results that the spec leaves open, after which the part goes on. Each is a constant
with no body, so nothing can be proved of its value. -/

namespace Sys2Proof

/-- Free value (log entry 12): the anchor of feed `f`'s tap for input `i` when a rebase of frame `frame` moves anchor `n`
by `d` outside the signed 32-bit range (R35 gives the field's width, R43 the sum; neither states the result). `moveAnchor` keeps
it to the values that leave target and limit flag as they are (R43, R89). -/
opaque Config.anchorOverflow (frame : FrameNo) (f : Feed) (i : Input) (n d : Int) : BitVec 32

/-- Free value (log entry 13): the two-byte unclamped target field of a LIMIT notice of frame `frame` for input `i`, when
the unclamped target `x` lies outside the signed 16-bit range (R37, 09_the_control_lane.md "Notice parameters"). -/
opaque Config.unclampedField (frame : FrameNo) (i : Input) (x : Int) : BitVec 16

/-- Free value (log entry 27): how many bytes a save of the given section bytes has written after the version byte 0 when a
RESET in frame `frame` cuts it short (R166 gives the order of the writes and no pace of them). -/
opaque Config.writtenAtReset (frame : FrameNo) (sections : List Byte) : Nat

end Sys2Proof
end

