-- ==== Sys2Proof/Machine/Vec.lean ====
section
/-! DEFINITION. Vectors indexed by `Fin n`: building one from a function, and changing one entry. -/

namespace Sys2Proof.Machine

/-- The vector whose entry `i` is `f i`. -/
def tab {α : Type} {n : Nat} (f : Fin n → α) : Vector α n :=
  ⟨(List.ofFn f).toArray, by simp⟩

/-- Entry `i` replaced by `g` of itself. -/
def upd {α : Type} {n : Nat} (v : Vector α n) (i : Fin n) (g : α → α) : Vector α n :=
  v.set i (g v[i])

/-- Entry `i` replaced by `x`. -/
def put {α : Type} {n : Nat} (v : Vector α n) (i : Fin n) (x : α) : Vector α n :=
  upd v i fun _ => x

/-- Every entry replaced by `g` of its index and itself. -/
def mapAll {α β : Type} {n : Nat} (g : Fin n → α → β) (v : Vector α n) : Vector β n :=
  tab fun i => g i v[i]

end Sys2Proof.Machine
end

