-- ==== Sys2Proof/Machine/Tables.lean ====
section
/-! DEFINITION. The built-in gain law (R64) and the built-in preamp law (R72). -/

namespace Sys2Proof.Machine

/-- 2^23 × 2^(r/48), rounded to the nearest integer, for r from 0 to 47 (R64). -/
def builtinMantissas : List Nat :=
  [
   8388608, 8510623, 8634413, 8760003, 8887421, 9016691, 9147842, 9280900,
   9415894, 9552851, 9691801, 9832771, 9975792, 10120894, 10268105, 10417458,
   10568984, 10722713, 10878679, 11036913, 11197448, 11360319, 11525559, 11693202,
   11863283, 12035839, 12210904, 12388516, 12568711, 12751527, 12937002, 13125175,
   13316085, 13509772, 13706276, 13905639, 14107901, 14313105, 14521294, 14732511,
   14946800, 15164206, 15384775, 15608552, 15835583, 16065917, 16299601, 16536684
  ]

/-- The built-in gain law (R64). -/
def builtinGlt : Vector Mantissa 48 :=
  tab fun r => BitVec.ofNat 24 (builtinMantissas.getD r 0)

/-- The built-in preamp law: PLT[k] = 8k (R72). -/
def builtinPlt : Vector LawEntry 64 :=
  tab fun k => BitVec.ofNat 16 (8 * k)

end Sys2Proof.Machine
end

