-- ==== Sys2Proof/Machine/State.lean ====
section
/-! DEFINITION. The state of the part, block by block as 00_scope.md's block overview gives it, and its values at
power-on. A field marked MODEL is the model's own; every other field is the spec's. -/

namespace Sys2Proof.Machine

/-! ### Frame Timing Unit -/

/-- The rate mode (R3). -/
inductive Rate where
  | k48
  | k96
  deriving DecidableEq, Repr

/-- The six clock sources (R8). -/
inductive ClockSource where
  | internal
  | wordclock
  | feed (k : Feed)
  deriving DecidableEq, Repr

/-- The clock state (R10 to R13). -/
inductive ClockState where
  | locked (source : ClockSource)
  | holdover
  | free
  deriving DecidableEq, Repr

structure Ftu where
  /-- The frame counter (R1): the number of the frame in progress. -/
  frame : FrameNo
  rate : Rate
  /-- The clock source list, highest priority first (R9). -/
  sources : List ClockSource
  /-- Revert delay and holdover limit, in units of 256 frames (R9). -/
  revertDelay : Byte
  holdoverLimit : BitVec 16
  clock : ClockState
  /-- Each timer: stopped, or its expiry frame; the revert timer with its candidate (R10, R11). -/
  holdoverTimer : Option FrameNo
  revertTimer : Option (ClockSource × FrameNo)
  /-- The word clock is present (R8). -/
  wordclock : Bool
  deriving DecidableEq, Repr

/-! ### Converter Ports -/

inductive ConverterState where
  | fault
  | running
  deriving DecidableEq, Repr

structure ConverterPort where
  state : ConverterState
  /-- Consecutive good frames received in FAULT (R5). -/
  goodRun : Nat
  /-- MODEL: the outcome of the frame in progress has been taken (log entry 6). -/
  judged : Bool
  deriving DecidableEq, Repr

structure Cvp where
  ports : Vector ConverterPort 6
  /-- The samples received for the frame in progress (R4). -/
  samples : Vector Sample 48
  deriving DecidableEq, Repr

/-! ### Slot Map Unit -/

inductive WindowOrder where
  | straight
  | interleaved
  deriving DecidableEq, Repr

/-- A window of a window list (R18). -/
inductive Window where
  | input (first count : Nat) (order : WindowOrder)
  | silence (count : Nat)
  | pattern (count : Nat)
  deriving DecidableEq, Repr

/-- An entry of a slot map (R17). -/
inductive SlotEntry where
  | input (i : Input)
  | silence
  | pattern
  deriving DecidableEq, Repr

/-- A window list and the slot map expanded from it. -/
structure SlotMap where
  windows : List Window
  slots : List SlotEntry
  deriving DecidableEq, Repr

/-- A map or gain law accepted and not yet in force, with the frame from which it is (R25, R67). -/
structure PendingMap where
  map : SlotMap
  start : FrameNo
  deriving DecidableEq, Repr

structure FeedMap where
  inForce : SlotMap
  pending : Option PendingMap
  deriving DecidableEq, Repr

structure Smu where
  maps : Vector FeedMap 4
  deriving DecidableEq, Repr

/-! ### Tap Gain Unit -/

/-- A tap's mode; the anchor N is present in TRACK alone (R35). -/
inductive TapMode where
  | follow
  | track (anchor : Int)
  deriving DecidableEq, Repr

/-- A tap record (R35). -/
structure Tap where
  mode : TapMode
  offset : Int
  target : Int
  current : Int
  mute : Bool
  limit : Bool
  deriving DecidableEq, Repr

structure PendingLaw where
  table : Vector Mantissa 48
  start : FrameNo
  deriving DecidableEq, Repr

structure Tgu where
  /-- `taps[f][i]` is tap (Ff, i). -/
  taps : Vector (Vector Tap 48) 4
  /-- The glide rates G (R35). -/
  glide : Vector (Fin 16) 4
  /-- The gain law in effect, its staging copy, the staging marks and the pending table (R63, R67). -/
  glt : Vector Mantissa 48
  staging : Vector Mantissa 48
  marks : Vector Bool 4
  pending : Option PendingLaw
  /-- The output samples formed in the frame in progress (R58). -/
  out : Vector (Vector Sample 48) 4
  deriving DecidableEq, Repr

/-! ### Head-Amp Controller -/

/-- A gain code, pad and phantom. -/
structure HeadAmp where
  code : Fin 64
  pad : Bool
  phantom : Bool
  deriving DecidableEq, Repr

/-- A preamp word sent and not yet effective (R71). -/
structure InFlight where
  value : HeadAmp
  sent : FrameNo
  effective : FrameNo
  deriving DecidableEq, Repr

/-- A settle mute (R71, R83): absent, the start-up hold, or an end frame. -/
inductive SettleMute where
  | absent
  | held
  | ends (frame : FrameNo)
  deriving DecidableEq, Repr

/-- A channel record (R71). Its queued entry is the entry of the channel in its bus's queue. -/
structure Channel where
  desired : HeadAmp
  inFlight : Option InFlight
  live : HeadAmp
  /-- The live analogue gain A (R72). -/
  gain : Int
  settle : SettleMute
  /-- NONE, or the owning feed (R95). -/
  owner : Option Feed
  deriving DecidableEq, Repr

/-- An entry of a bus queue (R78). -/
structure QueueEntry where
  channel : Fin 8
  value : HeadAmp
  deriving DecidableEq, Repr

structure PreampBus where
  /-- Oldest first (R78). -/
  queue : List QueueEntry
  /-- The write spacing W and the conversion delay K (R79). -/
  spacing : Nat
  delay : Nat
  /-- The preamp word last transmitted (R80). -/
  word : Option (BitVec 16)
  /-- MODEL: the opportunity of the frame in progress has been taken (log entry 2). -/
  taken : Bool
  deriving DecidableEq, Repr

structure Hac where
  channels : Vector Channel 48
  buses : Vector PreampBus 6
  /-- The settle lengths: pad in frames, phantom in units of 256 frames (R81). -/
  padSettle : Byte
  phantomSettle : Byte
  padValue : Int
  /-- The preamp law in effect, its staging copy and the staging marks (R86). -/
  plt : Vector LawEntry 64
  staging : Vector LawEntry 64
  marks : Vector Bool 4
  /-- MODEL: the channels whose write took effect in the frame in progress, its effective frame (log entry 2). -/
  landed : Vector Bool 48
  deriving DecidableEq, Repr

/-! ### Scene Unit -/

/-- What a scene entry sets (R109). -/
inductive EntryValue where
  | headAmp (code : Option (Fin 64)) (pad phantom : Option Bool)
  | trim (offset : Int)
  | mute (on : Bool)
  deriving DecidableEq, Repr

structure SceneEntry where
  input : Input
  value : EntryValue
  deriving DecidableEq, Repr

/-- A scene of the scheduled list (R113). -/
structure Scheduled where
  id : Byte
  feed : Feed
  frame : FrameNo
  entries : List SceneEntry
  deriving DecidableEq, Repr

structure Scu where
  /-- Each feed's open scene, if it has one (R109). -/
  opened : Vector (Option (List SceneEntry)) 4
  scheduled : List Scheduled
  nextId : Byte
  deriving DecidableEq, Repr

/-! ### Link Ports -/

/-- A link port's state with its run count (R129). -/
inductive LinkState where
  | down
  | seek (goodRun : Nat)
  | up (badRun : Nat)
  deriving DecidableEq, Repr

structure LinkPort where
  state : LinkState
  /-- MODEL: an outcome has been taken in the frame in progress (log entry 6). -/
  judged : Bool
  /-- MODEL: an outcome that takes the port DOWN waits for the other port's outcome (log entry 9). -/
  held : Bool
  /-- The downstream frame last sent on the port (R124). -/
  sent : List Byte
  deriving DecidableEq, Repr

/-- The main port P(2k) or the reserve port P(2k+1) of a feed. -/
inductive Role where
  | main
  | reserve
  deriving DecidableEq, Repr

/-- A feed record (R131): the feed is ONLINE when it has a control port. -/
structure FeedRecord where
  control : Option Role
  resync : Bool
  /-- MODEL: the feed came ONLINE in the frame in progress (log entry 9). -/
  cameOnline : Bool
  deriving DecidableEq, Repr

structure Lnk where
  ports : Vector LinkPort 8
  feeds : Vector FeedRecord 4
  deriving DecidableEq, Repr

/-! ### Control Lane Engine -/

/-- A request or a response: its tag, kind byte and parameters (R139). -/
structure Message where
  tag : Byte
  kind : Byte
  params : List Byte
  deriving DecidableEq, Repr

/-- The table a LAW notice names (R68). -/
inductive LawTable where
  | glt
  | plt
  deriving DecidableEq, Repr

/-- The cause in an OWNER notice (R104). -/
inductive OwnerCause where
  | claim
  | takeover
  | release
  | assign
  deriving DecidableEq, Repr

/-- A notice, with the fields its chapter gives it (09_the_control_lane.md, "Notice parameters"). -/
inductive Notice where
  | headAmp (input : Input) (live : HeadAmp) (gain : Int) (frame : FrameNo)
  | owner (input : Input) (new previous : Option Feed) (cause : OwnerCause) (frame : FrameNo)
  | claimSeen (input : Input) (claimer : Feed) (frame : FrameNo)
  | limit (input : Input) (set : Bool) (target unclamped : Int) (frame : FrameNo)
  | clip (input : Input) (captured : FrameNo) (code : Fin 64) (pad : Bool) (magnitude count : Nat)
  | meter (first : Input) (codes : List Nat)
  | sceneDone (id : Byte) (frame : FrameNo) (applied skipped firstSkipped : Nat)
  | clock (state : ClockState) (frame : FrameNo)
  | input (port : Group) (state : ConverterState) (frame : FrameNo)
  | storeDone (ok : Bool) (frame : FrameNo)
  | law (table : LawTable) (frame : FrameNo)
  deriving DecidableEq, Repr

/-- A feed's message assembler (R141, R142). -/
inductive Assembler where
  | waitSom
  | collecting (got : List Byte) (expected : Nat)
  deriving DecidableEq, Repr

/-- The queue whose head a serialiser is sending. -/
inductive Source where
  | response
  | notice
  deriving DecidableEq, Repr

/-- A feed's serialiser (R148): idle, or sending the head of a queue, with the bytes still to be sent. -/
inductive Serialiser where
  | idle
  | sending (source : Source) (rest : List Byte)
  deriving DecidableEq, Repr

/-- What the CLE holds for one feed. -/
structure Lane where
  assembler : Assembler
  requests : List Message
  /-- MODEL: a request completed in this frame that joins after the round (log entry 8). -/
  arriving : Option Message
  responses : List Message
  notices : List Notice
  serialiser : Serialiser
  deriving DecidableEq, Repr

structure Cle where
  lanes : Vector Lane 4
  supervisor : Feed
  /-- The arbiter's pointer (R145). -/
  pointer : Feed
  /-- MODEL: the feeds that the round of the frame in progress has still to consider, once it has begun (log entry 4). -/
  left : Option (List Feed)
  deriving DecidableEq, Repr

/-! ### Level Meter Unit -/

structure Subscription where
  /-- The period P, in units of 256 frames (R153). -/
  period : Byte
  /-- The period end frame. -/
  ends : FrameNo
  /-- The listed inputs in subscription order, each with its peak accumulator. -/
  peaks : List (Input × Nat)
  deriving DecidableEq, Repr

inductive ClipMode where
  | off
  | oneShot
  | cyclic
  deriving DecidableEq, Repr

inductive ClipState where
  | armed
  | captured
  | waitRearm
  deriving DecidableEq, Repr

/-- A clip record (R156). -/
structure Clip where
  mode : ClipMode
  threshold : Nat
  rearm : Nat
  state : ClipState
  frame : FrameNo
  code : Fin 64
  pad : Bool
  magnitude : Nat
  count : Nat
  deriving DecidableEq, Repr

structure Lmu where
  subscriptions : Vector (Option Subscription) 4
  clips : Vector Clip 48
  deriving DecidableEq, Repr

/-! ### Stored Image Loader -/

/-- Which load is running: the power-on load (R164) or a restart load (R165). -/
inductive LoadKind where
  | powerOn
  | restart
  deriving DecidableEq, Repr

/-- The judgement of an image (R163), with the 1,730 section bytes of a valid one. -/
inductive Judgement where
  | valid (sections : List Byte)
  | invalid
  deriving DecidableEq, Repr

/-- The load state (R161): LOADING while the read runs, LOADING still in the frame of its completion, READY. -/
inductive LoadState where
  | loading (kind : LoadKind)
  | complete (kind : LoadKind) (judgement : Judgement)
  | ready
  deriving DecidableEq, Repr

structure Sil where
  load : LoadState
  /-- The save state (R166): idle, or SAVING with the snapshot of the section bytes. -/
  saving : Option (List Byte)
  defaults : Bool
  /-- The bytes of the stored image in the EEPROM. -/
  eeprom : List Byte
  deriving DecidableEq, Repr

/-! ### The whole part -/

structure State where
  ftu : Ftu
  cvp : Cvp
  smu : Smu
  tgu : Tgu
  hac : Hac
  scu : Scu
  lnk : Lnk
  cle : Cle
  lmu : Lmu
  sil : Sil
  /-- MODEL: the frame step of the frame in progress has been taken (log entry 1). -/
  stepped : Bool
  /-- MODEL: the commands waiting, first in first out. -/
  pending : List Instr
  deriving DecidableEq, Repr

/-- Reasons the part stops. There are none: no rule of the spec stops the part. -/
inductive Fault where
  deriving DecidableEq, Repr

/-- Reasons the model gives a command no meaning. -/
inductive Refusal where
  /-- Raised by an arm of `exec` for a command not modelled yet, by its mnemonic; safe. No arm raises it now. -/
  | notModelled (mnemonic : String)
  deriving DecidableEq, Repr

/-! ### Values at power-on -/

/-- R55. -/
def Tap.reset : Tap :=
  { mode := .follow, offset := 0, target := 0, current := 0, mute := false, limit := false }

/-- Code 0, pad off, phantom off (R91). -/
def HeadAmp.zero : HeadAmp := { code := 0, pad := false, phantom := false }

/-- R91, R107. -/
def Channel.reset : Channel :=
  { desired := HeadAmp.zero, inFlight := none, live := HeadAmp.zero, gain := 0, settle := .held, owner := none }

/-- R91; no word has been sent (log entry 14). -/
def PreampBus.reset : PreampBus :=
  { queue := [], spacing := 4, delay := 12, word := none, taken := false }

/-- R137; no frame has been sent (log entry 14). -/
def LinkPort.reset : LinkPort :=
  { state := .down, judged := false, held := false, sent := [] }

/-- R137. -/
def FeedRecord.reset : FeedRecord := { control := none, resync := false, cameOnline := false }

/-- R151. -/
def Lane.reset : Lane :=
  { assembler := .waitSom, requests := [], arriving := none, responses := [], notices := [], serialiser := .idle }

/-- The built-in values of a clip record (R156). -/
def Clip.reset : Clip :=
  { mode := .off, threshold := 8000000, rearm := 4000000, state := .armed, frame := 0, code := 0, pad := false,
    magnitude := 0, count := 0 }

/-- R28. -/
def FeedMap.reset : FeedMap := { inForce := { windows := [], slots := [] }, pending := none }

/-- R5. -/
def ConverterPort.reset : ConverterPort := { state := .fault, goodRun := 0, judged := false }

/-- R1, R3, R16. -/
def Ftu.reset : Ftu :=
  { frame := 0, rate := .k48, sources := [.feed 0, .internal], revertDelay := 188, holdoverLimit := 2813,
    clock := .free, holdoverTimer := none, revertTimer := none, wordclock := false }

/-- R5; samples by log entry 14. -/
def Cvp.reset : Cvp := { ports := tab fun _ => ConverterPort.reset, samples := tab fun _ => 0 }

/-- R28. -/
def Smu.reset : Smu := { maps := tab fun _ => FeedMap.reset }

/-- R55, R70; output samples by log entry 14. -/
def Tgu.reset : Tgu :=
  { taps := tab fun _ => tab fun _ => Tap.reset, glide := tab fun _ => 2, glt := builtinGlt, staging := builtinGlt,
    marks := tab fun _ => false, pending := none, out := tab fun _ => tab fun _ => 0 }

/-- R91. -/
def Hac.reset : Hac :=
  { channels := tab fun _ => Channel.reset, buses := tab fun _ => PreampBus.reset, padSettle := 96,
    phantomSettle := 188, padValue := -160, plt := builtinPlt, staging := builtinPlt, marks := tab fun _ => false,
    landed := tab fun _ => false }

/-- R123. -/
def Scu.reset : Scu := { opened := tab fun _ => none, scheduled := [], nextId := 1 }

/-- R137. -/
def Lnk.reset : Lnk := { ports := tab fun _ => LinkPort.reset, feeds := tab fun _ => FeedRecord.reset }

/-- R151. -/
def Cle.reset : Cle := { lanes := tab fun _ => Lane.reset, supervisor := 0, pointer := 0, left := none }

/-- R155, R160. -/
def Lmu.reset : Lmu := { subscriptions := tab fun _ => none, clips := tab fun _ => Clip.reset }

/-- R163, R164; the EEPROM's bytes by log entry 11. -/
def Sil.reset : Sil := { load := .loading .powerOn, saving := none, defaults := false, eeprom := [] }

/-- The part right after the reset pin is released: frame 0, at the start of the power-on load (R1, R164). -/
def State.reset : State :=
  { ftu := Ftu.reset, cvp := Cvp.reset, smu := Smu.reset, tgu := Tgu.reset, hac := Hac.reset, scu := Scu.reset,
    lnk := Lnk.reset, cle := Cle.reset, lmu := Lmu.reset, sil := Sil.reset, stepped := false, pending := [] }

end Sys2Proof.Machine
end

