-- ==== Sys2Proof/Machine/Ops.lean ====
section
/-! DEFINITION. The shared operations: comparing frame numbers, limiting a value, writing a number as bytes, the relations
between inputs, ports and feeds, and the named reads and updates of the state. -/

namespace Sys2Proof.Machine

/-! ### Frame numbers -/

/-- The lead of frame `x` at frame `now` (00_scope.md, "Frames and time"). -/
def lead (x now : FrameNo) : Int := (x - now).toInt

/-- Frame `x` is not after frame `y` (00_scope.md, "Frames and time"). -/
def notAfter (x y : FrameNo) : Bool := decide (0 ≤ (y - x).toInt)

/-- A held frame `x` is due at frame `n` (R2). -/
def due (x n : FrameNo) : Bool := notAfter x n

/-- The frame `k` units of 256 frames after `n`. -/
def unitsAfter (n : FrameNo) (k : Nat) : FrameNo := n + BitVec.ofNat 32 (k * 256)

/-! ### Limiting -/

/-- clamp(x) to [lo, hi] (00_scope.md, "Numbers and units"). -/
def clampTo (lo hi x : Int) : Int := if x < lo then lo else if hi < x then hi else x

/-- A trim limited to −320 to +192 (R35). -/
def clampTrim (x : Int) : Int := clampTo (-320) 192 x

/-- A code limited to 0 to 63 (R75, R76). -/
def clampCode (x : Int) : Fin 64 := Fin.ofNat 64 (clampTo 0 63 x).toNat

/-! ### Bytes, most significant first -/

/-- The low `k` bytes of `n`. -/
def be : Nat → Nat → List Byte
  | 0, _ => []
  | k + 1, n => BitVec.ofNat 8 (n >>> (8 * k)) :: be k n

/-- A signed number as two bytes, two's complement. -/
def be16s (x : Int) : List Byte := be 2 (BitVec.ofInt 16 x).toNat

/-- A frame number as four bytes. -/
def beFrame (n : FrameNo) : List Byte := be 4 n.toNat

/-- The unsigned number that bytes spell. -/
def ofBe (bytes : List Byte) : Nat := bytes.foldl (fun acc b => acc * 256 + b.toNat) 0

/-- One byte holding `n`. -/
def byte (n : Nat) : Byte := BitVec.ofNat 8 n

/-- One byte: 1 for true, 0 for false. -/
def bit (b : Bool) : Byte := if b then 1 else 0

/-- The byte of an owner or feed field: 0 to 3, and 4 for NONE (R77, R104). -/
def ownerByte : Option Feed → Byte
  | none => 4
  | some f => byte f

/-! ### Inputs, groups, ports and feeds (00_scope.md, "Numbering of inputs, ports and feeds") -/

/-- The converter port and preamp bus of input `i`: floor(i / 8). -/
def groupOf (i : Input) : Group := ⟨i.val / 8, by omega⟩

/-- The channel-in-bus of input `i`: i − 8n. -/
def placeOf (i : Input) : Fin 8 := ⟨i.val % 8, by omega⟩

/-- The input at place `j` of group `g`: 8n + j. -/
def inputAt (g : Group) (j : Fin 8) : Input := ⟨8 * g.val + j.val, by omega⟩

/-- The feed of port P(2k) or P(2k+1). -/
def feedOf (p : Port) : Feed := ⟨p.val / 2, by omega⟩

/-- Whether a port is its feed's main or reserve port. -/
def roleOf (p : Port) : Role := if p.val % 2 = 0 then .main else .reserve

/-- The other role. -/
def Role.other : Role → Role
  | .main => .reserve
  | .reserve => .main

/-- The port of feed `f` in a role. -/
def portOf (f : Feed) : Role → Port
  | .main => ⟨2 * f.val, by omega⟩
  | .reserve => ⟨2 * f.val + 1, by omega⟩

/-- The inputs 0 to 47 in order. -/
def inputs : List Input := List.finRange 48

/-! ### Reads -/

/-- Feed `f` is ONLINE (R131). -/
def State.online (s : State) (f : Feed) : Bool := s.lnk.feeds[f].control.isSome

/-- The load state is LOADING (R161). -/
def State.loading (s : State) : Bool := decide (s.sil.load ≠ .ready)

/-- Feed `f`'s lane. -/
def State.lane (s : State) (f : Feed) : Lane := s.cle.lanes[f]

/-- Tap (Ff, i). -/
def State.tap (s : State) (f : Feed) (i : Input) : Tap := s.tgu.taps[f][i]

/-- The channel record of input `i`. -/
def State.channel (s : State) (i : Input) : Channel := s.hac.channels[i]

/-- The map of a feed in force at frame `n`: a pending map whose frame has come is in force (R25). -/
def FeedMap.current (m : FeedMap) (n : FrameNo) : SlotMap :=
  match m.pending with
  | some p => if due p.start n then p.map else m.inForce
  | none => m.inForce

/-- The map of feed `f` in force at the frame in progress (R25). -/
def State.slotMap (s : State) (f : Feed) : SlotMap := s.smu.maps[f].current s.ftu.frame

/-- The gain law in effect at frame `n`: a pending table whose frame has come is in effect (R67). -/
def Tgu.law (t : Tgu) (n : FrameNo) : Vector Mantissa 48 :=
  match t.pending with
  | some p => if due p.start n then p.table else t.glt
  | none => t.glt

/-- Feed `f` carries input `i` at the frame in progress (R34). -/
def State.carries (s : State) (f : Feed) (i : Input) : Bool :=
  decide (SlotEntry.input i ∈ (s.slotMap f).slots)

/-- The sample of input `i` for the frame in progress: 0 while its converter port is in FAULT (R6). -/
def State.sample (s : State) (i : Input) : Sample :=
  if s.cvp.ports[groupOf i].state = .running then s.cvp.samples[i] else 0

/-- The channel is under settle mute at frame `n` (R81). -/
def Channel.settleMuted (c : Channel) (n : FrameNo) : Bool :=
  match c.settle with
  | .absent => false
  | .held => true
  | .ends x => notAfter n x

/-- The last-sent values of a channel (R71). -/
def Channel.lastSent (c : Channel) : HeadAmp :=
  match c.inFlight with
  | some w => w.value
  | none => c.live

/-- The entry of channel `i` in its bus's queue, if it has one (R71, R78). -/
def State.queued (s : State) (i : Input) : Option QueueEntry :=
  s.hac.buses[groupOf i].queue.find? fun e => decide (e.channel = placeOf i)

/-! ### Updates -/

/-- Tap (Ff, i) replaced by `g` of itself. -/
def Tgu.onTap (f : Feed) (i : Input) (g : Tap → Tap) (t : Tgu) : Tgu :=
  { t with taps := upd t.taps f fun row => upd row i g }

/-- The channel record of input `i` replaced by `g` of itself. -/
def Hac.onChannel (i : Input) (g : Channel → Channel) (h : Hac) : Hac :=
  { h with channels := upd h.channels i g }

/-- Bus `b` replaced by `g` of itself. -/
def Hac.onBus (b : Group) (g : PreampBus → PreampBus) (h : Hac) : Hac :=
  { h with buses := upd h.buses b g }

/-- Feed `f`'s lane replaced by `g` of itself. -/
def Cle.onLane (f : Feed) (g : Lane → Lane) (c : Cle) : Cle :=
  { c with lanes := upd c.lanes f g }

/-- Feed `f`'s record replaced by `g` of itself. -/
def Lnk.onFeed (f : Feed) (g : FeedRecord → FeedRecord) (l : Lnk) : Lnk :=
  { l with feeds := upd l.feeds f g }

/-- Port `p` replaced by `g` of itself. -/
def Lnk.onPort (p : Port) (g : LinkPort → LinkPort) (l : Lnk) : Lnk :=
  { l with ports := upd l.ports p g }

end Sys2Proof.Machine
end

