-- ==== Sys2Proof/Machine/Flags.lean ====
section
/-! DEFINITION. The values that states, flags, modes and result codes take in bytes: R147, R150, the kinds of record
fields, and the flag bytes of the downstream header (R124, R125). -/

namespace Sys2Proof.Machine

/-- The result codes of R147. -/
inductive Result where
  | ok
  | clamped
  | taken
  | notOwner
  | owned
  | notSupervisor
  | unmapped
  | range
  | state
  | busy
  | queueFull
  | malformed
  | starting
  deriving DecidableEq, Repr

/-- The result byte (R147). -/
def Result.byte : Result → Byte
  | .ok => 0
  | .clamped => 1
  | .taken => 2
  | .notOwner => 3
  | .owned => 4
  | .notSupervisor => 5
  | .unmapped => 6
  | .range => 7
  | .state => 8
  | .busy => 9
  | .queueFull => 10
  | .malformed => 11
  | .starting => 12

/-- OK, or CLAMPED when a value was limited. -/
def okOrClamped (clamped : Bool) : Result := if clamped then .clamped else .ok

/-- Code, pad and phantom as three bytes (R77). -/
def HeadAmp.bytes (h : HeadAmp) : List Byte := [Machine.byte h.code, bit h.pad, bit h.phantom]

/-- R104. -/
def OwnerCause.byte : OwnerCause → Byte
  | .claim => 0
  | .takeover => 1
  | .release => 2
  | .assign => 3

/-- A clock source code (R14). -/
def ClockSource.byte : ClockSource → Byte
  | .internal => 0
  | .wordclock => 1
  | .feed k => Machine.byte (2 + k.val)

/-- The source a clock source code names (R14). -/
def ClockSource.ofCode : Nat → Option ClockSource
  | 0 => some .internal
  | 1 => some .wordclock
  | 2 => some (.feed 0)
  | 3 => some (.feed 1)
  | 4 => some (.feed 2)
  | 5 => some (.feed 3)
  | _ => none

/-- A clock state (R150). -/
def ClockState.byte : ClockState → Byte
  | .locked _ => 0
  | .holdover => 1
  | .free => 2

/-- The clock source, 255 when not LOCKED (R147, R150). -/
def ClockState.sourceByte : ClockState → Byte
  | .locked c => c.byte
  | _ => 255

/-- A rate mode (R150). -/
def Rate.byte : Rate → Byte
  | .k48 => 0
  | .k96 => 1

/-- A converter port state (R150). -/
def ConverterState.byte : ConverterState → Byte
  | .fault => 0
  | .running => 1

/-- A link port state (R150). -/
def LinkState.byte : LinkState → Byte
  | .down => 0
  | .seek _ => 1
  | .up _ => 2

/-- A feed state (R150). -/
def FeedRecord.byte (r : FeedRecord) : Byte :=
  match r.control with
  | none => 0
  | some .main => 1
  | some .reserve => 2

/-- A clip mode (R158). -/
def ClipMode.byte : ClipMode → Byte
  | .off => 0
  | .oneShot => 1
  | .cyclic => 2

/-- The clip mode a byte names (R158). -/
def ClipMode.ofCode : Nat → Option ClipMode
  | 0 => some .off
  | 1 => some .oneShot
  | 2 => some .cyclic
  | _ => none

/-- A clip state (R159). -/
def ClipState.byte : ClipState → Byte
  | .armed => 0
  | .captured => 1
  | .waitRearm => 2

/-- Staging marks as one byte: block b's mark is the bit of value 2^b (R69). -/
def marksByte (m : Vector Bool 4) : Byte :=
  byte (m[0].toNat + 2 * m[1].toNat + 4 * m[2].toNat + 8 * m[3].toNat)

/-- Flags A of the downstream header (R124): STARTING, RESYNC, DEFAULTS, SOM and the control byte count. -/
def flagsA (starting resync defaults som : Bool) (count : Nat) : Byte :=
  byte (128 * starting.toNat + 64 * resync.toNat + 32 * defaults.toNat + 16 * som.toNat + count)

/-- Flags B of the downstream header (R124): clock state, feed id and port role. -/
def flagsB (clock : ClockState) (f : Feed) (role : Role) : Byte :=
  byte (64 * clock.byte.toNat + 16 * f.val + 8 * (if role = .main then 0 else 1))

end Sys2Proof.Machine
end

