-- ==== Sys2Proof/Machine/Notices.lean ====
section
/-! DEFINITION. Notices: their keys, their bytes, and how the CLE queues one (R149). -/

namespace Sys2Proof.Machine

/-- The notice kinds (09_the_control_lane.md, "Notice parameters"). -/
def Notice.kind : Notice → Byte
  | .headAmp .. => 0x80
  | .owner .. => 0x81
  | .claimSeen .. => 0x82
  | .limit .. => 0x83
  | .clip .. => 0x84
  | .meter .. => 0x85
  | .sceneDone .. => 0x86
  | .clock .. => 0x87
  | .input .. => 0x88
  | .storeDone .. => 0x89
  | .law .. => 0x8A

/-- The key value of a notice (R149); 0 for the kinds that have one key. -/
def Notice.keyValue : Notice → Nat
  | .headAmp i .. => i
  | .owner i .. => i
  | .claimSeen i .. => i
  | .limit i .. => i
  | .clip i .. => i
  | .meter i .. => i
  | .sceneDone id .. => id.toNat
  | .clock .. => 0
  | .input p .. => p
  | .storeDone .. => 0
  | .law t .. => if t = .glt then 0 else 1

/-- Two notices share a key: their kinds and their key values agree (R149). -/
def Notice.sameKey (a b : Notice) : Bool := decide (a.kind = b.kind ∧ a.keyValue = b.keyValue)

/-- A LIMIT notice's unclamped target field: two bytes, a free value outside their range (log entry 13). -/
def unclampedBytes (frame : FrameNo) (i : Input) (x : Int) : List Byte :=
  if -32768 ≤ x ∧ x ≤ 32767 then be16s x else be 2 (Config.unclampedField frame i x).toNat

/-- The parameters of a notice (09_the_control_lane.md, "Notice parameters"). -/
def Notice.params : Notice → List Byte
  | .headAmp i live gain frame => byte i :: live.bytes ++ be16s gain ++ beFrame frame
  | .owner i new previous cause frame => [byte i, ownerByte new, ownerByte previous, cause.byte] ++ beFrame frame
  | .claimSeen i claimer frame => [byte i, byte claimer] ++ beFrame frame
  | .limit i set target unclamped frame =>
    [byte i, bit set] ++ be16s target ++ unclampedBytes frame i unclamped ++ beFrame frame
  | .clip i captured code pad magnitude count =>
    byte i :: beFrame captured ++ [byte code, bit pad] ++ be 3 magnitude ++ [byte count]
  | .meter first codes => [byte first, byte codes.length] ++ codes.map byte
  | .sceneDone id frame applied skipped firstSkipped =>
    id :: beFrame frame ++ [byte applied, byte skipped, byte firstSkipped]
  | .clock state frame => [state.byte, state.sourceByte] ++ beFrame frame
  | .input port state frame => [byte port, state.byte] ++ beFrame frame
  | .storeDone ok frame => bit (!ok) :: beFrame frame
  | .law table frame => (if table = .glt then 0 else 1) :: beFrame frame

/-- How many notices at the head of the queue are not waiting: the one being sent, if any (R149). -/
def Lane.sendingNotice (l : Lane) : Nat :=
  match l.serialiser with
  | .sending .notice _ => 1
  | _ => 0

/-- A waiting notice of the queue has the key of `nt` (R149). -/
def Lane.hasWaiting (nt : Notice) (l : Lane) : Bool :=
  (l.notices.drop l.sendingNotice).any nt.sameKey

/-- Steps 2 to 4 of R149: the waiting notice of the same key is replaced in place, or the notice joins a queue of fewer
than sixteen, or it is dropped. -/
def Lane.offer (nt : Notice) (l : Lane) : Lane :=
  { l with notices :=
      if l.hasWaiting nt then
        l.notices.take l.sendingNotice ++
          (l.notices.drop l.sendingNotice).map fun m => if nt.sameKey m then nt else m
      else if l.notices.length < 16 then l.notices ++ [nt]
      else l.notices }

/-- Step 4 of R149 applies: the notice is dropped for want of room. -/
def Lane.overflows (nt : Notice) (l : Lane) : Bool :=
  !l.hasWaiting nt && decide (16 ≤ l.notices.length)

/-- A notice handed to the CLE for feed `f` when `b` holds (R149): dropped when the feed is OFFLINE; RESYNC is set when the
queue overflows. -/
def notifyIf (b : Bool) (f : Feed) (nt : Notice) (s : State) : State :=
  { s with
    cle := if b && s.online f then s.cle.onLane f (·.offer nt) else s.cle
    lnk := if b && s.online f && (s.lane f).overflows nt
      then s.lnk.onFeed f fun r => { r with resync := true } else s.lnk }

/-- A notice handed to the CLE for every feed that `p` addresses. -/
def notifyWhere (p : Feed → Bool) (nt : Notice) (s : State) : State :=
  notifyIf (p 3) 3 nt (notifyIf (p 2) 2 nt (notifyIf (p 1) 1 nt (notifyIf (p 0) 0 nt s)))

end Sys2Proof.Machine
end

