-- ==== Sys2Proof/Machine/Clock.lean ====
section
/-! DEFINITION. The sample clock: availability of sources, the revert rule, the evaluation of the list and the two
timers (R8 to R16), and the commands of the word clock and of the timers. -/

namespace Sys2Proof.Machine

/-- A source is available (R8). -/
def State.available (s : State) : ClockSource → Bool
  | .internal => true
  | .wordclock => s.ftu.wordclock
  | .feed k => s.online k

/-- The highest-priority listed source that is available (R10). -/
def Ftu.best (avail : ClockSource → Bool) (u : Ftu) : Option ClockSource := u.sources.find? avail

/-- The revert candidate of LOCKED(`c`): the highest-priority available source listed above `c`. -/
def Ftu.candidate (avail : ClockSource → Bool) (c : ClockSource) (u : Ftu) : Option ClockSource :=
  (u.sources.takeWhile fun x => decide (x ≠ c)).find? avail

/-- The revert rule (R11) in the frame of an event: the timer runs for the present candidate; with a revert delay of 0 the
switch happens at once. -/
def Ftu.applyRevert (avail : ClockSource → Bool) (u : Ftu) : Ftu :=
  match u.clock with
  | .locked c =>
    match u.candidate avail c with
    | none => { u with revertTimer := none }
    | some d =>
      if u.revertTimer.map (·.1) = some d then u
      else if u.revertDelay = 0 then { u with clock := .locked d, revertTimer := none }
      else { u with revertTimer := some (d, unitsAfter u.frame u.revertDelay.toNat) }
  | _ => u

/-- LOCKED without its source: the highest available listed source, or HOLDOVER, or FREE when the holdover limit is 0
(R10, R13). -/
def Ftu.leaveLock (avail : ClockSource → Bool) (u : Ftu) : Ftu :=
  match u.best avail with
  | some b => { u with clock := .locked b, revertTimer := none }
  | none =>
    if u.holdoverLimit = 0 then { u with clock := .free, revertTimer := none }
    else
      { u with
        clock := .holdover, revertTimer := none
        holdoverTimer := some (unitsAfter u.frame u.holdoverLimit.toNat) }

/-- Source `x` has become unavailable (R10, R11). -/
def Ftu.sourceGone (avail : ClockSource → Bool) (x : ClockSource) (u : Ftu) : Ftu :=
  match u.clock with
  | .locked c => if c = x then u.leaveLock avail else u.applyRevert avail
  | _ => u

/-- Source `x` has become available (R11, R12). -/
def Ftu.sourceCame (avail : ClockSource → Bool) (x : ClockSource) (u : Ftu) : Ftu :=
  match u.clock with
  | .locked _ => u.applyRevert avail
  | _ => if x ∈ u.sources then { u with clock := .locked x, holdoverTimer := none } else u

/-- The evaluation of the list (R13). -/
def Ftu.evaluate (avail : ClockSource → Bool) (u : Ftu) : Ftu :=
  match u.clock with
  | .locked c => if c ∈ u.sources ∧ avail c = true then u.applyRevert avail else u.leaveLock avail
  | _ =>
    match u.best avail with
    | some b => { u with clock := .locked b, holdoverTimer := none }
    | none => u

/-- The revert timer expires when its frame is due (R11). -/
def Ftu.revertExpiry (u : Ftu) : Ftu :=
  match u.clock, u.revertTimer with
  | .locked _, some (d, x) => if due x u.frame then { u with clock := .locked d, revertTimer := none } else u
  | _, _ => u

/-- The holdover timer expires when its frame is due in HOLDOVER (R12). -/
def Ftu.holdoverExpiry (u : Ftu) : Ftu :=
  match u.clock, u.holdoverTimer with
  | .holdover, some x => if due x u.frame then { u with clock := .free, holdoverTimer := none } else u
  | _, _ => u

/-- An event of the FTU, with the CLOCK notice that a change of clock state or source queues to every online feed (R15). -/
def clockEvent (g : Ftu → Ftu) (s : State) : State :=
  notifyWhere (fun _ => decide ((g s.ftu).clock ≠ s.ftu.clock)) (.clock (g s.ftu).clock s.ftu.frame)
    { s with ftu := g s.ftu }

/-- The FTU takes availability events: at all times but during the power-on load (R16). -/
def State.clockListens (s : State) : Bool := decide (s.sil.load ≠ .loading .powerOn)

/-- Source `x`, already marked unavailable, is reported to the FTU. -/
def reportGone (x : ClockSource) (s : State) : State :=
  clockEvent (fun u => if s.clockListens then u.sourceGone s.available x else u) s

/-- Source `x`, already marked available, is reported to the FTU. -/
def reportCame (x : ClockSource) (s : State) : State :=
  clockEvent (fun u => if s.clockListens then u.sourceCame s.available x else u) s

/-- The word clock detector's present event (R8, R11, R12); no change when it is present already (log entry 20). -/
def wordclockPresent (s : State) : State :=
  if s.ftu.wordclock then s
  else reportCame .wordclock { s with ftu := { s.ftu with wordclock := true } }

/-- The word clock detector's absent event (R8, R10); no change when it is absent already (log entry 20). -/
def wordclockAbsent (s : State) : State :=
  if s.ftu.wordclock then reportGone .wordclock { s with ftu := { s.ftu with wordclock := false } }
  else s

/-- The work of the revert timer in the frame in progress (R11). -/
def revertTimer (s : State) : State := clockEvent Ftu.revertExpiry s

/-- The work of the holdover timer in the frame in progress (R12). -/
def holdoverTimer (s : State) : State := clockEvent Ftu.holdoverExpiry s

/-- WORDCLOCK_PRESENT (R8, R11, R12). -/
def execWordclockPresent (s : State) : Host.Outcome State Fault Refusal := .next (wordclockPresent s)

/-- WORDCLOCK_ABSENT (R8, R10). -/
def execWordclockAbsent (s : State) : Host.Outcome State Fault Refusal := .next (wordclockAbsent s)

/-- REVERT_TIMER_EXPIRY (R11). -/
def execRevertTimerExpiry (s : State) : Host.Outcome State Fault Refusal := .next (revertTimer s)

/-- HOLDOVER_TIMER_EXPIRY (R12). -/
def execHoldoverTimerExpiry (s : State) : Host.Outcome State Fault Refusal := .next (holdoverTimer s)

end Sys2Proof.Machine
end

