-- ==== Sys2Proof/Machine/Operands.lean ====
section
/-! DEFINITION. The operand forms of requests: channel sets (R29, R30, "Channel set encoding"), their translation and the
all-members check (R31 to R33), and the fields that follow a set. -/

namespace Sys2Proof.Machine

/-- A channel set: its form, whether its shape is SINGLE, and its members in set order (R30). -/
structure ChannelSet where
  inputForm : Bool
  single : Bool
  members : List Nat
  deriving DecidableEq, Repr

/-- A channel set read from the front of the parameters, with the bytes after it; none where the encoding makes the request
MALFORMED (09_the_control_lane.md, "Channel set encoding"). -/
def parseSet : List Byte → Option (ChannelSet × List Byte)
  | [] => none
  | head :: rest =>
    if head &&& 0x7C ≠ 0 then none
    else
      match (head &&& 3).toNat, rest with
      | 0, m :: after => some ({ inputForm := head.msb, single := true, members := [m.toNat] }, after)
      | 1, first :: count :: after =>
        if 1 ≤ count.toNat ∧ count.toNat ≤ 64 then
          some ({ inputForm := head.msb, single := false,
                  members := (List.range count.toNat).map fun j => first.toNat + j }, after)
        else none
      | 2, n :: after =>
        if 1 ≤ n.toNat ∧ n.toNat ≤ 16 ∧ n.toNat ≤ after.length then
          some ({ inputForm := head.msb, single := false,
                  members := (after.take n.toNat).map (·.toNat) }, after.drop n.toNat)
        else none
      | _, _ => none

/-- Parameters that are a channel set and nothing more. -/
def parseSetAlone (ps : List Byte) : Option ChannelSet :=
  match parseSet ps with
  | some (set, []) => some set
  | _ => none

/-- Parameters that are a channel set of SINGLE shape and nothing more (TAP_GET, HA_GET, CLIP_GET; R30). -/
def parseSingle (ps : List Byte) : Option ChannelSet :=
  match parseSetAlone ps with
  | some set => if set.single then some set else none
  | none => none

/-- A byte that must be 0 or 1. -/
def parseBit (b : Byte) : Option Bool :=
  if b = 0 then some false else if b = 1 then some true else none

/-- Two bytes as a signed number, most significant first. -/
def signed16 (hi lo : Byte) : Int := (hi ++ lo).toInt

/-- The presence byte and present fields of a head-amp change (R75): code byte as sent, pad, phantom. -/
def parseHeadAmp : List Byte → Option (Option Nat × Option Bool × Option Bool)
  | [] => none
  | presence :: rest =>
    if presence = 0 ∨ 7 < presence.toNat then none
    else
      let code := presence.getLsbD 0
      let pad := presence.getLsbD 1
      let phantom := presence.getLsbD 2
      if rest.length ≠ code.toNat + pad.toNat + phantom.toNat then none
      else
        let codeByte := if code then rest[0]? else none
        let padByte := if pad then rest[code.toNat]? else none
        let phantomByte := if phantom then rest[code.toNat + pad.toNat]? else none
        if padByte.any (fun b => (parseBit b).isNone) || phantomByte.any (fun b => (parseBit b).isNone) then none
        else some (codeByte.map (·.toNat), padByte.bind parseBit, phantomByte.bind parseBit)

/-- The code a code byte gives: a value above 63 is taken as 63 (R75). -/
def codeOf (n : Nat) : Fin 64 := clampCode n

/-- A code byte was above 63. -/
def codeClamped (code : Option Nat) : Bool := code.any fun n => decide (63 < n)

/-- The translation of one member (R31). -/
def State.translate (s : State) (f : Feed) (inputForm : Bool) (m : Nat) : Except Result Input :=
  if inputForm then
    if h : m < 48 then .ok ⟨m, h⟩ else .error .range
  else
    match (s.slotMap f).slots[m]? with
    | some (.input i) => .ok i
    | _ => .error .unmapped

/-- The all-members check from position `pos` on (R33): each member is translated, a repeated input is passed over (R32),
and the request's own check is made; the first failure with its position, or the deduplicated inputs. -/
def State.resolveFrom (s : State) (f : Feed) (inputForm : Bool) (check : Input → Option Result) :
    Nat → List Input → List Nat → Except (Result × Nat) (List Input)
  | _, found, [] => .ok found
  | pos, found, m :: rest =>
    match s.translate f inputForm m with
    | .error e => .error (e, pos)
    | .ok i =>
      if i ∈ found then s.resolveFrom f inputForm check (pos + 1) found rest
      else
        match check i with
        | some e => .error (e, pos)
        | none => s.resolveFrom f inputForm check (pos + 1) (found ++ [i]) rest

/-- The inputs a set gives a request of feed `f`, or the code and position of its first failing member (R31 to R33). -/
def State.resolve (s : State) (f : Feed) (set : ChannelSet) (check : Input → Option Result) :
    Except (Result × Nat) (List Input) :=
  s.resolveFrom f set.inputForm check 0 [] set.members

/-- No check beyond translation. -/
def noCheck : Input → Option Result := fun _ => none

/-- A check that every input must pass, with the code of its failure. -/
def mustHold (p : Input → Bool) (code : Result) : Input → Option Result :=
  fun i => if p i then none else some code

end Sys2Proof.Machine
end

