-- ==== Sys2Proof/Machine/Reply.lean ====
section
/-! DEFINITION. What an executed request answers (R147) and the checks every request goes through (R146). -/

namespace Sys2Proof.Machine

/-- The state after a request and the parameters of its response. -/
abbrev Reply := State × List Byte

/-- A refusal whose response is the result byte alone (R147). -/
def refuse (r : Result) (s : State) : Reply := (s, [r.byte])

/-- A refusal by the all-members check: the result byte and the position of the member (R33, R147). -/
def refuseAt (e : Result × Nat) (s : State) : Reply := (s, [e.1.byte, byte e.2])

/-- An accepted request: the result byte and the fields of its own rule (R147). -/
def accept (r : Result) (fields : List Byte) (s : State) : Reply := (s, r.byte :: fields)

/-- The privileged requests (R96). -/
def privileged : ReqKind → Bool
  | .clockSet | .lawStage | .lawApply | .plawStage | .plawApply | .ownAssign | .supervisorSet | .devRestart
  | .storeSave => true
  | _ => false

/-- Checks 2 to 5 of R146, then the request's own body: `parsed` is none when the parameters make it MALFORMED, and
`inputForm` says whether its channel set, if it takes one, is in INPUT form. -/
def runRequest {α : Type} (kind : ReqKind) (parsed : Option α) (inputForm : α → Bool) (f : Feed)
    (body : α → State → Reply) (s : State) : Reply :=
  match parsed with
  | none => refuse .malformed s
  | some p =>
    if s.loading && decide (kind ≠ .devStatus) then refuse .starting s
    else if privileged kind && decide (f ≠ s.cle.supervisor) then refuse .notSupervisor s
    else if inputForm p && decide (f ≠ s.cle.supervisor) then refuse .notSupervisor s
    else body p s

/-- A request without a channel set. -/
def noSet {α : Type} : α → Bool := fun _ => false

/-- Parameters that must be absent. -/
def parseNone (ps : List Byte) : Option Unit := if ps = [] then some () else none

/-- The body of a request on the inputs of a set: refused by the first failing member, or carried out (R33). -/
def onInputs (f : Feed) (set : ChannelSet) (check : State → Input → Option Result)
    (body : List Input → State → Reply) (s : State) : Reply :=
  match s.resolve f set (check s) with
  | .error e => refuseAt e s
  | .ok is => body is s

end Sys2Proof.Machine
end

