-- ==== Sys2Proof/Machine/ClockRequests.lean ====
section
/-! DEFINITION. CLOCK_SET (R14). -/

namespace Sys2Proof.Machine

/-- The parameters of CLOCK_SET: the source codes and, when present, the revert delay and the holdover limit. -/
structure ClockSetParams where
  codes : List Nat
  lengths : Option (Byte × BitVec 16)

/-- R14: a count n of at most 4, n source codes, and optionally three bytes of timer lengths. -/
def parseClockSet : List Byte → Option ClockSetParams
  | [] => none
  | n :: rest =>
    if 4 < n.toNat then none
    else if rest.length = n.toNat then some { codes := rest.map (·.toNat), lengths := none }
    else
      match rest.drop n.toNat with
      | [revert, hi, lo] =>
        some { codes := (rest.take n.toNat).map (·.toNat), lengths := some (revert, hi ++ lo) }
      | _ => none

/-- The list that source codes name; none when there is no code, a code is above 5 or a source appears twice (R14). -/
def sourcesOf (codes : List Nat) : Option (List ClockSource) :=
  if codes = [] ∨ ¬ codes.Nodup then none else codes.mapM ClockSource.ofCode

/-- The list and, when present, the timer lengths replaced (R14). -/
def Ftu.replaceList (sources : List ClockSource) (lengths : Option (Byte × BitVec 16)) (u : Ftu) : Ftu :=
  { u with
    sources := sources
    revertDelay := (lengths.map (·.1)).getD u.revertDelay
    holdoverLimit := (lengths.map (·.2)).getD u.holdoverLimit }

/-- The list replaced and evaluated at once (R13, R14), with the CLOCK notice of a change (R15). -/
def setClock (sources : List ClockSource) (lengths : Option (Byte × BitVec 16)) (s : State) : State :=
  clockEvent (fun u => (u.replaceList sources lengths).evaluate s.available) s

/-- CLOCK_SET (R14). -/
def reqClockSet (f : Feed) (ps : List Byte) : State → Reply :=
  runRequest .clockSet (parseClockSet ps) noSet f fun p s =>
    match sourcesOf p.codes with
    | none => refuse .range s
    | some sources =>
      let t := setClock sources p.lengths s
      accept .ok [t.ftu.clock.byte, t.ftu.clock.sourceByte] t

end Sys2Proof.Machine
end

