-- ==== Sys2Proof/Machine/Maps.lean ====
section
/-! DEFINITION. Window lists and slot maps: expansion (R19 to R22), the checks of windows (R23, R24), and pending maps
coming into force (R25). -/

namespace Sys2Proof.Machine

/-- The slot capacity of a rate mode (R22). -/
def capacity : Rate → Nat
  | .k48 => 64
  | .k96 => 32

/-- The entry of input number `n`. -/
def inputEntry (n : Nat) : SlotEntry := .input (Fin.ofNat 48 n)

/-- The expansion of a window (R19 to R21). -/
def Window.expand : Window → List SlotEntry
  | .input first count .straight => (List.range count).map fun j => inputEntry (first + j)
  | .input first count .interleaved =>
    (List.range (count / 2)).flatMap fun j => [inputEntry (first + j), inputEntry (first + count / 2 + j)]
  | .silence count => List.replicate count .silence
  | .pattern count => List.replicate count .pattern

/-- The expansion of a window list (R19). -/
def expandAll (ws : List Window) : List SlotEntry := ws.flatMap Window.expand

/-- A window list with its slot map at the capacity of a rate mode (R22). -/
def SlotMap.ofWindows (rate : Rate) (ws : List Window) : SlotMap :=
  { windows := ws, slots := (expandAll ws).take (capacity rate) }

/-- The built-in default list: INPUT, first 0, count 48, STRAIGHT (R28). -/
def defaultWindows : List Window := [.input 0 48 .straight]

/-- The checks of one window in the order of R24's table: refused, or taken with whether its count was reduced. -/
def checkWindow (kind first count order : Nat) : Option (Window × Bool) :=
  if 2 < kind then none
  else if count = 0 then none
  else if kind = 0 then
    if 1 < order then none
    else if 47 < first then none
    else if order = 0 then
      if 48 < first + count then some (.input first (48 - first) .straight, true)
      else some (.input first count .straight, false)
    else if count % 2 = 1 then none
    else if 48 < first + count then
      if (48 - first) / 2 = 0 then none
      else some (.input first (2 * ((48 - first) / 2)) .interleaved, true)
    else some (.input first count .interleaved, false)
  else if 64 < count then none
  else if kind = 1 then some (.silence count, false)
  else some (.pattern count, false)

/-- The windows as sent: four bytes each, kind, first, count and order (R23). -/
def windowFields : List Byte → List (Nat × Nat × Nat × Nat)
  | k :: f :: c :: o :: rest => (k.toNat, f.toNat, c.toNat, o.toNat) :: windowFields rest
  | _ => []

/-- The windows checked one after another (R24): the index of the first refused one, or the windows taken with whether any
count was reduced. -/
def checkWindows : Nat → List (Nat × Nat × Nat × Nat) → Except Nat (List Window × Bool)
  | _, [] => .ok ([], false)
  | idx, (k, f, c, o) :: rest =>
    match checkWindow k f c o with
    | none => .error idx
    | some (w, reduced) =>
      match checkWindows (idx + 1) rest with
      | .error e => .error e
      | .ok (ws, more) => .ok (w :: ws, reduced || more)

/-- A held window as four bytes, the unused ones 0 (R23, R27). -/
def Window.bytes : Window → List Byte
  | .input first count .straight => [0, byte first, byte count, 0]
  | .input first count .interleaved => [0, byte first, byte count, 1]
  | .silence count => [1, 0, byte count, 0]
  | .pattern count => [2, 0, byte count, 0]

/-- A pending map whose frame has come becomes the map in force (R25). -/
def FeedMap.advance (n : FrameNo) (m : FeedMap) : FeedMap :=
  match m.pending with
  | some p => if due p.start n then { inForce := p.map, pending := none } else m
  | none => m

/-- The window list that a save takes as in force: the pending one if there is one (R166). -/
def FeedMap.savedWindows (m : FeedMap) : List Window :=
  match m.pending with
  | some p => p.map.windows
  | none => m.inForce.windows

/-- The pending map of feed `f` comes into force if its frame has come (R25). -/
def mapInForce (f : Feed) (s : State) : State :=
  { s with smu := { s.smu with maps := upd s.smu.maps f fun m => m.advance s.ftu.frame } }

/-- Every pending map whose frame has come is in force (R25). -/
def mapsInForce (s : State) : State :=
  { s with smu := { s.smu with maps := mapAll (fun _ m => m.advance s.ftu.frame) s.smu.maps } }

/-- PENDING_MAP_IN_FORCE (R25). -/
def execPendingMapInForce (f : Feed) (s : State) : Host.Outcome State Fault Refusal := .next (mapInForce f s)

end Sys2Proof.Machine
end

