-- ==== Sys2Proof/Machine/MapRequests.lean ====
section
/-! DEFINITION. MAP_WINDOWS and MAP_GET (R23 to R27). -/

namespace Sys2Proof.Machine

/-- R23: a window count of at most 8 and four bytes for each window. -/
def parseWindows : List Byte → Option (List (Nat × Nat × Nat × Nat))
  | [] => none
  | n :: rest => if n.toNat ≤ 8 ∧ rest.length = 4 * n.toNat then some (windowFields rest) else none

/-- The acceptance of a window list (R24, R25): it is pending from the next frame on. -/
def acceptWindows (f : Feed) (ws : List Window) (s : State) : State :=
  { s with smu :=
    { s.smu with maps := upd s.smu.maps f fun m =>
      { m with pending := some { map := SlotMap.ofWindows s.ftu.rate ws, start := s.ftu.frame + 1 } } } }

/-- MAP_WINDOWS (R23 to R25). -/
def reqMapWindows (f : Feed) (ps : List Byte) : State → Reply :=
  runRequest .mapWindows (parseWindows ps) noSet f fun fields s =>
    match checkWindows 0 fields with
    | .error idx => (s, [Result.range.byte, byte idx])
    | .ok (ws, reduced) =>
      accept (okOrClamped (reduced || decide (capacity s.ftu.rate < (expandAll ws).length)))
        [byte (SlotMap.ofWindows s.ftu.rate ws).slots.length] (acceptWindows f ws s)

/-- MAP_GET (R27). -/
def reqMapGet (f : Feed) (ps : List Byte) : State → Reply :=
  runRequest .mapGet (parseNone ps) noSet f fun _ s =>
    let m := s.slotMap f
    accept .ok (byte m.slots.length :: byte m.windows.length :: m.windows.flatMap Window.bytes) s

end Sys2Proof.Machine
end

