-- ==== Sys2Proof/Machine/GainLaw.lean ====
section
/-! DEFINITION. Coefficient arithmetic (R58 to R62), the checks of a gain law and of a preamp law (R66, R88), and the
pending gain law coming into effect (R67). -/

namespace Sys2Proof.Machine

/-- The octave part q = floor(T / 48) of a trim (R59). -/
def octave (t : Int) : Int := t / 48

/-- The step part r = T − 48q of a trim, 0 to 47 (R59). -/
def stepPart (t : Int) : Fin 48 := ⟨(t % 48).toNat, by omega⟩

/-- The shift h = 23 − q (R59). -/
def shiftOf (t : Int) : Nat := (23 - octave t).toNat

/-- y = floor((p + 2^(h−1)) / 2^h) (R60). -/
def roundShift (p : Int) (h : Nat) : Int := (p + 2 ^ (h - 1)) / 2 ^ h

/-- Saturation to the sample range (R61). -/
def saturate (y : Int) : Int := clampTo (-8388608) 8388607 y

/-- The output value of sample value `x` at trim `t` under law `m` (R59 to R61). -/
def outputValue (m : Vector Mantissa 48) (x t : Int) : Int :=
  saturate (roundShift (x * (m[stepPart t].toNat : Int)) (shiftOf t))

/-- The output sample of a sample at a trim (R58). -/
def outputSample (m : Vector Mantissa 48) (x : Sample) (t : Int) : Sample :=
  BitVec.ofInt 24 (outputValue m x.toInt t)

/-- The pattern value of frame `n`: its low 24 bits (R62). -/
def patternValue (n : FrameNo) : Sample := n.setWidth 24

/-- Checks 2 and 3 of R66 and of R88 in one pass from entry `idx` on, `prev` being the entry before it: the first failure,
as check number and entry index. -/
def firstFault (lo hi : Nat) : Nat → Option Nat → List Nat → Option (Nat × Nat)
  | _, _, [] => none
  | idx, prev, x :: rest =>
    if x < lo ∨ hi < x then some (0, idx)
    else if prev.any (fun p => decide (x < p)) then some (1, idx)
    else firstFault lo hi (idx + 1) (some x) rest

/-- The entries of a table as numbers, in index order. -/
def entries {n w : Nat} (t : Vector (BitVec w) n) : List Nat := t.toList.map (·.toNat)

/-- Checks 2 to 4 of R66 on a gain law. -/
def gltFault (t : Vector Mantissa 48) : Option (Nat × Nat) :=
  match firstFault 4194304 16777215 0 none (entries t) with
  | some e => some e
  | none => if t[47].toNat ≤ 2 * t[0].toNat then none else some (2, 47)

/-- Checks 2 and 3 of R88 on a preamp law. -/
def pltFault (t : Vector LawEntry 64) : Option (Nat × Nat) := firstFault 0 511 0 none (entries t)

/-- All four staging marks are set. -/
def allMarked (m : Vector Bool 4) : Bool := m[0] && m[1] && m[2] && m[3]

/-- No staging mark is set. -/
def noMarks : Vector Bool 4 := tab fun _ => false

/-- The pending gain law becomes the law in effect when its frame has come (R67). -/
def Tgu.advance (n : FrameNo) (t : Tgu) : Tgu :=
  match t.pending with
  | some p => if due p.start n then { t with glt := p.table, pending := none } else t
  | none => t

/-- The pending gain law takes effect if its frame has come (R67). -/
def lawInEffect (s : State) : State := { s with tgu := s.tgu.advance s.ftu.frame }

/-- PENDING_LAW_IN_EFFECT (R67). -/
def execPendingLawInEffect (s : State) : Host.Outcome State Fault Refusal := .next (lawInEffect s)

end Sys2Proof.Machine
end

