-- ==== Sys2Proof/Machine/TapGain.lean ====
section
/-! DEFINITION. Tap gain: target and limit (R36, R37), the glide and the frame step (R38 to R40), compensation (R41, R42),
the rebase (R43), and what the tap requests and scene entries do to one tap (R45 to R54). -/

namespace Sys2Proof.Machine

/-- The unclamped target of a tap at analogue gain `a`; in FOLLOW, the target (R36, R37). -/
def Tap.unclamped (a : Int) (t : Tap) : Int :=
  match t.mode with
  | .follow => t.target
  | .track n => t.offset + n - a

/-- The target and the limit flag recomputed at analogue gain `a` (R36). -/
def Tap.retarget (a : Int) (t : Tap) : Tap :=
  match t.mode with
  | .follow => { t with target := t.offset, limit := false }
  | .track n =>
    { t with
      target := clampTrim (t.offset + n - a)
      limit := decide (clampTrim (t.offset + n - a) ≠ t.offset + n - a) }

/-- A change of tap (Ff, i), with the LIMIT notice that a change of the limit flag hands over for the tap's own feed
(R37). -/
def changeTap (f : Feed) (i : Input) (g : Tap → Tap) (s : State) : State :=
  let old := s.tap f i
  let new := g old
  notifyIf (new.limit != old.limit) f
    (.limit i new.limit new.target (new.unclamped (s.channel i).gain) s.ftu.frame)
    { s with tgu := s.tgu.onTap f i fun _ => new }

/-! ### Frame step -/

/-- One glide step of a current toward a target at rate `g` (R40). -/
def glideStep (g : Nat) (current target : Int) : Int :=
  if g = 0 then target
  else if current < target then min (current + g) target
  else max (current - g) target

/-- The glide step of a tap (R40). -/
def Tap.glide (g : Fin 16) (t : Tap) : Tap := { t with current := glideStep g.val t.current t.target }

/-- The output sample of a tap for the frame in progress (R58): 0 while muted, under settle mute or faulted. -/
def State.tapOutput (s : State) (t : Tap) (i : Input) : Sample :=
  if t.mute || (s.channel i).settleMuted s.ftu.frame ||
      decide (s.cvp.ports[groupOf i].state = .fault) then 0
  else outputSample (s.tgu.law s.ftu.frame) (s.sample i) t.current

/-- The glide and the output sample of every tap (R38, steps 2 and 3). -/
def stepTaps (s : State) : State :=
  { s with tgu :=
    { s.tgu with
      taps := mapAll (fun f row => mapAll (fun _ t => t.glide s.tgu.glide[f]) row) s.tgu.taps
      out := mapAll (fun f row => mapAll (fun i t => s.tapOutput (t.glide s.tgu.glide[f]) i) row) s.tgu.taps } }

/-! ### Compensation and rebase -/

/-- The jump of a TRACK tap at a compensation event with change `delta` and new gain `a` (R41); FOLLOW is not changed. -/
def Tap.jump (delta a : Int) (t : Tap) : Tap :=
  match t.mode with
  | .follow => t
  | .track _ => Tap.retarget a { t with current := clampTrim (t.current - delta) }

/-- A compensation event for input `i`, whose new gain the channel holds already: the four taps take it (R41). -/
def compensate (i : Input) (delta : Int) (s : State) : State :=
  let g := Tap.jump delta (s.channel i).gain
  changeTap 3 i g (changeTap 2 i g (changeTap 1 i g (changeTap 0 i g s)))

/-- The anchor `n` of a tap with offset `o` moved by `d` to the new gain `a`. Outside the signed 32-bit range the result is a
free value, but for what R43 and R89 say of it: target and limit flag stay, so the unclamped target stays beyond the limit at
which the tap stands (log entry 12). -/
def moveAnchor (frame : FrameNo) (f : Feed) (i : Input) (n d o a : Int) : Int :=
  if -2147483648 ≤ n + d ∧ n + d ≤ 2147483647 then n + d
  else if 0 ≤ n + d then max (193 - o + a) (Config.anchorOverflow frame f i n d).toInt
  else min (-321 - o + a) (Config.anchorOverflow frame f i n d).toInt

/-- The rebase of one tap at new gain `a` (R43); FOLLOW is not touched. -/
def Tap.rebase (frame : FrameNo) (f : Feed) (i : Input) (d a : Int) (t : Tap) : Tap :=
  match t.mode with
  | .follow => t
  | .track n => Tap.retarget a { t with mode := .track (moveAnchor frame f i n d t.offset a) }

/-- A rebase event for input `i`, whose new gain the channel holds already (R43). -/
def rebase (i : Input) (delta : Int) (s : State) : State :=
  let g := fun f => Tap.rebase s.ftu.frame f i delta (s.channel i).gain
  changeTap 3 i (g 3) (changeTap 2 i (g 2) (changeTap 1 i (g 1) (changeTap 0 i (g 0) s)))

/-! ### What requests and scene entries do to one tap -/

/-- TAP_TRIM: a new offset, already limited, and the recomputation (R45). -/
def Tap.trim (offset a : Int) (t : Tap) : Tap := Tap.retarget a { t with offset := offset }

/-- FOLLOW to TRACK: the anchor is the live A (R47); a TRACK tap is left unchanged. -/
def Tap.toTrack (a : Int) (t : Tap) : Tap :=
  match t.mode with
  | .follow => Tap.retarget a { t with mode := .track a }
  | .track _ => t

/-- TRACK to FOLLOW: the offset is the present target (R48); a FOLLOW tap is left unchanged. -/
def Tap.toFollow (a : Int) (t : Tap) : Tap :=
  match t.mode with
  | .follow => t
  | .track _ => Tap.retarget a { t with mode := .follow, offset := t.target }

/-- TAP_ANCHOR on a TRACK tap: the offset is the present target and the anchor the live A (R49). -/
def Tap.reanchor (a : Int) (t : Tap) : Tap :=
  match t.mode with
  | .follow => t
  | .track _ => Tap.retarget a { t with mode := .track a, offset := t.target }

/-- TAP_MUTE (R51). -/
def Tap.setMute (on : Bool) (t : Tap) : Tap := { t with mute := on }

/-- The tap is in TRACK mode. -/
def Tap.tracks (t : Tap) : Bool :=
  match t.mode with
  | .follow => false
  | .track _ => true

/-- A change of feed `f`'s tap of every input of a list, in list order; `g` is given the live A of the input's channel. -/
def changeTaps (f : Feed) (g : Int → Tap → Tap) (is : List Input) (s : State) : State :=
  is.foldl (fun s i => changeTap f i (g (s.channel i).gain) s) s

end Sys2Proof.Machine
end

