-- ==== Sys2Proof/Machine/HeadAmp.lean ====
section
/-! DEFINITION. Head-amp control: the analogue gain (R72), taking a change (R73), the buses (R78 to R80), settle mutes
(R81 to R83), the effective event (R84, R85) and the acceptance of a preamp law (R89). -/

namespace Sys2Proof.Machine

/-- The analogue gain of live values under a preamp law and pad value (R72). -/
def gainOf (plt : Vector LawEntry 64) (padValue : Int) (v : HeadAmp) : Int :=
  (plt[v.code].toNat : Int) + if v.pad then padValue else 0

/-- The analogue gain of values under the law and pad value in effect. -/
def Hac.gainOf (h : Hac) (v : HeadAmp) : Int := Machine.gainOf h.plt h.padValue v

/-! ### Taking a change -/

/-- The queue entry of place `j`, if the queue has one. -/
def queuedAt (j : Fin 8) (q : List QueueEntry) : Bool := q.any fun e => decide (e.channel = j)

/-- Step 2 of R73: the entry of place `j` is removed. -/
def withdraw (j : Fin 8) (q : List QueueEntry) : List QueueEntry := q.filter fun e => decide (e.channel ≠ j)

/-- Step 3 of R73: the entry of place `j` takes the values in its place, or a new entry joins at the end. -/
def enqueue (j : Fin 8) (v : HeadAmp) (q : List QueueEntry) : List QueueEntry :=
  if queuedAt j q then q.map fun e => if e.channel = j then { e with value := v } else e
  else q ++ [{ channel := j, value := v }]

/-- The HAC takes a change of channel `i` to new desired values (R73). A withdrawal releases the start-up hold (R83). -/
def Hac.change (i : Input) (v : HeadAmp) (h : Hac) : Hac :=
  let withdrawn := decide (v = h.channels[i].lastSent)
  let released := withdrawn && queuedAt (placeOf i) h.buses[groupOf i].queue &&
    decide (h.channels[i].settle = .held)
  { h with
    channels := upd h.channels i fun c =>
      { c with desired := v, settle := if released then .absent else c.settle }
    buses := upd h.buses (groupOf i) fun b =>
      { b with queue := if withdrawn then withdraw (placeOf i) b.queue else enqueue (placeOf i) v b.queue } }

/-- The fields present in a change replace those of `v` (R75, R117). -/
def HeadAmp.override (code : Option (Fin 64)) (pad phantom : Option Bool) (v : HeadAmp) : HeadAmp :=
  { code := code.getD v.code, pad := pad.getD v.pad, phantom := phantom.getD v.phantom }

/-- A change that replaces the present fields of the channel's desired values (R75, R117). -/
def setHeadAmp (code : Option (Fin 64)) (pad phantom : Option Bool) (i : Input) (s : State) : State :=
  { s with hac := s.hac.change i ((s.channel i).desired.override code pad phantom) }

/-- A change that moves the desired code by a delta, limited to 0 to 63 (R76). -/
def nudgeHeadAmp (delta : Int) (i : Input) (s : State) : State :=
  let v := (s.channel i).desired
  { s with hac := s.hac.change i { v with code := clampCode (v.code.val + delta) } }

/-! ### The buses -/

/-- Frame `n` is a send opportunity of the bus (R79). -/
def PreampBus.opportunity (n : FrameNo) (b : PreampBus) : Bool := decide (n.toNat % b.spacing = 0)

/-- The channel has an in-flight write whose effective frame is `n` or later (R79). -/
def Channel.blocks (n : FrameNo) (c : Channel) : Bool :=
  match c.inFlight with
  | none => false
  | some w => notAfter n w.effective

/-- Channel `i` is eligible at the opportunity of frame `n` (R79): no write blocks it, and none that took effect in frame `n`
would. -/
def Hac.eligible (n : FrameNo) (i : Input) (h : Hac) : Bool := !h.channels[i].blocks n && !h.landed[i]

/-- The settle length of a send (R82). -/
def Hac.settleLength (h : Hac) (sent live : HeadAmp) : Option Nat :=
  if sent.pad ≠ live.pad then
    if sent.phantom ≠ live.phantom then some (max h.padSettle.toNat (h.phantomSettle.toNat * 256))
    else some h.padSettle.toNat
  else if sent.phantom ≠ live.phantom then some (h.phantomSettle.toNat * 256)
  else none

/-- The settle mute after a send whose effective frame is `e` (R82); the first send after power-on replaces the hold
(R83). -/
def SettleMute.afterSend (e : FrameNo) (length : Option Nat) (m : SettleMute) : SettleMute :=
  match m, length with
  | .held, l => .ends (e + BitVec.ofNat 32 (l.getD 0))
  | m, none => m
  | .absent, some l => .ends (e + BitVec.ofNat 32 l)
  | .ends x, some l =>
    if notAfter x (e + BitVec.ofNat 32 l) then .ends (e + BitVec.ofNat 32 l) else .ends x

/-- The preamp word (09_the_control_lane.md, "Preamp word"). -/
def preampWord (j : Fin 8) (v : HeadAmp) : BitVec 16 :=
  BitVec.ofNat 16 (j.val * 8192 + v.code.val * 128 + v.pad.toNat * 64 + v.phantom.toNat * 32)

/-- Bus `b` sends an entry in frame `n` (R80). -/
def Hac.send (b : Group) (n : FrameNo) (e : QueueEntry) (h : Hac) : Hac :=
  let effective := n + 1 + BitVec.ofNat 32 h.buses[b].delay
  { h with
    buses := upd h.buses b fun u =>
      { u with queue := withdraw e.channel u.queue, word := some (preampWord e.channel e.value) }
    channels := upd h.channels (inputAt b e.channel) fun c =>
      { c with
        inFlight := some { value := e.value, sent := n, effective := effective }
        settle := c.settle.afterSend effective (h.settleLength e.value c.live) } }

/-- The oldest entry of bus `b` whose channel is eligible in frame `n` (R79). -/
def Hac.oldestEligible (b : Group) (n : FrameNo) (h : Hac) : Option QueueEntry :=
  h.buses[b].queue.find? fun e => h.eligible n (inputAt b e.channel)

/-- Bus `b` takes its opportunity of frame `n`, once, if frame `n` is one (R79). -/
def Hac.opportunity (b : Group) (n : FrameNo) (h : Hac) : Hac :=
  if !h.buses[b].taken && h.buses[b].opportunity n then
    let used := h.onBus b fun u => { u with taken := true }
    match used.oldestEligible b n with
    | some e => used.send b n e
    | none => used
  else h

/-- The send opportunity of bus `b` in the frame in progress (R79). -/
def busOpportunity (b : Group) (s : State) : State := { s with hac := s.hac.opportunity b s.ftu.frame }

/-- The opportunities of all six buses in the frame in progress. -/
def busOpportunities (s : State) : State :=
  (List.finRange 6).foldl (fun s b => busOpportunity b s) s

/-! ### Settle mute end -/

/-- An end frame that has passed is removed (R83). -/
def Channel.endSettle (n : FrameNo) (c : Channel) : Channel :=
  match c.settle with
  | .ends x => if notAfter n x then c else { c with settle := .absent }
  | _ => c

/-- The settle mute end of channel `i` (R83). -/
def settleEnd (i : Input) (s : State) : State :=
  { s with hac := s.hac.onChannel i (·.endSettle s.ftu.frame) }

/-- The settle mute ends of all channels. -/
def settleEnds (s : State) : State :=
  { s with hac := { s.hac with channels := mapAll (fun _ c => c.endSettle s.ftu.frame) s.hac.channels } }

/-! ### The effective event -/

/-- Steps 1 and 2 of R84 in frame `n` on a channel whose in-flight values are `v`: they become live and A is recomputed. A
write that blocked the opportunity of frame `n` goes on doing so (R79). -/
def Hac.makeLive (n : FrameNo) (i : Input) (v : HeadAmp) (h : Hac) : Hac :=
  { h with
    channels := upd h.channels i fun c => { c with live := v, inFlight := none, gain := h.gainOf v }
    landed := upd h.landed i fun x => x || h.channels[i].blocks n }

/-- Steps 3 and 4 of R84: the compensation event and the HEADAMP notices (R85). That the LIMIT notices which the compensation
event brings come before the HEADAMP notice in a feed's queue is the model's choice: R38 and R41 have the TGU take the event
in the frame step (log entry 16). -/
def announceLive (i : Input) (delta : Int) (s : State) : State :=
  notifyWhere (fun f => s.carries f i)
    (.headAmp i (s.channel i).live (s.channel i).gain s.ftu.frame) (compensate i delta s)

/-- The effective event of channel `i`, if its in-flight write is due in the frame in progress (R84). -/
def effective (i : Input) (s : State) : State :=
  match (s.channel i).inFlight with
  | some w =>
    if due w.effective s.ftu.frame then
      let made := { s with hac := s.hac.makeLive s.ftu.frame i w.value }
      announceLive i ((made.channel i).gain - (s.channel i).gain) made
    else s
  | none => s

/-- The effective events of the frame in progress that no command took, in channel order (log entry 16). -/
def effectiveEvents (s : State) : State := inputs.foldl (fun s i => effective i s) s

/-! ### Acceptance of a preamp law -/

/-- Step 2 of R89 for one input: A is recomputed from the live values, and the taps take the rebase event. -/
def regain (i : Input) (s : State) : State :=
  let a := s.hac.gainOf (s.channel i).live
  rebase i (a - (s.channel i).gain) { s with hac := s.hac.onChannel i fun c => { c with gain := a } }

/-- The acceptance of the staged preamp law (R89). -/
def applyPlaw (s : State) : State :=
  let taken := { s with hac := { s.hac with plt := s.hac.staging, marks := noMarks } }
  notifyWhere (fun _ => true) (.law .plt s.ftu.frame) (inputs.foldl (fun s i => regain i s) taken)

end Sys2Proof.Machine
end

