-- ==== Sys2Proof/Machine/TapRequests.lean ====
section
/-! DEFINITION. The requests on taps, and the gain law requests of the TGU: R44 to R53, R65 to R69. -/

namespace Sys2Proof.Machine

/-! ### TAP_TRIM -/

structure TrimParams where
  set : ChannelSet
  relative : Bool
  value : Int

/-- R45: the set, a kind byte of 0 or 1 and a two-byte signed value. -/
def parseTrim (ps : List Byte) : Option TrimParams :=
  match parseSet ps with
  | some (set, [kind, hi, lo]) => (parseBit kind).map fun r => { set := set, relative := r, value := signed16 hi lo }
  | _ => none

/-- The offset asked for before it is limited (R45). -/
def TrimParams.wanted (p : TrimParams) (t : Tap) : Int := if p.relative then t.offset + p.value else p.value

/-- The clamp changes the new offset of at least one tap (R45). -/
def TrimParams.clamps (p : TrimParams) (f : Feed) (is : List Input) (s : State) : Bool :=
  is.any fun i => decide (clampTrim (p.wanted (s.tap f i)) ≠ p.wanted (s.tap f i))

/-- TAP_TRIM (R45). -/
def reqTapTrim (f : Feed) (ps : List Byte) : State → Reply :=
  runRequest .tapTrim (parseTrim ps) (·.set.inputForm) f fun p =>
    onInputs f p.set (fun _ => noCheck) fun is s =>
      accept (okOrClamped (p.clamps f is s)) []
        (changeTaps f (fun a t => t.trim (clampTrim (p.wanted t)) a) is s)

/-! ### TAP_MODE -/

/-- A set and one byte that is 0 or 1 (R47, R51). -/
def parseSetBit (ps : List Byte) : Option (ChannelSet × Bool) :=
  match parseSet ps with
  | some (set, [b]) => (parseBit b).map fun v => (set, v)
  | _ => none

/-- TAP_MODE (R47, R48). -/
def reqTapMode (f : Feed) (ps : List Byte) : State → Reply :=
  runRequest .tapMode (parseSetBit ps) (·.1.inputForm) f fun p =>
    onInputs f p.1 (fun _ => noCheck) fun is s =>
      accept .ok [] (changeTaps f (if p.2 then Tap.toTrack else Tap.toFollow) is s)

/-! ### TAP_ANCHOR -/

/-- TAP_ANCHOR (R49). -/
def reqTapAnchor (f : Feed) (ps : List Byte) : State → Reply :=
  runRequest .tapAnchor (parseSetAlone ps) (·.inputForm) f fun set =>
    onInputs f set (fun s => mustHold (fun i => (s.tap f i).tracks) .state) fun is s =>
      accept .ok [] (changeTaps f Tap.reanchor is s)

/-! ### TAP_MUTE -/

/-- TAP_MUTE (R51). -/
def reqTapMute (f : Feed) (ps : List Byte) : State → Reply :=
  runRequest .tapMute (parseSetBit ps) (·.1.inputForm) f fun p =>
    onInputs f p.1 (fun _ => noCheck) fun is s =>
      accept .ok [] (changeTaps f (fun _ => Tap.setMute p.2) is s)

/-! ### TAP_GET -/

/-- The anchor fields of TAP_GET (R52). -/
def TapMode.anchorBytes : TapMode → List Byte
  | .follow => 0 :: be 4 0
  | .track n => 1 :: be 4 (BitVec.ofInt 32 n).toNat

/-- The fields of TAP_GET (R52). -/
def Tap.bytes (i : Input) (t : Tap) : List Byte :=
  [byte i, bit t.tracks] ++ be16s t.offset ++ t.mode.anchorBytes ++ be16s t.target ++ be16s t.current ++
    [bit t.mute, bit t.limit]

/-- TAP_GET (R52). -/
def reqTapGet (f : Feed) (ps : List Byte) : State → Reply :=
  runRequest .tapGet (parseSingle ps) (·.inputForm) f fun set =>
    onInputs f set (fun _ => noCheck) fun is s =>
      accept .ok (is.flatMap fun i => (s.tap f i).bytes i) s

/-! ### FEED_GLIDE -/

def parseByte : List Byte → Option Byte
  | [b] => some b
  | _ => none

/-- A glide rate byte limited to 0 to 15 (R53). -/
def glideOf (b : Byte) : Fin 16 := Fin.ofNat 16 (min b.toNat 15)

/-- FEED_GLIDE (R53). -/
def reqFeedGlide (f : Feed) (ps : List Byte) : State → Reply :=
  runRequest .feedGlide (parseByte ps) noSet f fun b s =>
    accept (okOrClamped (decide (15 < b.toNat))) [byte (glideOf b)]
      { s with tgu := { s.tgu with glide := put s.tgu.glide f (glideOf b) } }

/-! ### LAW_STAGE, LAW_APPLY -/

/-- Bytes as numbers of `k` bytes each, most significant first. -/
def groupsOf (k : Nat) : Nat → List Byte → List Nat
  | 0, _ => []
  | n + 1, bytes => ofBe (bytes.take k) :: groupsOf k n (bytes.drop k)

/-- A block number and the block's values as sent. -/
structure StageParams where
  block : Nat
  values : List Nat

/-- A block number followed by `n` entries of `k` bytes (R65, R87). -/
def parseStage (k n : Nat) : List Byte → Option StageParams
  | [] => none
  | block :: rest =>
    if rest.length = k * n then some { block := block.toNat, values := groupsOf k n rest } else none

/-- The entries of block `b` (of `size` entries) replaced by the values. -/
def stageBlock {n w : Nat} (size b : Nat) (values : List Nat) (t : Vector (BitVec w) n) : Vector (BitVec w) n :=
  mapAll (fun i x => if i.val / size = b then BitVec.ofNat w (values.getD (i.val % size) 0) else x) t

/-- The mark of block `b` set. -/
def setMark (b : Nat) (m : Vector Bool 4) : Vector Bool 4 := mapAll (fun i x => x || decide (i.val = b)) m

/-- LAW_STAGE (R65). -/
def reqLawStage (f : Feed) (ps : List Byte) : State → Reply :=
  runRequest .lawStage (parseStage 3 12 ps) noSet f fun p s =>
    if 3 < p.block then refuse .range s
    else
      accept .ok []
        { s with tgu :=
          { s.tgu with
            staging := stageBlock 12 p.block p.values s.tgu.staging
            marks := setMark p.block s.tgu.marks } }

/-- LAW_APPLY (R66 to R68). -/
def reqLawApply (f : Feed) (ps : List Byte) : State → Reply :=
  runRequest .lawApply (parseNone ps) noSet f fun _ s =>
    if !allMarked s.tgu.marks then refuse .state s
    else
      match gltFault s.tgu.staging with
      | some (check, entry) => (s, [Result.range.byte, byte check, byte entry])
      | none =>
        accept .ok []
          (notifyWhere (fun _ => true) (.law .glt (s.ftu.frame + 1))
            { s with tgu :=
              { s.tgu with
                pending := some { table := s.tgu.staging, start := s.ftu.frame + 1 }
                marks := noMarks } })

/-! ### LAW_GET -/

structure LawGetParams where
  table : Byte
  source : Byte
  block : Byte

def parseLawGet : List Byte → Option LawGetParams
  | [t, c, b] => some { table := t, source := c, block := b }
  | _ => none

/-- Block `b` of a table: its `size` entries of `k` bytes each. -/
def blockBytes {n w : Nat} (k size b : Nat) (t : Vector (BitVec w) n) : List Byte :=
  (((entries t).drop (size * b)).take size).flatMap (be k)

/-- LAW_GET (R69). -/
def reqLawGet (f : Feed) (ps : List Byte) : State → Reply :=
  runRequest .lawGet (parseLawGet ps) noSet f fun p s =>
    if 1 < p.table.toNat ∨ 1 < p.source.toNat ∨ 3 < p.block.toNat then refuse .range s
    else if p.table = 0 then
      accept .ok ([p.table, p.source, p.block, marksByte s.tgu.marks] ++
        blockBytes 3 12 p.block.toNat (if p.source = 0 then s.tgu.law s.ftu.frame else s.tgu.staging)) s
    else
      accept .ok ([p.table, p.source, p.block, marksByte s.hac.marks] ++
        blockBytes 2 16 p.block.toNat (if p.source = 0 then s.hac.plt else s.hac.staging)) s

end Sys2Proof.Machine
end

