-- ==== Sys2Proof/Machine/HeadAmpRequests.lean ====
section
/-! DEFINITION. The requests of the HAC: HA_SET, HA_NUDGE, HA_GET (R75 to R77), PLAW_STAGE and PLAW_APPLY (R87 to R89). -/

namespace Sys2Proof.Machine

/-- The channel of an input has feed `f` as its owner (R95). -/
def State.owns (s : State) (f : Feed) (i : Input) : Bool := decide ((s.channel i).owner = some f)

/-- The owner check of R75, R76 and R101. -/
def ownerCheck (f : Feed) (s : State) : Input → Option Result := mustHold (s.owns f) .notOwner

/-! ### HA_SET -/

structure HaSetParams where
  set : ChannelSet
  code : Option Nat
  pad : Option Bool
  phantom : Option Bool

/-- R75: the set, the presence byte and the present fields. -/
def parseHaSet (ps : List Byte) : Option HaSetParams :=
  match parseSet ps with
  | some (set, rest) =>
    (parseHeadAmp rest).map fun v => { set := set, code := v.1, pad := v.2.1, phantom := v.2.2 }
  | none => none

/-- HA_SET (R75). -/
def reqHaSet (f : Feed) (ps : List Byte) : State → Reply :=
  runRequest .haSet (parseHaSet ps) (·.set.inputForm) f fun p =>
    onInputs f p.set (ownerCheck f) fun is s =>
      accept (okOrClamped (codeClamped p.code)) []
        (is.foldl (fun s i => setHeadAmp (p.code.map codeOf) p.pad p.phantom i s) s)

/-! ### HA_NUDGE -/

/-- R76: the set and a signed byte of −63 to +63. -/
def parseNudge (ps : List Byte) : Option (ChannelSet × Int) :=
  match parseSet ps with
  | some (set, [d]) => if -63 ≤ d.toInt ∧ d.toInt ≤ 63 then some (set, d.toInt) else none
  | _ => none

/-- The clamp changes the new code of at least one channel (R76). -/
def nudgeClamps (delta : Int) (is : List Input) (s : State) : Bool :=
  is.any fun i =>
    let wanted := ((s.channel i).desired.code.val : Int) + delta
    decide (wanted < 0 ∨ 63 < wanted)

/-- HA_NUDGE (R76). -/
def reqHaNudge (f : Feed) (ps : List Byte) : State → Reply :=
  runRequest .haNudge (parseNudge ps) (·.1.inputForm) f fun p =>
    onInputs f p.1 (ownerCheck f) fun is s =>
      accept (okOrClamped (nudgeClamps p.2 is s)) [] (is.foldl (fun s i => nudgeHeadAmp p.2 i s) s)

/-! ### HA_GET -/

/-- The in-flight fields of HA_GET (R77). -/
def inFlightBytes : Option InFlight → List Byte
  | none => 0 :: List.replicate 11 0
  | some w => 1 :: w.value.bytes ++ beFrame w.sent ++ beFrame w.effective

/-- The settle mute fields of HA_GET (R77). -/
def SettleMute.bytes : SettleMute → List Byte
  | .absent => 0 :: beFrame 0
  | .ends x => 1 :: beFrame x
  | .held => 2 :: beFrame 0

/-- The fields of HA_GET (R77). -/
def State.channelBytes (s : State) (i : Input) : List Byte :=
  let c := s.channel i
  byte i :: c.desired.bytes ++ bit (s.queued i).isSome :: inFlightBytes c.inFlight ++ c.live.bytes ++ be16s c.gain ++
    ownerByte c.owner :: c.settle.bytes

/-- HA_GET (R77). -/
def reqHaGet (f : Feed) (ps : List Byte) : State → Reply :=
  runRequest .haGet (parseSingle ps) (·.inputForm) f fun set =>
    onInputs f set (fun _ => noCheck) fun is s => accept .ok (is.flatMap s.channelBytes) s

/-! ### PLAW_STAGE, PLAW_APPLY -/

/-- PLAW_STAGE (R87). -/
def reqPlawStage (f : Feed) (ps : List Byte) : State → Reply :=
  runRequest .plawStage (parseStage 2 16 ps) noSet f fun p s =>
    if 3 < p.block then refuse .range s
    else
      accept .ok []
        { s with hac :=
          { s.hac with
            staging := stageBlock 16 p.block p.values s.hac.staging
            marks := setMark p.block s.hac.marks } }

/-- PLAW_APPLY (R88, R89). -/
def reqPlawApply (f : Feed) (ps : List Byte) : State → Reply :=
  runRequest .plawApply (parseNone ps) noSet f fun _ s =>
    if !allMarked s.hac.marks then refuse .state s
    else
      match pltFault s.hac.staging with
      | some (check, entry) => (s, [Result.range.byte, byte check, byte entry])
      | none => accept .ok [] (applyPlaw s)

end Sys2Proof.Machine
end

