-- ==== Sys2Proof/Machine/Meters.lean ====
section
/-! DEFINITION. Meters and clip capture (R153 to R160): sampling, period ends, and the meter and clip requests. -/

namespace Sys2Proof.Machine

/-- The magnitude of a sample: its absolute value limited to 8,388,607 (R154). -/
def magnitude (x : Sample) : Nat := min x.toInt.natAbs 8388607

/-! ### Sampling -/

/-- Every accumulator of a subscription takes the magnitude of its input (R154). -/
def Subscription.take (mag : Input → Nat) (u : Subscription) : Subscription :=
  { u with peaks := u.peaks.map fun p => (p.1, max p.2 (mag p.1)) }

/-- A record captures: ARMED, not OFF, and the magnitude at or above the threshold (R156). -/
def Clip.captures (mag : Nat) (c : Clip) : Bool :=
  decide (c.mode ≠ .off ∧ c.state = .armed ∧ c.threshold ≤ mag)

/-- The capture (R156). -/
def Clip.capture (frame : FrameNo) (live : HeadAmp) (mag : Nat) (c : Clip) : Clip :=
  { c with
    state := if c.mode = .oneShot then .captured else .waitRearm
    frame := frame, code := live.code, pad := live.pad, magnitude := mag, count := min (c.count + 1) 255 }

/-- The test of one sample by a record (R156). -/
def Clip.test (frame : FrameNo) (live : HeadAmp) (mag : Nat) (c : Clip) : Clip :=
  if c.captures mag then c.capture frame live mag
  else if c.mode ≠ .off ∧ c.state = .waitRearm ∧ mag < c.rearm then { c with state := .armed }
  else c

/-- The clip record of input `i` after the sample of the frame in progress. -/
def State.testedClip (s : State) (i : Input) : Clip :=
  s.lmu.clips[i].test s.ftu.frame (s.channel i).live (magnitude (s.sample i))

/-- The CLIP notice of a capture (R157). -/
def clipNotice (captured : Input → Bool) (i : Input) (s : State) : State :=
  let c := s.lmu.clips[i]
  notifyWhere (fun f => captured i && s.carries f i) (.clip i c.frame c.code c.pad c.magnitude c.count) s

/-- The samples of the frame in progress taken into every accumulator and every clip record, with the CLIP notices of the
captures (R154, R156, R157). That these are handed over in input order is the model's choice (log entry 16). -/
def takeSamples (s : State) : State :=
  inputs.foldl
    (fun t i => clipNotice (fun i => s.lmu.clips[i].captures (magnitude (s.sample i))) i t)
    { s with lmu :=
      { subscriptions := mapAll
          (fun _ u => u.map (Subscription.take fun i => magnitude (s.sample i))) s.lmu.subscriptions
        clips := tab s.testedClip } }

/-! ### Period ends -/

/-- The meter code of a peak (R154). -/
def meterCode (m : Nat) : Nat :=
  if m = 0 then 0
  else
    let b := Nat.log2 m + 1
    8 * (b - 1) + (8 * m / 2 ^ (b - 1) - 8) + 1

/-- One METER notice for a block of at most sixteen accumulators (R155). -/
def meterBlock (f : Feed) (peaks : List (Input × Nat)) (s : State) : State :=
  match peaks with
  | [] => s
  | (first, m) :: rest => notifyIf true f (.meter first (meterCode m :: rest.map fun p => meterCode p.2)) s

/-- The METER notices of a subscription of at most 48 inputs, in blocks of up to sixteen (R155). -/
def meterBlocks (f : Feed) (peaks : List (Input × Nat)) (s : State) : State :=
  meterBlock f (peaks.drop 32)
    (meterBlock f ((peaks.drop 16).take 16) (meterBlock f (peaks.take 16) s))

/-- Steps 3 and 4 of R154: the accumulators are cleared and the period end frame moves on. -/
def Subscription.restart (u : Subscription) : Subscription :=
  { u with peaks := u.peaks.map fun p => (p.1, 0), ends := unitsAfter u.ends u.period.toNat }

/-- The period end of feed `f`'s subscription, if it is due in the frame in progress (R154, R155). -/
def periodEnd (f : Feed) (s : State) : State :=
  match s.lmu.subscriptions[f] with
  | some u =>
    if due u.ends s.ftu.frame then
      meterBlocks f u.peaks
        { s with lmu := { s.lmu with subscriptions := put s.lmu.subscriptions f (some u.restart) } }
    else s
  | none => s

/-- The period ends of the frame in progress. -/
def periodEnds (s : State) : State := periodEnd 3 (periodEnd 2 (periodEnd 1 (periodEnd 0 s)))

/-! ### MTR_SUBSCRIBE -/

/-- R153: a period byte, optionally followed by a channel set. -/
def parseSubscribe : List Byte → Option (Byte × Option ChannelSet)
  | [] => none
  | [p] => some (p, none)
  | p :: rest => (parseSetAlone rest).map fun set => (p, some set)

/-- The period a period byte gives: 0 is taken as 1 (R153). -/
def periodOf (b : Byte) : Byte := if b = 0 then 1 else b

/-- Feed `f`'s subscription replaced. -/
def setSubscription (f : Feed) (u : Option Subscription) (s : State) : State :=
  { s with lmu := { s.lmu with subscriptions := put s.lmu.subscriptions f u } }

/-- MTR_SUBSCRIBE (R153). -/
def reqMtrSubscribe (f : Feed) (ps : List Byte) : State → Reply :=
  runRequest .mtrSubscribe (parseSubscribe ps) (fun p => p.2.any (·.inputForm)) f fun p s =>
    match p.2 with
    | none => accept .ok [0] (setSubscription f none s)
    | some set =>
      onInputs f set (fun _ => noCheck) (fun is s =>
        accept (okOrClamped (decide (p.1 = 0))) (byte is.length :: is.map fun i => byte i)
          (setSubscription f
            (some { period := periodOf p.1, ends := unitsAfter s.ftu.frame (periodOf p.1).toNat
                    peaks := is.map fun i => (i, 0) }) s)) s

/-! ### CLIP_SET, CLIP_ACK, CLIP_GET -/

/-- The permission of R106: the owner or the supervising feed. -/
def clipCheck (f : Feed) (s : State) : Input → Option Result :=
  mustHold (fun i => s.owns f i || decide (f = s.cle.supervisor)) .notOwner

structure ClipSetParams where
  set : ChannelSet
  mode : ClipMode
  threshold : Nat
  rearm : Nat

/-- R158: the set, a mode byte of 0 to 2, a threshold and a re-arm level of three bytes each. -/
def parseClipSet (ps : List Byte) : Option ClipSetParams :=
  match parseSet ps with
  | some (set, [m, t2, t1, t0, r2, r1, r0]) =>
    (ClipMode.ofCode m.toNat).map fun mode =>
      { set := set, mode := mode, threshold := ofBe [t2, t1, t0], rearm := ofBe [r2, r1, r0] }
  | _ => none

/-- The threshold limited to 1 to 8,388,607 (R158). -/
def clipThreshold (n : Nat) : Nat := max 1 (min n 8388607)

/-- Every clip record of a list of inputs replaced by `g` of itself. -/
def changeClips (g : Clip → Clip) (is : List Input) (s : State) : State :=
  { s with lmu := { s.lmu with clips := mapAll (fun i c => if i ∈ is then g c else c) s.lmu.clips } }

/-- State ARMED, count 0 and the captured fields cleared (R158). -/
def Clip.rearmed (c : Clip) : Clip :=
  { Clip.reset with mode := c.mode, threshold := c.threshold, rearm := c.rearm }

/-- CLIP_SET (R158). -/
def reqClipSet (f : Feed) (ps : List Byte) : State → Reply :=
  runRequest .clipSet (parseClipSet ps) (·.set.inputForm) f fun p =>
    onInputs f p.set (clipCheck f) fun is s =>
      let threshold := clipThreshold p.threshold
      let rearm := min p.rearm threshold
      accept (okOrClamped (decide (threshold ≠ p.threshold ∨ rearm ≠ p.rearm))) []
        (changeClips (fun _ => { Clip.reset with mode := p.mode, threshold := threshold, rearm := rearm }) is s)

/-- CLIP_ACK (R158). -/
def reqClipAck (f : Feed) (ps : List Byte) : State → Reply :=
  runRequest .clipAck (parseSetAlone ps) (·.inputForm) f fun set =>
    onInputs f set (clipCheck f) fun is s => accept .ok [] (changeClips Clip.rearmed is s)

/-- The fields of CLIP_GET (R159). -/
def Clip.bytes (i : Input) (c : Clip) : List Byte :=
  byte i :: c.mode.byte :: be 3 c.threshold ++ be 3 c.rearm ++ c.state.byte :: beFrame c.frame ++
    [byte c.code, bit c.pad] ++ be 3 c.magnitude ++ [byte c.count]

/-- CLIP_GET (R159). -/
def reqClipGet (f : Feed) (ps : List Byte) : State → Reply :=
  runRequest .clipGet (parseSingle ps) (·.inputForm) f fun set =>
    onInputs f set (fun _ => noCheck) fun is s =>
      accept .ok (is.flatMap fun i => s.lmu.clips[i].bytes i) s

end Sys2Proof.Machine
end

