-- ==== Sys2Proof/Machine/Ownership.lean ====
section
/-! DEFINITION. Channel ownership: OWN_CLAIM, OWN_RELEASE, OWN_ASSIGN, SUPERVISOR_SET (R97 to R104). -/

namespace Sys2Proof.Machine

/-- The channel of an input is owned by a feed that is ONLINE and is not `f` (R97). -/
def State.ownedElsewhere (s : State) (f : Feed) (i : Input) : Bool :=
  match (s.channel i).owner with
  | none => false
  | some k => decide (k ≠ f) && s.online k

/-- The channel of an input is owned by a feed that is OFFLINE and is not `f` (R97). -/
def State.takeable (s : State) (f : Feed) (i : Input) : Bool :=
  match (s.channel i).owner with
  | none => false
  | some k => decide (k ≠ f) && !s.online k

/-- A change of the owner of channel `i`, with its OWNER notices (R104); an owner left as it is changes nothing. -/
def setOwner (new : Option Feed) (cause : OwnerCause) (i : Input) (s : State) : State :=
  let previous := (s.channel i).owner
  if previous = new then s
  else
    notifyWhere (fun f => s.carries f i || decide (previous = some f)) (.owner i new previous cause s.ftu.frame)
      { s with hac := s.hac.onChannel i fun c => { c with owner := new } }

/-- How many channels of a list change owner when they take owner `new`. -/
def ownerChanges (new : Option Feed) (is : List Input) (s : State) : Nat :=
  is.countP fun i => decide ((s.channel i).owner ≠ new)

/-! ### OWN_CLAIM -/

/-- The members of a set that translate, each input once, in set order (R98). -/
def State.translated (s : State) (f : Feed) (set : ChannelSet) : List Input :=
  set.members.foldl (fun found m =>
    match s.translate f set.inputForm m with
    | .ok i => if i ∈ found then found else found ++ [i]
    | .error _ => found) []

/-- The CLAIM_SEEN notice for one input, to its owner (R98). -/
def claimSeen (claimer : Feed) (s : State) (i : Input) : State :=
  match (s.channel i).owner with
  | some k =>
    notifyIf (decide (k ≠ claimer) && s.online k) k (.claimSeen i claimer s.ftu.frame) s
  | none => s

/-- A claim refused with OWNED: CLAIM_SEEN for every translated input owned by another ONLINE feed (R98). -/
def claimsSeen (claimer : Feed) (set : ChannelSet) (s : State) : State :=
  (s.translated claimer set).foldl (claimSeen claimer) s

/-- One channel claimed: a takeover when its owner is an OFFLINE feed (R99). -/
def claimOne (f : Feed) (i : Input) (s : State) : State :=
  setOwner (some f) (if s.takeable f i then .takeover else .claim) i s

/-- OWN_CLAIM (R97 to R99). -/
def reqOwnClaim (f : Feed) (ps : List Byte) : State → Reply :=
  runRequest .ownClaim (parseSetAlone ps) (·.inputForm) f fun set s =>
    match s.resolve f set (mustHold (fun i => !s.ownedElsewhere f i) .owned) with
    | .error e => refuseAt e (if e.1 = .owned then claimsSeen f set s else s)
    | .ok is =>
      let taken := is.countP fun i => s.takeable f i
      accept (if 0 < taken then .taken else .ok) [byte (ownerChanges (some f) is s), byte taken]
        (is.foldl (fun s i => claimOne f i s) s)

/-! ### OWN_RELEASE, OWN_ASSIGN -/

/-- OWN_RELEASE (R101). -/
def reqOwnRelease (f : Feed) (ps : List Byte) : State → Reply :=
  runRequest .ownRelease (parseSetAlone ps) (·.inputForm) f fun set =>
    onInputs f set (ownerCheck f) fun is s =>
      accept .ok [byte is.length] (is.foldl (fun s i => setOwner none .release i s) s)

/-- The owner an owner byte of 0 to 4 names (R102). -/
def ownerOf (b : Byte) : Option Feed := if h : b.toNat < 4 then some ⟨b.toNat, h⟩ else none

/-- R102: the set and an owner byte of 0 to 4. -/
def parseAssign (ps : List Byte) : Option (ChannelSet × Option Feed) :=
  match parseSet ps with
  | some (set, [b]) => if b.toNat ≤ 4 then some (set, ownerOf b) else none
  | _ => none

/-- OWN_ASSIGN (R102). -/
def reqOwnAssign (f : Feed) (ps : List Byte) : State → Reply :=
  runRequest .ownAssign (parseAssign ps) (·.1.inputForm) f fun p =>
    onInputs f p.1 (fun _ => noCheck) fun is s =>
      accept .ok [byte (ownerChanges p.2 is s)] (is.foldl (fun s i => setOwner p.2 .assign i s) s)

/-! ### SUPERVISOR_SET -/

/-- SUPERVISOR_SET (R103). -/
def reqSupervisorSet (f : Feed) (ps : List Byte) : State → Reply :=
  runRequest .supervisorSet (parseByte ps) noSet f fun b s =>
    match ownerOf b with
    | none => refuse .range s
    | some k =>
      if s.online k then accept .ok [byte k] { s with cle := { s.cle with supervisor := k } }
      else refuse .state s

end Sys2Proof.Machine
end

