-- ==== Sys2Proof/Machine/Image.lean ====
section
/-! DEFINITION. The stored image: its layout (R162), its judgement (R163), the settings it holds with their corrections, and
the settings as bytes (R166). -/

namespace Sys2Proof.Machine

/-- The settings of one tap in the image (R56). -/
structure TapSetting where
  track : Bool
  offset : Int
  mute : Bool
  deriving DecidableEq, Repr

/-- The settings of one clip record in the image (R160). -/
structure ClipSetting where
  mode : ClipMode
  threshold : Nat
  rearm : Nat
  deriving DecidableEq, Repr

/-- Everything a load takes and a save keeps (R162, R166). -/
structure Settings where
  rate : Rate
  supervisor : Feed
  sources : List ClockSource
  revertDelay : Byte
  holdoverLimit : BitVec 16
  spacing : Vector Nat 6
  delay : Vector Nat 6
  padSettle : Byte
  phantomSettle : Byte
  padValue : Int
  clips : Vector ClipSetting 48
  glt : Vector Mantissa 48
  plt : Vector LawEntry 64
  windows : Vector (List Window) 4
  glide : Vector (Fin 16) 4
  taps : Vector (Vector TapSetting 48) 4
  desired : Vector HeadAmp 48
  owners : Vector (Option Feed) 48
  deriving DecidableEq, Repr

/-! ### The built-in defaults -/

/-- The built-in list (R16). -/
def builtinSources : List ClockSource := [.feed 0, .internal]

/-- The built-in defaults that the chapters give (R16, R28, R56, R70, R92, R93, R107, R160). -/
def Settings.builtin : Settings :=
  { rate := .k48, supervisor := 0, sources := builtinSources, revertDelay := 188, holdoverLimit := 2813
    spacing := tab fun _ => 4, delay := tab fun _ => 12, padSettle := 96, phantomSettle := 188, padValue := -160
    clips := tab fun _ => { mode := .off, threshold := 8000000, rearm := 4000000 }
    glt := builtinGlt, plt := builtinPlt, windows := tab fun _ => defaultWindows, glide := tab fun _ => 2
    taps := tab fun _ => tab fun _ => { track := false, offset := 0, mute := false }
    desired := tab fun _ => HeadAmp.zero, owners := tab fun _ => none }

/-! ### Reading the sections -/

/-- The byte at an offset of the sections. -/
def at8 (b : List Byte) (k : Nat) : Byte := b.getD k 0

/-- The `k` bytes at an offset of the sections, as a number. -/
def atBe (b : List Byte) (off k : Nat) : Nat := ofBe ((b.drop off).take k)

/-- The clock list of the image, if its count, codes and sources are allowed (R162). -/
def sectionSources (b : List Byte) : List ClockSource :=
  let n := (at8 b 2).toNat
  if 4 < n then builtinSources
  else (sourcesOf (((b.drop 3).take n).map (·.toNat))).getD builtinSources

/-- The settings of one clip record, corrected (R160). -/
def sectionClip (b : List Byte) (i : Input) : ClipSetting :=
  let off := 26 + 7 * i.val
  let t := atBe b (off + 1) 3
  let threshold := if t = 0 ∨ 8388607 < t then 8000000 else t
  { mode := (ClipMode.ofCode (at8 b off).toNat).getD .off
    threshold := threshold
    rearm := min (atBe b (off + 4) 3) threshold }

/-- The gain law section, or the built-in law when it fails checks 2 to 4 of R66 (R70). -/
def sectionGlt (b : List Byte) : Vector Mantissa 48 :=
  let t : Vector Mantissa 48 := tab fun r => BitVec.ofNat 24 (atBe b (362 + 3 * r.val) 3)
  if (gltFault t).isNone then t else builtinGlt

/-- The preamp law section, or the built-in law when it fails checks 2 and 3 of R88 (R92). -/
def sectionPlt (b : List Byte) : Vector LawEntry 64 :=
  let t : Vector LawEntry 64 := tab fun k => BitVec.ofNat 16 (atBe b (506 + 2 * k.val) 2)
  if (pltFault t).isNone then t else builtinPlt

/-- The window list of a feed: refused lists and counts above 8 give the built-in list (R28). -/
def sectionWindows (b : List Byte) (f : Feed) : List Window :=
  let off := 634 + 33 * f.val
  let n := (at8 b off).toNat
  if 8 < n then defaultWindows
  else
    match checkWindows 0 (windowFields ((b.drop (off + 1)).take (4 * n))) with
    | .ok (ws, _) => ws
    | .error _ => defaultWindows

/-- A tap's settings, corrected (R56). -/
def sectionTap (b : List Byte) (f : Feed) (i : Input) : TapSetting :=
  let off := 770 + 4 * (48 * f.val + i.val)
  { track := decide (at8 b off = 1)
    offset := clampTrim (signed16 (at8 b (off + 1)) (at8 b (off + 2)))
    mute := decide (at8 b (off + 3) = 1) }

/-- A channel's desired values, corrected (R93). -/
def sectionDesired (b : List Byte) (i : Input) : HeadAmp :=
  let off := 1538 + 3 * i.val
  { code := codeOf (at8 b off).toNat, pad := decide (at8 b (off + 1) = 1), phantom := decide (at8 b (off + 2) = 1) }

/-- A value kept inside its range, or replaced (R92). -/
def keepIn (lo hi other x : Int) : Int := if lo ≤ x ∧ x ≤ hi then x else other

/-- The settings that 1,730 section bytes hold, each corrected as its chapter states (R162). -/
def Settings.ofSections (b : List Byte) : Settings :=
  { rate := if at8 b 0 = 1 then .k96 else .k48
    supervisor := (ownerOf (at8 b 1)).getD 0
    sources := sectionSources b
    revertDelay := at8 b 7
    holdoverLimit := at8 b 8 ++ at8 b 9
    spacing := tab fun g => (keepIn 1 16 4 (at8 b (10 + 2 * g.val)).toNat).toNat
    delay := tab fun g => (keepIn 0 63 12 (at8 b (11 + 2 * g.val)).toNat).toNat
    padSettle := at8 b 22
    phantomSettle := at8 b 23
    padValue := keepIn (-255) 0 (-160) (signed16 (at8 b 24) (at8 b 25))
    clips := tab (sectionClip b)
    glt := sectionGlt b
    plt := sectionPlt b
    windows := tab (sectionWindows b)
    glide := tab fun f => glideOf (at8 b (766 + f.val))
    taps := tab fun f => tab fun i => sectionTap b f i
    desired := tab (sectionDesired b)
    owners := tab fun i => ownerOf (at8 b (1682 + i.val)) }

/-! ### Writing the sections -/

/-- Bytes filled with 0 to a length: what a save writes in the bytes of unused clock source codes and windows is the model's
choice (log entry 26). -/
def padTo (n : Nat) (b : List Byte) : List Byte := b ++ List.replicate (n - b.length) 0

/-- The settings as the 1,730 section bytes (R162); what no rule fixes of them is 0, in `padTo` and in the unused fields of a
window (log entry 26). -/
def Settings.sections (x : Settings) : List Byte :=
  [x.rate.byte, byte x.supervisor] ++
  byte x.sources.length :: padTo 4 (x.sources.map ClockSource.byte) ++
  x.revertDelay :: be 2 x.holdoverLimit.toNat ++
  (List.finRange 6).flatMap (fun g => [byte x.spacing[g], byte x.delay[g]]) ++
  [x.padSettle, x.phantomSettle] ++
  be16s x.padValue ++
  inputs.flatMap (fun i => x.clips[i].mode.byte :: be 3 x.clips[i].threshold ++ be 3 x.clips[i].rearm) ++
  (entries x.glt).flatMap (be 3) ++
  (entries x.plt).flatMap (be 2) ++
  (List.finRange 4).flatMap (fun f =>
    byte x.windows[f].length :: padTo 32 (x.windows[f].flatMap Window.bytes)) ++
  (List.finRange 4).map (fun f : Feed => byte (x.glide[f] : Fin 16).val) ++
  (List.finRange 4).flatMap (fun f => inputs.flatMap fun i =>
    bit x.taps[f][i].track :: be16s x.taps[f][i].offset ++ [bit x.taps[f][i].mute]) ++
  inputs.flatMap (fun i => x.desired[i].bytes) ++
  inputs.map (fun i => ownerByte x.owners[i])

/-- The settings of the part as a save takes them: a map or gain law still pending is taken as in force (R166). -/
def Settings.ofState (s : State) : Settings :=
  { rate := s.ftu.rate
    supervisor := s.cle.supervisor
    sources := s.ftu.sources
    revertDelay := s.ftu.revertDelay
    holdoverLimit := s.ftu.holdoverLimit
    spacing := mapAll (fun _ b => b.spacing) s.hac.buses
    delay := mapAll (fun _ b => b.delay) s.hac.buses
    padSettle := s.hac.padSettle
    phantomSettle := s.hac.phantomSettle
    padValue := s.hac.padValue
    clips := mapAll (fun _ c => { mode := c.mode, threshold := c.threshold, rearm := c.rearm }) s.lmu.clips
    glt := (s.tgu.pending.map (·.table)).getD s.tgu.glt
    plt := s.hac.plt
    windows := mapAll (fun _ m => m.savedWindows) s.smu.maps
    glide := s.tgu.glide
    taps := mapAll (fun _ row => mapAll (fun _ t =>
      { track := t.tracks, offset := t.offset, mute := t.mute }) row) s.tgu.taps
    desired := mapAll (fun _ c => c.desired) s.hac.channels
    owners := mapAll (fun _ c => c.owner) s.hac.channels }

/-! ### The image -/

/-- The signature, version 1 and length fields of the header (R162). -/
def headerStart : List Byte := [0x50, 0x46, 0x53, 0x50, 1, 0x06, 0xC2]

/-- The sum of the section bytes, modulo 65,536 (R162). -/
def checksum (b : List Byte) : Nat := (b.foldl (fun n x => n + x.toNat) 0) % 65536

/-- The image of section bytes: header and sections (R162). -/
def imageOf (sections : List Byte) : List Byte := headerStart ++ be 2 (checksum sections) ++ sections

/-- The place of byte `p` of the image in the order in which a save writes it after the version byte 0: the section bytes, then
signature, length and checksum (R166). That each is written in ascending order is the model's choice (log entry 11). -/
def writePlace (p : Nat) : Nat := if 9 ≤ p then p - 9 else if p < 4 then 1730 + p else 1729 + p

/-- The bytes that a save of some section bytes leaves when it stops after the version byte 0 and `written` bytes more: what it
has written, and of the others those held before (R166). -/
def stoppedImage (written : Nat) (sections held : List Byte) : List Byte :=
  (List.range (max 1739 held.length)).map fun p =>
    if p = 4 then 0
    else if p < 1739 ∧ writePlace p < written then (imageOf sections).getD p 0
    else held.getD p 0

/-- The judgement of the bytes of an image whose every transfer was acknowledged (R163). -/
def judgeBytes (b : List Byte) : Judgement :=
  let sections := (b.drop 9).take 1730
  if b.take 7 = headerStart ∧ sections.length = 1730 ∧ (b.drop 7).take 2 = be 2 (checksum sections) then
    .valid sections
  else .invalid

/-- The settings a judgement gives: the image's, or the built-in defaults (R163). -/
def Judgement.settings : Judgement → Settings
  | .valid sections => Settings.ofSections sections
  | .invalid => Settings.builtin

end Sys2Proof.Machine
end

