-- ==== Sys2Proof/Machine/Crc.lean ====
section
/-! DEFINITION. The two CRCs: of link frames (R127) and of messages (R140). -/

namespace Sys2Proof.Machine

/-- `k` shifts of a CRC register, most significant bit first, with polynomial `poly`. -/
def crcShift {w : Nat} (poly : BitVec w) : Nat → BitVec w → BitVec w
  | 0, c => c
  | k + 1, c => crcShift poly k (if c.msb then (c <<< 1) ^^^ poly else c <<< 1)

/-- The CRC-8 of link frames: x^8 + x^2 + x + 1, initial value 0 (R127). -/
def crc8 (bytes : List Byte) : Byte :=
  bytes.foldl (fun c b => crcShift 0x07#8 8 (c ^^^ b)) 0

/-- The CRC-16 of messages: x^16 + x^12 + x^5 + 1, initial value 0xFFFF (R140). -/
def crc16 (bytes : List Byte) : BitVec 16 :=
  bytes.foldl (fun (c : BitVec 16) (b : Byte) => crcShift 0x1021#16 8 (c ^^^ (b.setWidth 16 <<< (8 : Nat)))) 0xFFFF#16

end Sys2Proof.Machine
end

