-- ==== Sys2Proof/Machine/Lane.lean ====
section
/-! DEFINITION. The control lane's messages and queues: the envelope (R139, R140), the assembler (R141, R142), the request
queue (R144) and the serialiser (R148). -/

namespace Sys2Proof.Machine

/-- A message in its envelope: length, tag, kind, parameters and CRC-16 (R139). -/
def envelope (m : Message) : List Byte :=
  let body := byte (m.params.length + 4) :: m.tag :: m.kind :: m.params
  body ++ be 2 (crc16 body).toNat

/-- The message of a complete run of bytes, if its CRC-16 matches (R142). -/
def openEnvelope (bytes : List Byte) : Option Message :=
  let body := bytes.take (bytes.length - 2)
  match body with
  | _ :: tag :: kind :: params =>
    if bytes.drop (bytes.length - 2) = be 2 (crc16 body).toNat then
      some { tag := tag, kind := kind, params := params }
    else none
  | _ => none

/-! ### Assembler -/

/-- A delivery with SOM set taken in WAIT_SOM (R141). -/
def Assembler.start : List Byte → Assembler
  | [] => .waitSom
  | l :: rest =>
    if 4 ≤ l.toNat ∧ l.toNat ≤ 63 then .collecting (l :: rest) (l.toNat - rest.length) else .waitSom

/-- One delivery of control bytes: the assembler after it, and the request it completes (R141, R142). -/
def Assembler.deliver (som : Bool) (bytes : List Byte) : Assembler → Assembler × Option Message
  | .waitSom => (if som then Assembler.start bytes else .waitSom, none)
  | .collecting got expected =>
    if som then (Assembler.start bytes, none)
    else if bytes.length < expected then (.collecting (got ++ bytes) (expected - bytes.length), none)
    else (.waitSom, openEnvelope (got ++ bytes.take expected))

/-! ### Request queue -/

/-- The QUEUE_FULL response to a request (R144). -/
def queueFull (m : Message) : Message := { m with params := [Result.queueFull.byte] }

/-- A completed request joins the queue, or is answered QUEUE_FULL, or is dropped (R144). -/
def Lane.arrive (m : Message) (l : Lane) : Lane :=
  if l.requests.length < 8 then { l with requests := l.requests ++ [m] }
  else if l.responses.length < 8 then { l with responses := l.responses ++ [queueFull m] }
  else l

/-- The request that waits for the arbiter round of this frame to be over joins the queue (R145, log entry 8). -/
def Lane.arriveLate (l : Lane) : Lane :=
  match l.arriving with
  | none => l
  | some m => { l.arrive m with arriving := none }

/-- A completed request: it joins at once, or after the round of the frame in progress (R145). -/
def Lane.complete (late : Bool) (m : Message) (l : Lane) : Lane :=
  if late then { l.arriveLate with arriving := some m } else l.arriveLate.arrive m

/-- One delivery of control bytes to a feed's lane (R130, R141, R142). -/
def Lane.deliver (late som : Bool) (bytes : List Byte) (l : Lane) : Lane :=
  let r := l.assembler.deliver som bytes
  match r.2 with
  | none => { l with assembler := r.1 }
  | some m => { l with assembler := r.1 }.complete late m

/-- A response appended (R145, R147). -/
def Lane.respond (m : Message) (l : Lane) : Lane := { l with responses := l.responses ++ [m] }

/-- The feed goes OFFLINE: assembler reset, queues emptied, the message being sent abandoned (R134). -/
def Lane.tearDown (_ : Lane) : Lane := Lane.reset

/-- What a restart does to a lane: the request queue is emptied, and the notice queue but for a notice being sent (R152). -/
def Lane.restart (l : Lane) : Lane :=
  { l with requests := [], notices := l.notices.take l.sendingNotice }

/-! ### Serialiser -/

/-- What a serialiser places in one frame: the SOM flag and up to four message bytes (R126). -/
structure Chunk where
  som : Bool
  bytes : List Byte
  deriving DecidableEq, Repr

/-- The envelope of a notice: tag 0 (R139). -/
def Notice.message (n : Notice) : Message := { tag := 0, kind := n.kind, params := n.params }

/-- The message bytes a serialiser has to send in this frame and after it: those left of the message being sent, or all of
the message it chooses (R148). -/
def Lane.outgoing (l : Lane) : Option (Bool × Source × List Byte) :=
  match l.serialiser with
  | .sending src rest => some (false, src, rest)
  | .idle =>
    match l.responses, l.notices with
    | m :: _, _ => some (true, .response, envelope m)
    | [], n :: _ => some (true, .notice, envelope n.message)
    | [], [] => none

/-- The control bytes of the frame in progress (R148). -/
def Lane.chunk (l : Lane) : Chunk :=
  match l.outgoing with
  | none => { som := false, bytes := [] }
  | some (som, _, bytes) => { som := som, bytes := bytes.take 4 }

/-- The head of a queue leaves it when its last byte has gone (R148). -/
def Lane.finish (src : Source) (l : Lane) : Lane :=
  match src with
  | .response => { l with responses := l.responses.tail, serialiser := .idle }
  | .notice => { l with notices := l.notices.tail, serialiser := .idle }

/-- The lane after the control bytes of the frame in progress have gone (R148). -/
def Lane.advance (l : Lane) : Lane :=
  match l.outgoing with
  | none => l
  | some (_, src, bytes) =>
    if bytes.length ≤ 4 then l.finish src else { l with serialiser := .sending src (bytes.drop 4) }

end Sys2Proof.Machine
end

