-- ==== Sys2Proof/Machine/Loading.lean ====
section
/-! DEFINITION. Loading and saving: the end of a read (R161, R163), the blocks taking their loaded values (R56, R57, R70,
R92 to R94, R107, R108, R160), DEV_RESTART (R165), STORE_SAVE and the end of a save (R166). -/

namespace Sys2Proof.Machine

/-! ### The end of the read -/

/-- What the EEPROM holds after a read that gave `r`: the bytes found on the line are the ones it holds (log entry 11). -/
def EepromRead.bytes (held : List Byte) : EepromRead → List Byte
  | .found bytes => bytes
  | .noAck => held
  | .held => held

/-- The judgement of a read (R163): a missing acknowledgement makes the image invalid. -/
def judgeRead (held : List Byte) : EepromRead → Judgement
  | .noAck => .invalid
  | .held => judgeBytes held
  | .found bytes => judgeBytes bytes

/-- The clock list and timer lengths of the power-on load, evaluated at its end without a notice (R13, R16). -/
def loadClock (x : Settings) (s : State) : State :=
  { s with ftu := (s.ftu.replaceList x.sources (some (x.revertDelay, x.holdoverLimit))).evaluate s.available }

/-- The completion of a load in the frame in progress (R161, R163). The clock list is taken at once; the other blocks take
their values at the end of the frame, from which they govern (log entry 10). -/
def completeLoad (r : EepromRead) (s : State) : State :=
  match s.sil.load with
  | .loading kind =>
    let j := judgeRead s.sil.eeprom r
    let t := { s with sil :=
      { s.sil with load := .complete kind j, eeprom := EepromRead.bytes s.sil.eeprom r } }
    match kind with
    | .powerOn => loadClock j.settings t
    | .restart => t
  | _ => s

/-! ### The blocks take the loaded values -/

/-- The HAC's items of R92. -/
def loadHac (x : Settings) (h : Hac) : Hac :=
  { h with
    buses := mapAll (fun g b => { b with spacing := x.spacing[g], delay := x.delay[g] }) h.buses
    padSettle := x.padSettle, phantomSettle := x.phantomSettle, padValue := x.padValue
    plt := x.plt, staging := x.plt, marks := noMarks }

/-- A's recomputed from the live values, and the owners of the image (R93, R94, R107). -/
def loadChannels (x : Settings) (h : Hac) : Hac :=
  { h with channels := mapAll (fun i c => { c with gain := h.gainOf c.live, owner := x.owners[i] }) h.channels }

/-- The initial writes of bus `g`, in channel order: the channels whose desired values differ from their live values
(R93). -/
def initialWrites (g : Group) (channels : Vector Channel 48) : List QueueEntry :=
  (List.finRange 8).filterMap fun j =>
    let c := channels[inputAt g j]
    if c.desired = c.live then none else some { channel := j, value := c.desired }

/-- The start-up hold of a channel without an initial write is released (R83, R93). -/
def Channel.releaseHold (c : Channel) : Channel :=
  if c.desired = c.live ∧ c.settle = .held then { c with settle := .absent } else c

/-- The desired values of the power-on load, its initial writes and the release of holds (R93). -/
def loadDesired (x : Settings) (h : Hac) : Hac :=
  let channels := mapAll (fun i c => { c with desired := x.desired[i] }) h.channels
  { h with
    buses := mapAll (fun g b => { b with queue := b.queue ++ initialWrites g channels }) h.buses
    channels := mapAll (fun _ c => c.releaseHold) channels }

/-- A tap loaded (R56, R57): its settings, an anchor in TRACK, target and limit at the live gain, current at the target. -/
def loadTap (x : TapSetting) (anchor live : Int) : Tap :=
  let t := Tap.retarget live
    { mode := if x.track then .track anchor else .follow
      offset := x.offset, target := x.offset, current := x.offset, mute := x.mute, limit := false }
  { t with current := t.target }

/-- The TGU's values (R56, R57, R70): `anchor` gives the A at which a TRACK tap of an input is anchored. -/
def loadTgu (x : Settings) (h : Hac) (anchor : Input → Int) (t : Tgu) : Tgu :=
  { t with
    taps := tab fun f => tab fun i => loadTap x.taps[f][i] (anchor i) h.channels[i].gain
    glide := x.glide
    glt := x.glt, staging := x.glt, marks := noMarks, pending := none }

/-- The SMU's maps, expanded at the rate mode of the first READY frame (R28). -/
def loadSmu (rate : Rate) (x : Settings) : Smu :=
  { maps := tab fun f => { inForce := SlotMap.ofWindows rate x.windows[f], pending := none } }

/-- The clip records (R160). -/
def loadClips (x : Settings) (l : Lmu) : Lmu :=
  { l with clips := tab fun i =>
    { Clip.reset with mode := x.clips[i].mode, threshold := x.clips[i].threshold, rearm := x.clips[i].rearm } }

/-- What a load of one kind does to the HAC (R92 to R94). -/
def loadedHac (kind : LoadKind) (x : Settings) (h : Hac) : Hac :=
  match kind with
  | .powerOn => loadDesired x (loadChannels x (loadHac x h))
  | .restart => loadChannels x (loadHac x h)

/-- The rate mode after a load of one kind (R3). -/
def loadedRate (kind : LoadKind) (x : Settings) (r : Rate) : Rate :=
  match kind with
  | .powerOn => x.rate
  | .restart => r

/-- The gain at which the TRACK taps of channel `c` are anchored by a load of one kind: the A of the desired values at
power-on (R56), the live A at a restart (R57). -/
def loadAnchor (kind : LoadKind) (h : Hac) (c : Channel) : Int :=
  match kind with
  | .powerOn => h.gainOf c.desired
  | .restart => c.gain

/-- The blocks take the loaded values and the part is READY (R161, R163). -/
def takeSettings (kind : LoadKind) (j : Judgement) (s : State) : State :=
  let x := j.settings
  let h := loadedHac kind x s.hac
  let rate := loadedRate kind x s.ftu.rate
  { s with
    ftu := { s.ftu with rate := rate }
    smu := loadSmu rate x
    hac := h
    tgu := loadTgu x h (fun i => loadAnchor kind h h.channels[i]) s.tgu
    cle := { s.cle with supervisor := x.supervisor }
    lmu := loadClips x s.lmu
    sil := { s.sil with load := .ready, defaults := decide (j = .invalid) } }

/-- At the end of the frame of a load's completion the part becomes READY (R161). -/
def becomeReady (s : State) : State :=
  match s.sil.load with
  | .complete kind j => takeSettings kind j s
  | _ => s

/-! ### DEV_RESTART, STORE_SAVE -/

/-- What happens at the acceptance of a DEV_RESTART (R165). -/
def restart (s : State) : State :=
  { s with
    cle := { s.cle with lanes := mapAll (fun _ l => l.restart) s.cle.lanes }
    scu := Scu.reset
    lmu := { s.lmu with subscriptions := tab fun _ => none }
    sil := { s.sil with load := .loading .restart } }

/-- DEV_RESTART (R165). -/
def reqDevRestart (f : Feed) (ps : List Byte) : State → Reply :=
  runRequest .devRestart (parseNone ps) noSet f fun _ s =>
    if s.sil.saving.isSome then refuse .busy s else accept .ok [] (restart s)

/-- STORE_SAVE (R166). -/
def reqStoreSave (f : Feed) (ps : List Byte) : State → Reply :=
  runRequest .storeSave (parseNone ps) noSet f fun _ s =>
    if s.sil.saving.isSome then refuse .busy s
    else accept .ok [] { s with sil := { s.sil with saving := some (Settings.ofState s).sections } }

/-! ### The end of a save -/

/-- What a save of some section bytes leaves in the EEPROM when it ends (R166). -/
def SaveEnd.image (sections held : List Byte) : SaveEnd → List Byte
  | .ok => imageOf sections
  | .fail written => stoppedImage written sections held

/-- The save ended with result OK. -/
def SaveEnd.succeeded : SaveEnd → Bool
  | .ok => true
  | .fail _ => false

/-- The completion of a save (R166). -/
def completeSave (ended : SaveEnd) (s : State) : State :=
  match s.sil.saving with
  | none => s
  | some sections =>
    notifyIf true s.cle.supervisor (.storeDone (SaveEnd.succeeded ended) s.ftu.frame)
      { s with sil := { s.sil with saving := none, eeprom := SaveEnd.image sections s.sil.eeprom ended } }

/-- What the EEPROM holds after a power loss in frame `n`: a save under way is cut short (R166) where it then stands, which is a
free value (log entry 27). -/
def Sil.cutShort (n : FrameNo) (u : Sil) : List Byte :=
  match u.saving with
  | none => u.eeprom
  | some sections => stoppedImage (Config.writtenAtReset n sections) sections u.eeprom

/-- The part after the reset pin is released (R164). The EEPROM keeps its bytes; a save that was under way is cut short
(R166). -/
def powerOn (s : State) : State :=
  { State.reset with sil := { Sil.reset with eeprom := s.sil.cutShort s.ftu.frame }, pending := s.pending }

/-- RESET (R1, R164). -/
def execReset (s : State) : Host.Outcome State Fault Refusal := .next (powerOn s)

/-- LOAD_COMPLETE (R161, R163). -/
def execLoadComplete (r : EepromRead) (s : State) : Host.Outcome State Fault Refusal := .next (completeLoad r s)

/-- SAVE_COMPLETE (R166). -/
def execSaveComplete (ended : SaveEnd) (s : State) : Host.Outcome State Fault Refusal :=
  .next (completeSave ended s)

end Sys2Proof.Machine
end

