-- ==== Sys2Proof/Machine/Scenes.lean ====
section
/-! DEFINITION. Scenes: the open scene (R109 to R112), the scheduled list and ids (R113, R114), committing (R115), execution
(R116 to R119), cancelling and listing (R120, R121). -/

namespace Sys2Proof.Machine

/-- The open scene of feed `f`. -/
def State.openScene (s : State) (f : Feed) : Option (List SceneEntry) := s.scu.opened[f]

/-- The open scene of feed `f` replaced. -/
def setOpenScene (f : Feed) (x : Option (List SceneEntry)) (s : State) : State :=
  { s with scu := { s.scu with opened := put s.scu.opened f x } }

/-! ### SCN_OPEN, SCN_ADD -/

/-- SCN_OPEN (R110). -/
def reqScnOpen (f : Feed) (ps : List Byte) : State → Reply :=
  runRequest .scnOpen (parseNone ps) noSet f fun _ s =>
    match s.openScene f with
    | some _ => refuse .state s
    | none => accept .ok [] (setOpenScene f (some []) s)

/-- The kind of an entry, as its kind byte (R111). -/
def EntryValue.kind : EntryValue → Nat
  | .headAmp .. => 0
  | .trim _ => 1
  | .mute _ => 2

/-- Two entries share a key: kind and input (R109). -/
def SceneEntry.sameKey (a b : SceneEntry) : Bool := decide (a.input = b.input ∧ a.value.kind = b.value.kind)

/-- The parameters of SCN_ADD: the set, the value as held, and whether a value was limited (R111, R112). -/
structure SceneAddParams where
  set : ChannelSet
  value : EntryValue
  clamped : Bool

/-- The values after the set, by the kind byte (R111), limited as R112 states. -/
def parseEntryValue (kind : Byte) (rest : List Byte) : Option (EntryValue × Bool) :=
  match kind.toNat, rest with
  | 0, rest =>
    (parseHeadAmp rest).map fun v => (.headAmp (v.1.map codeOf) v.2.1 v.2.2, codeClamped v.1)
  | 1, [hi, lo] =>
    some (.trim (clampTrim (signed16 hi lo)), decide (clampTrim (signed16 hi lo) ≠ signed16 hi lo))
  | 2, [b] => (parseBit b).map fun on => (.mute on, false)
  | _, _ => none

/-- R111. -/
def parseScnAdd : List Byte → Option SceneAddParams
  | [] => none
  | kind :: rest =>
    match parseSet rest with
    | some (set, after) =>
      (parseEntryValue kind after).map fun v => { set := set, value := v.1, clamped := v.2 }
    | none => none

/-- An entry placed in a scene: in place of the entry of its key, or at the end (R112). -/
def placeEntry (scene : List SceneEntry) (e : SceneEntry) : List SceneEntry :=
  if scene.any e.sameKey then scene.map fun x => if e.sameKey x then e else x else scene ++ [e]

/-- SCN_ADD (R111, R112). -/
def reqScnAdd (f : Feed) (ps : List Byte) : State → Reply :=
  runRequest .scnAdd (parseScnAdd ps) (·.set.inputForm) f fun p s =>
    match s.openScene f with
    | none => refuse .state s
    | some scene =>
      onInputs f p.set (fun _ => noCheck) (fun is s =>
        let formed := is.map fun i => ({ input := i, value := p.value } : SceneEntry)
        let added := formed.countP fun e => !scene.any e.sameKey
        if 24 < scene.length + added then refuse .busy s
        else
          accept (okOrClamped p.clamped)
            [byte (scene.length + added), byte added, byte (formed.length - added)]
            (setOpenScene f (some (formed.foldl placeEntry scene)) s)) s

/-! ### Execution -/

/-- The results of an execution (R118). -/
structure SceneResult where
  applied : Nat
  skipped : Nat
  first : Nat
  deriving DecidableEq, Repr

/-- An entry of a scene of feed `f` is applied, not skipped (R116, R117). -/
def SceneEntry.applies (f : Feed) (s : State) (e : SceneEntry) : Bool :=
  match e.value with
  | .headAmp .. => s.owns f e.input
  | .trim _ => true
  | .mute _ => true

/-- What an applied entry does (R116, R117). -/
def SceneEntry.act (f : Feed) (e : SceneEntry) (s : State) : State :=
  match e.value with
  | .headAmp code pad phantom => setHeadAmp code pad phantom e.input s
  | .trim offset => changeTap f e.input (Tap.trim offset (s.channel e.input).gain) s
  | .mute on => changeTap f e.input (Tap.setMute on) s

/-- A skipped entry counted, `index` being its place in the scene (R118). -/
def SceneResult.skip (index : Nat) (r : SceneResult) : SceneResult :=
  { r with skipped := r.skipped + 1, first := if r.skipped = 0 then index else r.first }

/-- The entries of a scene of feed `f` taken in order, `index` being the place of the first of them (R116). -/
def runEntries (f : Feed) : Nat → List SceneEntry → State → SceneResult → State × SceneResult
  | _, [], s, r => (s, r)
  | index, e :: rest, s, r =>
    if e.applies f s then runEntries f (index + 1) rest (e.act f s) { r with applied := r.applied + 1 }
    else runEntries f (index + 1) rest s (r.skip index)

/-- The execution of a scene of feed `f` (R116 to R118). -/
def runScene (f : Feed) (scene : List SceneEntry) (s : State) : State × SceneResult :=
  runEntries f 0 scene s { applied := 0, skipped := 0, first := 255 }

/-- A scheduled scene, taken off the list, executes and reports to its feed (R116, R118). -/
def runScheduled (x : Scheduled) (s : State) : State :=
  let r := runScene x.feed x.entries s
  notifyIf true x.feed (.sceneDone x.id x.frame r.2.applied r.2.skipped r.2.first) r.1

/-- The first scene of the scheduled list executes if it is due in the frame in progress (R116, R119). -/
def sceneDue (s : State) : State :=
  match s.scu.scheduled with
  | [] => s
  | x :: rest =>
    if due x.frame s.ftu.frame then runScheduled x { s with scu := { s.scu with scheduled := rest } } else s

/-- Every scene due in the frame in progress executes, in list order; the list holds at most four (R113). -/
def scenesDue (s : State) : State := sceneDue (sceneDue (sceneDue (sceneDue s)))

/-! ### Committing -/

/-- The id after `id`: from 255 back to 1 (R114). -/
def nextSceneId (id : Byte) : Byte := if id = 255 then 1 else id + 1

/-- The first id from `id` on that no waiting scene has, looking at `k` ids (R114). -/
def freeSceneId (waiting : List Scheduled) : Nat → Byte → Byte
  | 0, id => id
  | k + 1, id => if waiting.any (fun x => decide (x.id = id)) then freeSceneId waiting k (nextSceneId id) else id

/-- A scene placed after every waiting scene whose execution frame is not after its own (R113). -/
def insertScene (x : Scheduled) : List Scheduled → List Scheduled
  | [] => [x]
  | y :: rest => if notAfter y.frame x.frame then y :: insertScene x rest else x :: y :: rest

/-- R115: mode 0 alone, or mode 1 with a four-byte execution frame. -/
def parseCommit : List Byte → Option (Option FrameNo)
  | [m] => if m = 0 then some none else none
  | [m, a, b, c, d] => if m = 1 then some (some (a ++ b ++ c ++ d)) else none
  | _ => none

/-- A commit that schedules (R115, row 6). The ids of waiting scenes are passed over here, at the commit that needs an id: the
model's choice (log entry 25). -/
def scheduleScene (f : Feed) (x : FrameNo) (scene : List SceneEntry) (s : State) : Reply :=
  let id := freeSceneId s.scu.scheduled 5 s.scu.nextId
  accept .ok (id :: beFrame x)
    { s with scu :=
      { opened := put s.scu.opened f none
        scheduled := insertScene { id := id, feed := f, frame := x, entries := scene } s.scu.scheduled
        nextId := nextSceneId id } }

/-- A commit that executes at once (R115, row 3). -/
def executeScene (f : Feed) (scene : List SceneEntry) (s : State) : Reply :=
  let r := runScene f scene (setOpenScene f none s)
  accept .ok [0, byte r.2.applied, byte r.2.skipped, byte r.2.first] r.1

/-- SCN_COMMIT (R115). -/
def reqScnCommit (f : Feed) (ps : List Byte) : State → Reply :=
  runRequest .scnCommit (parseCommit ps) noSet f fun mode s =>
    match s.openScene f with
    | none => refuse .state s
    | some [] => refuse .state s
    | some (e :: es) =>
      match mode with
      | none => executeScene f (e :: es) s
      | some x =>
        if lead x s.ftu.frame ≤ 0 then executeScene f (e :: es) s
        else if 16777215 < lead x s.ftu.frame then refuse .range s
        else if 4 ≤ s.scu.scheduled.length then refuse .busy s
        else scheduleScene f x (e :: es) s

/-! ### SCN_CANCEL, SCN_LIST -/

/-- R120: mode 0 alone, or mode 1 with a scene id. -/
def parseCancel : List Byte → Option (Option Byte)
  | [m] => if m = 0 then some none else none
  | [m, id] => if m = 1 then some (some id) else none
  | _ => none

/-- The scheduled scene that a cancel of feed `f` names (R120). -/
def Scheduled.isOwn (f : Feed) (id : Byte) (x : Scheduled) : Bool := decide (x.id = id ∧ x.feed = f)

/-- SCN_CANCEL (R120). -/
def reqScnCancel (f : Feed) (ps : List Byte) : State → Reply :=
  runRequest .scnCancel (parseCancel ps) noSet f fun mode s =>
    match mode with
    | none =>
      match s.openScene f with
      | none => refuse .state s
      | some _ => accept .ok [] (setOpenScene f none s)
    | some id =>
      if s.scu.scheduled.any (Scheduled.isOwn f id) then
        accept .ok []
          { s with scu := { s.scu with scheduled := s.scu.scheduled.filter fun x => !x.isOwn f id } }
      else refuse .state s

/-- SCN_LIST (R121). -/
def reqScnList (f : Feed) (ps : List Byte) : State → Reply :=
  runRequest .scnList (parseNone ps) noSet f fun _ s =>
    let own := s.scu.scheduled.filter fun x => decide (x.feed = f)
    accept .ok ([bit (s.openScene f).isSome, byte ((s.openScene f).getD []).length,
        byte s.scu.scheduled.length, byte own.length] ++
      own.flatMap fun x => x.id :: beFrame x.frame) s

end Sys2Proof.Machine
end

