-- ==== Sys2Proof/Machine/ControlLane.lean ====
section
/-! DEFINITION. The control lane: DEV_STATUS (R150), the execution of a request of any kind (R146), and the arbiter
(R145). -/

namespace Sys2Proof.Machine

/-- The bytes of DEV_STATUS after the result byte (R150). -/
def State.statusBytes (s : State) (f : Feed) : List Byte :=
  beFrame s.ftu.frame ++
  [s.ftu.rate.byte, bit (!s.loading), bit s.sil.saving.isSome, bit s.sil.defaults, byte s.cle.supervisor, byte f,
    bit s.lnk.feeds[f].resync, s.ftu.clock.byte, s.ftu.clock.sourceByte] ++
  (List.finRange 8).map (fun p => s.lnk.ports[p].state.byte) ++
  (List.finRange 4).map (fun k => s.lnk.feeds[k].byte) ++
  (List.finRange 6).map (fun g => s.cvp.ports[g].state.byte)

/-- DEV_STATUS (R150). -/
def reqDevStatus (f : Feed) (ps : List Byte) : State → Reply :=
  runRequest .devStatus (parseNone ps) noSet f fun _ s =>
    accept .ok (s.statusBytes f) { s with lnk := s.lnk.onFeed f fun r => { r with resync := false } }

/-- The execution of a request of a known kind. -/
def executeKind (f : Feed) (ps : List Byte) : ReqKind → State → Reply
  | .devStatus => reqDevStatus f ps
  | .devRestart => reqDevRestart f ps
  | .storeSave => reqStoreSave f ps
  | .clockSet => reqClockSet f ps
  | .mapWindows => reqMapWindows f ps
  | .mapGet => reqMapGet f ps
  | .tapTrim => reqTapTrim f ps
  | .tapMode => reqTapMode f ps
  | .tapAnchor => reqTapAnchor f ps
  | .tapMute => reqTapMute f ps
  | .tapGet => reqTapGet f ps
  | .feedGlide => reqFeedGlide f ps
  | .lawStage => reqLawStage f ps
  | .lawApply => reqLawApply f ps
  | .plawStage => reqPlawStage f ps
  | .plawApply => reqPlawApply f ps
  | .lawGet => reqLawGet f ps
  | .haSet => reqHaSet f ps
  | .haNudge => reqHaNudge f ps
  | .haGet => reqHaGet f ps
  | .ownClaim => reqOwnClaim f ps
  | .ownRelease => reqOwnRelease f ps
  | .ownAssign => reqOwnAssign f ps
  | .supervisorSet => reqSupervisorSet f ps
  | .scnOpen => reqScnOpen f ps
  | .scnAdd => reqScnAdd f ps
  | .scnCommit => reqScnCommit f ps
  | .scnCancel => reqScnCancel f ps
  | .scnList => reqScnList f ps
  | .mtrSubscribe => reqMtrSubscribe f ps
  | .clipSet => reqClipSet f ps
  | .clipAck => reqClipAck f ps
  | .clipGet => reqClipGet f ps

/-- The execution of a request: check 1 of R146, then the kind's own (R146). -/
def execute (f : Feed) (m : Message) (s : State) : Reply :=
  match ReqKind.ofByte m.kind with
  | none => refuse .malformed s
  | some k => executeKind f m.params k s

/-- A response appended to feed `f`'s response queue, with the tag and kind of its request (R147). -/
def respond (f : Feed) (m : Message) (r : Reply) : State :=
  { r.1 with cle := r.1.cle.onLane f (·.respond { m with params := r.2 }) }

/-- The feeds that the round of the frame in progress has still to consider: before it begins, all four from the pointer on
(R145). -/
def State.roundLeft (s : State) : List Feed :=
  s.cle.left.getD [s.cle.pointer, s.cle.pointer + 1, s.cle.pointer + 2, s.cle.pointer + 3]

/-- The grant of a request of the feed being considered, already taken off its queue: executed and answered, the pointer moved
on, and the feed considered (R145). -/
def grant (f : Feed) (m : Message) (s : State) : State :=
  let t := respond f m (execute f m s)
  { t with cle := { t.cle with pointer := f + 1, left := some s.roundLeft.tail } }

/-- The feed being considered is passed over (R145). -/
def passOver (s : State) : State := { s with cle := { s.cle with left := some s.roundLeft.tail } }

/-- The oldest request of feed `f` taken off its queue. -/
def popRequest (f : Feed) (s : State) : State :=
  { s with cle := s.cle.onLane f fun l => { l with requests := l.requests.tail } }

/-- The arbiter considers feed `f`, the next of the round: the oldest request is granted if the feed is eligible (R145). -/
def consider (f : Feed) (s : State) : State :=
  match (s.lane f).requests with
  | [] => passOver s
  | m :: _ => if (s.lane f).responses.length < 8 then grant f m (popRequest f s) else passOver s

/-- The rest of the arbiter's round: the feeds it has still to consider, in order (R145). -/
def round (s : State) : State := s.roundLeft.foldl (fun s f => consider f s) s

/-- The arbiter's round up to feed `f`, which it considers next (R145). -/
def roundUpTo (f : Feed) (s : State) : State :=
  (s.roundLeft.takeWhile fun g => decide (g ≠ f)).foldl (fun s g => consider g s) s

end Sys2Proof.Machine
end

