-- ==== Sys2Proof/Machine/Converters.lean ====
section
/-! DEFINITION. Converter ports: judging a converter frame (R4), the port state machine (R5) and INPUT notices (R7). -/

namespace Sys2Proof.Machine

/-- The eight samples of a good converter frame; none for a missing or malformed one (R4). -/
def judgeConverter : Option (List (Nat × Sample)) → Option (List Sample)
  | none => none
  | some words => if words.map (·.1) = List.range 8 then some (words.map (·.2)) else none

/-- The converter port state machine (R5). -/
def ConverterPort.step (good : Bool) (p : ConverterPort) : ConverterPort :=
  match p.state, good with
  | .running, true => { p with judged := true }
  | .running, false => { state := .fault, goodRun := 0, judged := true }
  | .fault, true =>
    if 4 ≤ p.goodRun + 1 then { state := .running, goodRun := 0, judged := true }
    else { state := .fault, goodRun := p.goodRun + 1, judged := true }
  | .fault, false => { state := .fault, goodRun := 0, judged := true }

/-- The samples of port `g` replaced. -/
def Cvp.setSamples (g : Group) (xs : List Sample) (v : Vector Sample 48) : Vector Sample 48 :=
  mapAll (fun i x => if groupOf i = g then xs.getD (placeOf i).val 0 else x) v

/-- Feed `f` carries at least one input of port `g` (R7). -/
def State.carriesAny (s : State) (f : Feed) (g : Group) : Bool :=
  (List.finRange 8).any fun j => s.carries f (inputAt g j)

/-- The outcome of converter port `g` (R4, R5, R7): samples for a good frame, none otherwise. -/
def converterOutcome (g : Group) (samples : Option (List Sample)) (s : State) : State :=
  let before := s.cvp.ports[g]
  let after := before.step samples.isSome
  notifyWhere (fun f => decide (after.state ≠ before.state) && s.carriesAny f g)
    (.input g after.state s.ftu.frame)
    { s with cvp := { ports := put s.cvp.ports g after, samples := Cvp.setSamples g (samples.getD []) s.cvp.samples } }

/-- A port for which nothing arrived in the frame in progress: missing (R4, log entry 6). -/
def missingConverter (g : Group) (s : State) : State :=
  if s.cvp.ports[g].judged then s else converterOutcome g none s

/-- The missing outcomes of the frame in progress, in port order: the model's choice (log entry 16). -/
def missingConverters (s : State) : State := (List.finRange 6).foldl (fun s g => missingConverter g s) s

/-- CONVERTER_FRAME (R4, R5, R7). -/
def execConverterFrame (g : Group) (received : Option (List (Nat × Sample))) (s : State) :
    Host.Outcome State Fault Refusal :=
  .next (converterOutcome g (judgeConverter received) s)

end Sys2Proof.Machine
end

