-- ==== Sys2Proof/Machine/Links.lean ====
section
/-! DEFINITION. Link ports and feeds: judging upstream frames (R128), the port state machine (R129), delivery (R130), the
feed records (R131 to R133) and going OFFLINE (R134). -/

namespace Sys2Proof.Machine

/-- The outcome of a port in a frame (R128); a missing frame counts as bad. -/
inductive UpOutcome where
  | good (som : Bool) (bytes : List Byte)
  | bad
  deriving DecidableEq, Repr

/-- The judgement of what arrived: for each frame that began with the sync word, the bytes after it (R128). -/
def judgeUpstream : List (List Byte) → UpOutcome
  | [flags :: c0 :: c1 :: c2 :: c3 :: crc :: _] =>
    let count := (flags &&& 7).toNat
    if crc8 [flags, c0, c1, c2, c3] = crc ∧ count ≤ 4 then
      .good (flags.getLsbD 4) ([c0, c1, c2, c3].take count)
    else .bad
  | _ => .bad

/-- The port state machine (R129). -/
def LinkState.step (good : Bool) : LinkState → LinkState
  | .down => if good then .seek 1 else .down
  | .seek r => if good then (if 16 ≤ r + 1 then .up 0 else .seek (r + 1)) else .down
  | .up b => if good then .up 0 else (if 8 ≤ b + 1 then .down else .up (b + 1))

/-- The port is UP. -/
def LinkState.isUp : LinkState → Bool
  | .up _ => true
  | _ => false

/-- The state of a feed's port in a role. -/
def State.linkAt (s : State) (f : Feed) (r : Role) : LinkPort := s.lnk.ports[portOf f r]

/-! ### Feed records -/

/-- Feed `f`'s assembler is set to WAIT_SOM (R143). -/
def resetAssembler (f : Feed) (s : State) : State :=
  { s with cle := s.cle.onLane f fun l => { l with assembler := .waitSom } }

/-- Feed `f` goes ONLINE with the port of role `r` as control port (R131). -/
def goOnline (f : Feed) (r : Role) (s : State) : State :=
  reportCame (.feed f)
    (resetAssembler f
      { s with lnk := s.lnk.onFeed f fun _ => { control := some r, resync := true, cameOnline := true } })

/-- Control of feed `f` moves to the port of role `r` (R132). -/
def moveControl (f : Feed) (r : Role) (s : State) : State :=
  resetAssembler f { s with lnk := s.lnk.onFeed f fun x => { x with control := some r } }

/-- Feed `f` goes OFFLINE (R134). -/
def goOffline (f : Feed) (s : State) : State :=
  reportGone (.feed f)
    { s with
      lnk := s.lnk.onFeed f fun x => { x with control := none }
      cle := s.cle.onLane f Lane.tearDown
      scu := { s.scu with opened := put s.scu.opened f none }
      lmu := { s.lmu with subscriptions := put s.lmu.subscriptions f none } }

/-- The port of role `r` has reached UP (R131): an OFFLINE feed goes ONLINE; when both ports reach UP in one frame the main
port is the control port. That the reserve port reads as control port until the main port's outcome of the frame comes is the
model's choice (log entry 9). -/
def portUp (f : Feed) (r : Role) (s : State) : State :=
  match s.lnk.feeds[f].control with
  | none => goOnline f r s
  | some c => if s.lnk.feeds[f].cameOnline && decide (r = .main ∧ c = .reserve) then moveControl f .main s else s

/-- The port of role `r` has gone DOWN from UP (R132 to R134). -/
def portDown (f : Feed) (r : Role) (s : State) : State :=
  if s.lnk.feeds[f].control = some r then
    if (s.linkAt f r.other).state.isUp then moveControl f r.other s else goOffline f s
  else s

/-! ### Outcomes -/

/-- The control bytes of a good frame, delivered when the port is UP and is its feed's control port (R130). -/
def deliverBytes (f : Feed) (r : Role) (late som : Bool) (bytes : List Byte) (s : State) : State :=
  { s with cle :=
    if (s.linkAt f r).state.isUp && decide (s.lnk.feeds[f].control = some r) then
      s.cle.onLane f (·.deliver late som bytes)
    else s.cle }

/-- The port state machine takes an outcome, and a change to UP or from UP to DOWN reaches the feed record (R129). -/
def takeOutcome (f : Feed) (r : Role) (good : Bool) (s : State) : State :=
  let before := (s.linkAt f r).state
  let after := before.step good
  let t := { s with lnk := s.lnk.onPort (portOf f r) fun p => { p with state := after, judged := true, held := false } }
  if !before.isUp && after.isUp then portUp f r t
  else if before.isUp && !after.isUp then portDown f r t
  else t

/-- A bad outcome takes the port from UP to DOWN. -/
def LinkState.falls (x : LinkState) : Bool := x.isUp && !(x.step false).isUp

/-- A bad outcome of the port of role `r` must wait for the other port's outcome of this frame, which has not come and bears on
it (log entry 9): the port falls, and the other port may be UP after the frame and take control over (R130, R132), or, when it
is the control port, may fall too (R133). -/
def mustWait (f : Feed) (r : Role) (s : State) : Bool :=
  (s.linkAt f r).state.falls && !(s.linkAt f r.other).judged &&
    if s.lnk.feeds[f].control = some r then (LinkState.step true (s.linkAt f r.other).state).isUp
    else (s.linkAt f r.other).state.falls

/-- An outcome that waited on the port of role `r` is taken (R132, R133). -/
def takeHeld (f : Feed) (r : Role) (s : State) : State :=
  if (s.linkAt f r).held then takeOutcome f r false s else s

/-- One outcome of the port of role `r` of feed `f` (R129 to R133). -/
def portOutcome (f : Feed) (r : Role) (late : Bool) (o : UpOutcome) (s : State) : State :=
  match o with
  | .good som bytes => takeHeld f r.other (takeOutcome f r true (deliverBytes f r late som bytes s))
  | .bad =>
    if mustWait f r s then
      { s with lnk := s.lnk.onPort (portOf f r) fun p => { p with judged := true, held := true } }
    else takeHeld f r.other (takeOutcome f r false s)

/-- A port for which nothing arrived in the frame in progress: missing (R128, log entry 6). -/
def missingLink (p : Port) (s : State) : State :=
  if s.lnk.ports[p].judged then s else portOutcome (feedOf p) (roleOf p) false .bad s

/-- The missing outcomes of the frame in progress, in port order: the model's choice (log entry 16). -/
def missingLinks (s : State) : State := (List.finRange 8).foldl (fun s p => missingLink p s) s

/-- UPSTREAM_FRAME (R128 to R134). -/
def execUpstreamFrame (p : Port) (received : List (List Byte)) (late : Bool) (s : State) :
    Host.Outcome State Fault Refusal :=
  .next (portOutcome (feedOf p) (roleOf p) late (judgeUpstream received) s)

end Sys2Proof.Machine
end

