-- ==== Sys2Proof/Machine/Frame.lean ====
section
/-! DEFINITION. The work of a frame (R38, R39, R124, R145, R148, R154): what opens it, FRAME_TICK that completes it, and the
commands of its due events. Log entries 1 and 2 say how commands share a frame. -/

namespace Sys2Proof.Machine

/-! ### Opening the frame -/

/-- What precedes the frame step: settle mute ends, maps and law coming into force, converter ports that received nothing,
effective events (R25, R67, R83, R84). That the INPUT notices come before the HEADAMP and LIMIT notices of effective events
is the model's choice (log entry 16). -/
def beforeStep (s : State) : State :=
  effectiveEvents (missingConverters (lawInEffect (mapsInForce (settleEnds s))))

/-- The frame step and the samples of the frame in progress, taken once (R38, R39, R154). -/
def openFrame (s : State) : State :=
  if s.stepped then s else { takeSamples (stepTaps (beforeStep s)) with stepped := true }

/-- What precedes every request of the frame in progress: its frame step and samples (R39, R154), and its period ends. That a
period end comes before a MTR_SUBSCRIBE or DEV_RESTART of its frame is the model's choice (log entry 1), and so is that a
feed's CLIP notices of the samples come before its METER notices (log entry 16). -/
def beforeRequests (s : State) : State := periodEnds (openFrame s)

/-! ### A request as a command -/

/-- The part when the round of the frame in progress comes to feed `f`: the frame is open, and the feeds before it in the
round have been considered (R145). -/
def reach (f : Feed) (s : State) : State := roundUpTo f (beforeRequests s)

/-- A complete request of feed `f` arrives. The arbiter's round goes on to the feed and grants it at once, if the round of this
frame has not passed the feed and no older request of it waits; otherwise it joins the queue (R144, R145; log entry 4). An
OFFLINE feed sends no requests (R130, log entry 21). -/
def submit (f : Feed) (m : Message) (s : State) : State :=
  if s.online f then
    if (s.lane f).requests = [] ∧ (s.lane f).responses.length < 8 ∧ f ∈ s.roundLeft then grant f m (reach f s)
    else { s with cle := s.cle.onLane f (·.arrive m) }
  else s

/-! ### Completing the frame -/

/-- The sample of a slot for the frame in progress (R17, R62); 0 while LOADING. -/
def State.slotSample (s : State) (f : Feed) : SlotEntry → Sample
  | .input i => if s.loading then 0 else s.tgu.out[f][i]
  | .silence => 0
  | .pattern => if s.loading then 0 else patternValue s.ftu.frame

/-- Offsets 2 to 8 of the downstream frame: frame number, slot count and flags (R124, R125). -/
def State.header (s : State) (f : Feed) (r : Role) (c : Chunk) : List Byte :=
  beFrame s.ftu.frame ++
  [byte (s.slotMap f).slots.length,
    flagsA s.loading s.lnk.feeds[f].resync s.sil.defaults c.som c.bytes.length,
    flagsB s.ftu.clock f r]

/-- The four control bytes, those beyond the count being 0 (R126). -/
def Chunk.field (c : Chunk) : List Byte := c.bytes ++ List.replicate (4 - c.bytes.length) 0

/-- The downstream frame of a port of feed `f` in role `r` (R124, R127). -/
def State.downstream (s : State) (f : Feed) (r : Role) : List Byte :=
  let c := (s.lane f).chunk
  [0xA9, 0x1E] ++ s.header f r c ++
    (s.slotMap f).slots.flatMap (fun e => be 3 (s.slotSample f e).toNat) ++
    c.field ++ [crc8 (s.header f r c ++ c.field)]

/-- The serialisers place their bytes and every port sends its frame (R124, R148). -/
def transmit (s : State) : State :=
  { s with
    lnk := { s.lnk with ports := mapAll (fun p x => { x with sent := s.downstream (feedOf p) (roleOf p) }) s.lnk.ports }
    cle := { s.cle with lanes := mapAll (fun _ l => l.advance) s.cle.lanes } }

/-- The counter advances by one and the marks of the frame in progress are cleared (R1). -/
def nextFrame (s : State) : State :=
  { s with
    ftu := { s.ftu with frame := s.ftu.frame + 1 }
    cvp := { s.cvp with ports := mapAll (fun _ p => { p with judged := false }) s.cvp.ports }
    lnk :=
      { ports := mapAll (fun _ p => { p with judged := false, held := false }) s.lnk.ports
        feeds := mapAll (fun _ r => { r with cameOnline := false }) s.lnk.feeds }
    hac := { s.hac with
      buses := mapAll (fun _ b => { b with taken := false }) s.hac.buses, landed := tab fun _ => false }
    cle := { s.cle with left := none }
    stepped := false }

/-- The requests that waited for the round to be over join their queues (R145, log entry 8). -/
def lateArrivals (s : State) : State :=
  { s with cle := { s.cle with lanes := mapAll (fun _ l => l.arriveLate) s.cle.lanes } }

/-- The events of the frame in progress that no command took, in the order of log entry 16: requests that wait for the
round, link ports that received nothing, timers, scenes, send opportunities. -/
def afterRound (s : State) : State :=
  busOpportunities (scenesDue (holdoverTimer (revertTimer (missingLinks (lateArrivals s)))))

/-- All the events of the frame in progress, up to its transmission. That a request which waits in its queue is taken here, after
every event of the frame that came as a command (an OWN_CLAIM after the owner's feed came ONLINE, R100), unless a request
command has moved the round past its feed before, is the model's choice (log entry 16). -/
def frameEvents (s : State) : State := afterRound (round (beforeRequests s))

/-- The frame in progress is completed and the next one begins (R1). -/
def tick (s : State) : State := becomeReady (nextFrame (transmit (frameEvents s)))

/-- FRAME_TICK (R1, R38, R124, R145, R148, R154). -/
def execFrameTick (s : State) : Host.Outcome State Fault Refusal := .next (tick s)

/-! ### The due events as commands -/

/-- BUS_SEND_OPPORTUNITY (R79, R80): after the frame step of its frame (R82). -/
def execBusSendOpportunity (b : Group) (s : State) : Host.Outcome State Fault Refusal :=
  .next (busOpportunity b (openFrame s))

/-- EFFECTIVE_EVENT (R84, R85). -/
def execEffectiveEvent (i : Input) (s : State) : Host.Outcome State Fault Refusal := .next (effective i s)

/-- SETTLE_MUTE_END (R83). -/
def execSettleMuteEnd (i : Input) (s : State) : Host.Outcome State Fault Refusal := .next (settleEnd i s)

/-- SCENE_EXECUTION (R116 to R118): after the frame step of its frame. -/
def execSceneExecution (s : State) : Host.Outcome State Fault Refusal := .next (sceneDue (openFrame s))

/-- METER_PERIOD_END (R154, R155): after the samples of its frame. -/
def execMeterPeriodEnd (f : Feed) (s : State) : Host.Outcome State Fault Refusal := .next (periodEnd f (openFrame s))

end Sys2Proof.Machine
end

