-- ==== Sys2Proof/Machine/Requests.lean ====
section
/-! DEFINITION. The request commands: each is a complete request of its feed, executed by the request's own definition through
`submit` (log entry 4). -/

namespace Sys2Proof.Machine

/-- DEV_STATUS (R150). -/
def execDevStatus (f : Feed) (tag : Byte) (ps : List Byte) (s : State) : Host.Outcome State Fault Refusal :=
  .next (submit f { tag := tag, kind := ReqKind.code .devStatus, params := ps } s)

/-- DEV_RESTART (R165). -/
def execDevRestart (f : Feed) (tag : Byte) (ps : List Byte) (s : State) : Host.Outcome State Fault Refusal :=
  .next (submit f { tag := tag, kind := ReqKind.code .devRestart, params := ps } s)

/-- STORE_SAVE (R166). -/
def execStoreSave (f : Feed) (tag : Byte) (ps : List Byte) (s : State) : Host.Outcome State Fault Refusal :=
  .next (submit f { tag := tag, kind := ReqKind.code .storeSave, params := ps } s)

/-- CLOCK_SET (R14). -/
def execClockSet (f : Feed) (tag : Byte) (ps : List Byte) (s : State) : Host.Outcome State Fault Refusal :=
  .next (submit f { tag := tag, kind := ReqKind.code .clockSet, params := ps } s)

/-- MAP_WINDOWS (R23 to R25). -/
def execMapWindows (f : Feed) (tag : Byte) (ps : List Byte) (s : State) : Host.Outcome State Fault Refusal :=
  .next (submit f { tag := tag, kind := ReqKind.code .mapWindows, params := ps } s)

/-- MAP_GET (R27). -/
def execMapGet (f : Feed) (tag : Byte) (ps : List Byte) (s : State) : Host.Outcome State Fault Refusal :=
  .next (submit f { tag := tag, kind := ReqKind.code .mapGet, params := ps } s)

/-- TAP_TRIM (R45). -/
def execTapTrim (f : Feed) (tag : Byte) (ps : List Byte) (s : State) : Host.Outcome State Fault Refusal :=
  .next (submit f { tag := tag, kind := ReqKind.code .tapTrim, params := ps } s)

/-- TAP_MODE (R47, R48). -/
def execTapMode (f : Feed) (tag : Byte) (ps : List Byte) (s : State) : Host.Outcome State Fault Refusal :=
  .next (submit f { tag := tag, kind := ReqKind.code .tapMode, params := ps } s)

/-- TAP_ANCHOR (R49). -/
def execTapAnchor (f : Feed) (tag : Byte) (ps : List Byte) (s : State) : Host.Outcome State Fault Refusal :=
  .next (submit f { tag := tag, kind := ReqKind.code .tapAnchor, params := ps } s)

/-- TAP_MUTE (R51). -/
def execTapMute (f : Feed) (tag : Byte) (ps : List Byte) (s : State) : Host.Outcome State Fault Refusal :=
  .next (submit f { tag := tag, kind := ReqKind.code .tapMute, params := ps } s)

/-- TAP_GET (R52). -/
def execTapGet (f : Feed) (tag : Byte) (ps : List Byte) (s : State) : Host.Outcome State Fault Refusal :=
  .next (submit f { tag := tag, kind := ReqKind.code .tapGet, params := ps } s)

/-- FEED_GLIDE (R53). -/
def execFeedGlide (f : Feed) (tag : Byte) (ps : List Byte) (s : State) : Host.Outcome State Fault Refusal :=
  .next (submit f { tag := tag, kind := ReqKind.code .feedGlide, params := ps } s)

/-- LAW_STAGE (R65). -/
def execLawStage (f : Feed) (tag : Byte) (ps : List Byte) (s : State) : Host.Outcome State Fault Refusal :=
  .next (submit f { tag := tag, kind := ReqKind.code .lawStage, params := ps } s)

/-- LAW_APPLY (R66 to R68). -/
def execLawApply (f : Feed) (tag : Byte) (ps : List Byte) (s : State) : Host.Outcome State Fault Refusal :=
  .next (submit f { tag := tag, kind := ReqKind.code .lawApply, params := ps } s)

/-- PLAW_STAGE (R87). -/
def execPlawStage (f : Feed) (tag : Byte) (ps : List Byte) (s : State) : Host.Outcome State Fault Refusal :=
  .next (submit f { tag := tag, kind := ReqKind.code .plawStage, params := ps } s)

/-- PLAW_APPLY (R88, R89). -/
def execPlawApply (f : Feed) (tag : Byte) (ps : List Byte) (s : State) : Host.Outcome State Fault Refusal :=
  .next (submit f { tag := tag, kind := ReqKind.code .plawApply, params := ps } s)

/-- LAW_GET (R69). -/
def execLawGet (f : Feed) (tag : Byte) (ps : List Byte) (s : State) : Host.Outcome State Fault Refusal :=
  .next (submit f { tag := tag, kind := ReqKind.code .lawGet, params := ps } s)

/-- HA_SET (R75). -/
def execHaSet (f : Feed) (tag : Byte) (ps : List Byte) (s : State) : Host.Outcome State Fault Refusal :=
  .next (submit f { tag := tag, kind := ReqKind.code .haSet, params := ps } s)

/-- HA_NUDGE (R76). -/
def execHaNudge (f : Feed) (tag : Byte) (ps : List Byte) (s : State) : Host.Outcome State Fault Refusal :=
  .next (submit f { tag := tag, kind := ReqKind.code .haNudge, params := ps } s)

/-- HA_GET (R77). -/
def execHaGet (f : Feed) (tag : Byte) (ps : List Byte) (s : State) : Host.Outcome State Fault Refusal :=
  .next (submit f { tag := tag, kind := ReqKind.code .haGet, params := ps } s)

/-- OWN_CLAIM (R97 to R99). -/
def execOwnClaim (f : Feed) (tag : Byte) (ps : List Byte) (s : State) : Host.Outcome State Fault Refusal :=
  .next (submit f { tag := tag, kind := ReqKind.code .ownClaim, params := ps } s)

/-- OWN_RELEASE (R101). -/
def execOwnRelease (f : Feed) (tag : Byte) (ps : List Byte) (s : State) : Host.Outcome State Fault Refusal :=
  .next (submit f { tag := tag, kind := ReqKind.code .ownRelease, params := ps } s)

/-- OWN_ASSIGN (R102). -/
def execOwnAssign (f : Feed) (tag : Byte) (ps : List Byte) (s : State) : Host.Outcome State Fault Refusal :=
  .next (submit f { tag := tag, kind := ReqKind.code .ownAssign, params := ps } s)

/-- SUPERVISOR_SET (R103). -/
def execSupervisorSet (f : Feed) (tag : Byte) (ps : List Byte) (s : State) : Host.Outcome State Fault Refusal :=
  .next (submit f { tag := tag, kind := ReqKind.code .supervisorSet, params := ps } s)

/-- SCN_OPEN (R110). -/
def execScnOpen (f : Feed) (tag : Byte) (ps : List Byte) (s : State) : Host.Outcome State Fault Refusal :=
  .next (submit f { tag := tag, kind := ReqKind.code .scnOpen, params := ps } s)

/-- SCN_ADD (R111, R112). -/
def execScnAdd (f : Feed) (tag : Byte) (ps : List Byte) (s : State) : Host.Outcome State Fault Refusal :=
  .next (submit f { tag := tag, kind := ReqKind.code .scnAdd, params := ps } s)

/-- SCN_COMMIT (R115). -/
def execScnCommit (f : Feed) (tag : Byte) (ps : List Byte) (s : State) : Host.Outcome State Fault Refusal :=
  .next (submit f { tag := tag, kind := ReqKind.code .scnCommit, params := ps } s)

/-- SCN_CANCEL (R120). -/
def execScnCancel (f : Feed) (tag : Byte) (ps : List Byte) (s : State) : Host.Outcome State Fault Refusal :=
  .next (submit f { tag := tag, kind := ReqKind.code .scnCancel, params := ps } s)

/-- SCN_LIST (R121). -/
def execScnList (f : Feed) (tag : Byte) (ps : List Byte) (s : State) : Host.Outcome State Fault Refusal :=
  .next (submit f { tag := tag, kind := ReqKind.code .scnList, params := ps } s)

/-- MTR_SUBSCRIBE (R153). -/
def execMtrSubscribe (f : Feed) (tag : Byte) (ps : List Byte) (s : State) : Host.Outcome State Fault Refusal :=
  .next (submit f { tag := tag, kind := ReqKind.code .mtrSubscribe, params := ps } s)

/-- CLIP_SET (R158). -/
def execClipSet (f : Feed) (tag : Byte) (ps : List Byte) (s : State) : Host.Outcome State Fault Refusal :=
  .next (submit f { tag := tag, kind := ReqKind.code .clipSet, params := ps } s)

/-- CLIP_ACK (R158). -/
def execClipAck (f : Feed) (tag : Byte) (ps : List Byte) (s : State) : Host.Outcome State Fault Refusal :=
  .next (submit f { tag := tag, kind := ReqKind.code .clipAck, params := ps } s)

/-- CLIP_GET (R159). -/
def execClipGet (f : Feed) (tag : Byte) (ps : List Byte) (s : State) : Host.Outcome State Fault Refusal :=
  .next (submit f { tag := tag, kind := ReqKind.code .clipGet, params := ps } s)

/-- UNKNOWN_KIND_REQUEST (R146). -/
def execUnknownKindRequest (f : Feed) (tag kind : Byte) (ps : List Byte) (s : State) :
    Host.Outcome State Fault Refusal :=
  .next (submit f { tag := tag, kind := kind, params := ps } s)

end Sys2Proof.Machine
end

