-- ==== Sys2Proof/Machine/Dispatch.lean ====
section
/-! DEFINITION. The dispatch of commands: one arm per constructor of Instr. -/

namespace Sys2Proof.Machine

def exec (i : Instr) (s : State) : Host.Outcome State Fault Refusal :=
  match i with
  | .reset => Sys2Proof.Machine.execReset s
  | .frameTick => Sys2Proof.Machine.execFrameTick s
  | .converterFrame port received => Sys2Proof.Machine.execConverterFrame port received s
  | .upstreamFrame port received late => Sys2Proof.Machine.execUpstreamFrame port received late s
  | .wordclockPresent => Sys2Proof.Machine.execWordclockPresent s
  | .wordclockAbsent => Sys2Proof.Machine.execWordclockAbsent s
  | .revertTimerExpiry => Sys2Proof.Machine.execRevertTimerExpiry s
  | .holdoverTimerExpiry => Sys2Proof.Machine.execHoldoverTimerExpiry s
  | .busSendOpportunity bus => Sys2Proof.Machine.execBusSendOpportunity bus s
  | .effectiveEvent input => Sys2Proof.Machine.execEffectiveEvent input s
  | .settleMuteEnd input => Sys2Proof.Machine.execSettleMuteEnd input s
  | .sceneExecution => Sys2Proof.Machine.execSceneExecution s
  | .meterPeriodEnd feed => Sys2Proof.Machine.execMeterPeriodEnd feed s
  | .pendingMapInForce feed => Sys2Proof.Machine.execPendingMapInForce feed s
  | .pendingLawInEffect => Sys2Proof.Machine.execPendingLawInEffect s
  | .loadComplete read => Sys2Proof.Machine.execLoadComplete read s
  | .saveComplete ended => Sys2Proof.Machine.execSaveComplete ended s
  | .devStatus feed tag params => Sys2Proof.Machine.execDevStatus feed tag params s
  | .devRestart feed tag params => Sys2Proof.Machine.execDevRestart feed tag params s
  | .storeSave feed tag params => Sys2Proof.Machine.execStoreSave feed tag params s
  | .clockSet feed tag params => Sys2Proof.Machine.execClockSet feed tag params s
  | .mapWindows feed tag params => Sys2Proof.Machine.execMapWindows feed tag params s
  | .mapGet feed tag params => Sys2Proof.Machine.execMapGet feed tag params s
  | .tapTrim feed tag params => Sys2Proof.Machine.execTapTrim feed tag params s
  | .tapMode feed tag params => Sys2Proof.Machine.execTapMode feed tag params s
  | .tapAnchor feed tag params => Sys2Proof.Machine.execTapAnchor feed tag params s
  | .tapMute feed tag params => Sys2Proof.Machine.execTapMute feed tag params s
  | .tapGet feed tag params => Sys2Proof.Machine.execTapGet feed tag params s
  | .feedGlide feed tag params => Sys2Proof.Machine.execFeedGlide feed tag params s
  | .lawStage feed tag params => Sys2Proof.Machine.execLawStage feed tag params s
  | .lawApply feed tag params => Sys2Proof.Machine.execLawApply feed tag params s
  | .plawStage feed tag params => Sys2Proof.Machine.execPlawStage feed tag params s
  | .plawApply feed tag params => Sys2Proof.Machine.execPlawApply feed tag params s
  | .lawGet feed tag params => Sys2Proof.Machine.execLawGet feed tag params s
  | .haSet feed tag params => Sys2Proof.Machine.execHaSet feed tag params s
  | .haNudge feed tag params => Sys2Proof.Machine.execHaNudge feed tag params s
  | .haGet feed tag params => Sys2Proof.Machine.execHaGet feed tag params s
  | .ownClaim feed tag params => Sys2Proof.Machine.execOwnClaim feed tag params s
  | .ownRelease feed tag params => Sys2Proof.Machine.execOwnRelease feed tag params s
  | .ownAssign feed tag params => Sys2Proof.Machine.execOwnAssign feed tag params s
  | .supervisorSet feed tag params => Sys2Proof.Machine.execSupervisorSet feed tag params s
  | .scnOpen feed tag params => Sys2Proof.Machine.execScnOpen feed tag params s
  | .scnAdd feed tag params => Sys2Proof.Machine.execScnAdd feed tag params s
  | .scnCommit feed tag params => Sys2Proof.Machine.execScnCommit feed tag params s
  | .scnCancel feed tag params => Sys2Proof.Machine.execScnCancel feed tag params s
  | .scnList feed tag params => Sys2Proof.Machine.execScnList feed tag params s
  | .mtrSubscribe feed tag params => Sys2Proof.Machine.execMtrSubscribe feed tag params s
  | .clipSet feed tag params => Sys2Proof.Machine.execClipSet feed tag params s
  | .clipAck feed tag params => Sys2Proof.Machine.execClipAck feed tag params s
  | .clipGet feed tag params => Sys2Proof.Machine.execClipGet feed tag params s
  | .unknownKindRequest feed tag kind params => Sys2Proof.Machine.execUnknownKindRequest feed tag kind params s

end Sys2Proof.Machine
end

