-- ==== Sys2Proof/Safety.lean ====
section
/-! DEFINITION. The terms in which the statements speak: which blocks an event leaves alone, a request answered and notices
handed over, the checks of a request by its kind, and the conditions that every step keeps. -/

namespace Sys2Proof.Machine

/-! ### Blocks left alone -/

/-- The ten blocks (00_scope.md, "Block overview"). -/
inductive Block where
  | ftu
  | cvp
  | smu
  | tgu
  | hac
  | scu
  | lnk
  | cle
  | lmu
  | sil
  deriving DecidableEq, Repr

/-- Everything a block owns is the same in two states. -/
def Block.same (u t : State) : Block → Prop
  | .ftu => t.ftu = u.ftu
  | .cvp => t.cvp = u.cvp
  | .smu => t.smu = u.smu
  | .tgu => t.tgu = u.tgu
  | .hac => t.hac = u.hac
  | .scu => t.scu = u.scu
  | .lnk => t.lnk = u.lnk
  | .cle => t.cle = u.cle
  | .lmu => t.lmu = u.lmu
  | .sil => t.sil = u.sil

/-- Only the blocks of a list may differ between two states; the frame step stands as taken or not, and the waiting commands
are the same. -/
def onlyBlocks (bs : List Block) (u t : State) : Prop :=
  (∀ b : Block, b ∉ bs → b.same u t) ∧ t.stepped = u.stepped ∧ t.pending = u.pending

/-! ### A save cut short -/

/-- `e` is what a save of some section bytes leaves when it stops after the version byte 0 and `written` bytes more (R166): the
version is 0; of the bytes that a save writes next, the section bytes, the signature, the length and the checksum, the first
`written` are the snapshot's; every other byte is the one held before. The ascending order of the section bytes and of the
header fields, and 0 for a byte that nothing has written, are the model's choice (log entry 11). -/
def leftByStop (written : Nat) (sections held e : List Byte) : Prop :=
  let new := [0x50, 0x46, 0x53, 0x50, 0, 0x06, 0xC2] ++ be 2 ((sections.map (·.toNat)).sum % 65536) ++ sections
  let order := List.range' 9 1730 ++ [0, 1, 2, 3] ++ [5, 6] ++ [7, 8]
  e.length = max 1739 held.length ∧ e.getD 4 1 = 0 ∧
  ∀ p, p ≠ 4 → e.getD p 0 = if p ∈ order.take written then new.getD p 0 else held.getD p 0

/-! ### Commands one after another -/

/-- The state after commands taken one after another; one with no next state leaves the state as it is. -/
def runAll (cs : List Instr) (s : State) : State :=
  cs.foldl (fun s c =>
    match exec c s with
    | .next t => t
    | _ => s) s

/-! ### A request answered -/

/-- The CLE grants a request of feed `f` that arrives now: the feed is ONLINE, none of its requests waits, its response queue
holds fewer than eight messages, and the round of this frame has not passed it (R145; log entry 4). -/
def State.serves (s : State) (f : Feed) : Prop :=
  s.online f = true ∧ (s.lane f).requests = [] ∧ (s.lane f).responses.length < 8 ∧ f ∈ s.roundLeft

/-- One response appended to feed `f`'s response queue, the arbiter's pointer at the next feed, and feed `f`, the next of the
round, considered (R145, R147). -/
def answered (f : Feed) (tag kind : Byte) (params : List Byte) (u : State) : State :=
  { u with cle :=
    { u.cle with
      lanes := tab fun g =>
        if g = f then
          { u.lane f with responses := (u.lane f).responses ++ [{ tag := tag, kind := kind, params := params }] }
        else u.lane g
      pointer := f + 1
      left := some u.roundLeft.tail } }

/-! ### Notices handed over -/

/-- Notices handed one after another to a lane (R149), and whether one was dropped for want of room. -/
def Lane.handed : List Notice → Lane → Lane × Bool
  | [], l => (l, false)
  | nt :: rest, l => ((Lane.handed rest (l.offer nt)).1, l.overflows nt || (Lane.handed rest (l.offer nt)).2)

/-- Every ONLINE feed `g` is handed the notices `nts g`, and its RESYNC flag is set when one is dropped for want of room
(R136, R149); an OFFLINE feed is handed nothing. -/
def told (nts : Feed → List Notice) (u : State) : State :=
  { u with
    cle := { u.cle with
      lanes := tab fun g => if u.online g then ((u.lane g).handed (nts g)).1 else u.lane g }
    lnk := { u.lnk with
      feeds := tab fun g =>
        if u.online g then
          { u.lnk.feeds[g] with resync := u.lnk.feeds[g].resync || ((u.lane g).handed (nts g)).2 }
        else u.lnk.feeds[g] } }

/-- One notice for every feed that `p` addresses. -/
def toFeeds (p : Feed → Bool) (nt : Notice) (g : Feed) : List Notice := if p g then [nt] else []

/-- Notices for one feed. -/
def toFeed (f : Feed) (nts : List Notice) (g : Feed) : List Notice := if g = f then nts else []

/-! ### Taps changed -/

/-- The taps with feed `f`'s taps of the inputs of a list replaced by `new`. -/
def tapsWith (f : Feed) (is : List Input) (new : Input → Tap) (u : State) : Vector (Vector Tap 48) 4 :=
  tab fun g => tab fun i => if g = f ∧ i ∈ is then new i else u.tap g i

/-- The LIMIT notices of a change of feed `f`'s taps: one for each input whose limit flag changes, in list order (R37). -/
def limitNotices (f : Feed) (is : List Input) (new : Input → Tap) (u : State) : List Notice :=
  (is.filter fun i => decide ((new i).limit ≠ (u.tap f i).limit)).map fun i =>
    .limit i (new i).limit (new i).target
      (match (new i).mode with
        | .follow => (new i).target
        | .track n => (new i).offset + n - (u.channel i).gain)
      u.ftu.frame

/-! ### The checks of a request, by its kind (R146) -/

/-- The parameters break a condition that the kind's own rule calls MALFORMED. -/
def malformed (ps : List Byte) : ReqKind → Bool
  | .clockSet => (parseClockSet ps).isNone
  | .mapWindows => (parseWindows ps).isNone
  | .tapTrim => (parseTrim ps).isNone
  | .tapMode | .tapMute => (parseSetBit ps).isNone
  | .tapAnchor | .ownClaim | .ownRelease | .clipAck => (parseSetAlone ps).isNone
  | .tapGet | .haGet | .clipGet => (parseSingle ps).isNone
  | .feedGlide | .supervisorSet => (parseByte ps).isNone
  | .lawStage => (parseStage 3 12 ps).isNone
  | .plawStage => (parseStage 2 16 ps).isNone
  | .lawGet => (parseLawGet ps).isNone
  | .haSet => (parseHaSet ps).isNone
  | .haNudge => (parseNudge ps).isNone
  | .ownAssign => (parseAssign ps).isNone
  | .scnAdd => (parseScnAdd ps).isNone
  | .scnCommit => (parseCommit ps).isNone
  | .scnCancel => (parseCancel ps).isNone
  | .mtrSubscribe => (parseSubscribe ps).isNone
  | .clipSet => (parseClipSet ps).isNone
  | .devStatus | .devRestart | .storeSave | .mapGet | .lawApply | .plawApply | .scnOpen | .scnList => !ps.isEmpty

/-- The channel set a request of the kind carries, if it carries one. -/
def channelSetOf (ps : List Byte) : ReqKind → Option ChannelSet
  | .tapTrim | .tapMode | .tapAnchor | .tapMute | .tapGet | .haSet | .haNudge | .haGet | .ownClaim | .ownRelease
  | .ownAssign | .clipSet | .clipAck | .clipGet => (parseSet ps).map (·.1)
  | .scnAdd | .mtrSubscribe => (parseSet ps.tail).map (·.1)
  | _ => none

/-- The kind's own check of a translated input (R33). -/
def memberCheckOf (u : State) (f : Feed) : ReqKind → Input → Option Result
  | .tapAnchor => mustHold (fun i => (u.tap f i).tracks) .state
  | .haSet | .haNudge | .ownRelease => ownerCheck f u
  | .ownClaim => mustHold (fun i => !u.ownedElsewhere f i) .owned
  | .clipSet | .clipAck => clipCheck f u
  | _ => noCheck

/-- A request passes checks 2 to 5 of R146 in state `u`. -/
def passesChecks (u : State) (f : Feed) (ps : List Byte) (k : ReqKind) : Prop :=
  malformed ps k = false ∧ (u.loading = false ∨ k = .devStatus) ∧
    (privileged k = true → f = u.cle.supervisor) ∧
    (∀ set, channelSetOf ps k = some set → set.inputForm = true → f = u.cle.supervisor)

/-! ### Conditions that every step keeps -/

/-- A trim in −320 to +192 (R35). -/
def inTrim (x : Int) : Prop := -320 ≤ x ∧ x ≤ 192

/-- The queues of a lane are in their bounds, and no two waiting notices share a key (R144, R149). -/
def Lane.bounded (l : Lane) : Prop :=
  l.requests.length ≤ 8 ∧ l.responses.length ≤ 8 ∧ l.notices.length ≤ 16 ∧
    (l.notices.drop l.sendingNotice).Pairwise fun a b => a.sameKey b = false

/-- R144, R149; and a round considers no feed twice (R145). -/
def State.queuesBounded (s : State) : Prop := (∀ f : Feed, (s.lane f).bounded) ∧ s.roundLeft.Nodup

/-- A gain law that passes the checks of R66 (R63). -/
def lawSound (m : Vector Mantissa 48) : Prop :=
  (∀ r : Fin 48, 4194304 ≤ m[r].toNat ∧ m[r].toNat ≤ 16777215) ∧
    (∀ r k : Fin 48, r ≤ k → m[r].toNat ≤ m[k].toNat) ∧ m[47].toNat ≤ 2 * m[0].toNat

/-- The gain law in effect and a pending one are sound (R63). -/
def State.lawsSound (s : State) : Prop :=
  lawSound s.tgu.glt ∧ ∀ p, s.tgu.pending = some p → lawSound p.table

/-- A preamp law whose entries lie in 0 to 511 and do not decrease (R86). -/
def plawSound (t : Vector LawEntry 64) : Prop :=
  (∀ k : Fin 64, t[k].toNat ≤ 511) ∧ ∀ k j : Fin 64, k ≤ j → t[k].toNat ≤ t[j].toNat

/-- Every channel's A is what its live values give under the preamp law and pad value in effect, which lie in their ranges
(R72, R86). -/
def State.gainsSound (s : State) : Prop :=
  plawSound s.hac.plt ∧ -255 ≤ s.hac.padValue ∧ s.hac.padValue ≤ 0 ∧
    ∀ i : Input, (s.channel i).gain =
      (s.hac.plt[(s.channel i).live.code].toNat : Int) + if (s.channel i).live.pad then s.hac.padValue else 0

/-- A tap at analogue gain `a`: its fields lie in their ranges (R35), and its target and limit flag are those of R36. -/
def Tap.sound (a : Int) (t : Tap) : Prop :=
  inTrim t.offset ∧ inTrim t.target ∧ inTrim t.current ∧
    match t.mode with
    | .follow => t.target = t.offset ∧ t.limit = false
    | .track n =>
      -2147483648 ≤ n ∧ n ≤ 2147483647 ∧
      t.target = (if t.offset + n - a < -320 then -320 else if 192 < t.offset + n - a then 192 else t.offset + n - a) ∧
      (t.limit = true ↔ ¬ inTrim (t.offset + n - a))

/-- R35, R36. -/
def State.tapsSound (s : State) : Prop := ∀ (f : Feed) (i : Input), (s.tap f i).sound (s.channel i).gain

/-- The power-on load has not ended (R161). -/
def State.poweringOn (s : State) : Prop :=
  s.sil.load = .loading .powerOn ∨ ∃ j, s.sil.load = .complete .powerOn j

/-- A channel has a queued entry exactly when its desired values differ from its last-sent values, and the entry then holds
the desired values (R73); a queue has no two entries of a channel (R78); W and K lie in their ranges (R79); nothing is
queued, in flight or scheduled before the power-on load ends (R91, R123). -/
def State.writesSound (s : State) : Prop :=
  (∀ g : Group, 1 ≤ s.hac.buses[g].spacing ∧ s.hac.buses[g].spacing ≤ 16 ∧ s.hac.buses[g].delay ≤ 63 ∧
    (s.hac.buses[g].queue.map (·.channel)).Nodup) ∧
  (∀ i : Input, s.queued i =
    if (s.channel i).desired = (s.channel i).lastSent then none
    else some { channel := placeOf i, value := (s.channel i).desired }) ∧
  (s.poweringOn → s.scu.scheduled = [] ∧ (∀ g : Group, s.hac.buses[g].queue = []) ∧
    ∀ i : Input, (s.channel i).inFlight = none)

/-- The values of an entry are those R109 allows. -/
def SceneEntry.sound (e : SceneEntry) : Prop :=
  match e.value with
  | .headAmp code pad phantom => ¬ (code = none ∧ pad = none ∧ phantom = none)
  | .trim x => inTrim x
  | .mute _ => True

/-- At most 24 entries, no two with the same key (R109). -/
def sceneSound (es : List SceneEntry) : Prop :=
  es.length ≤ 24 ∧ (es.Pairwise fun a b => a.sameKey b = false) ∧ ∀ e ∈ es, e.sound

/-- R109, R113, R114: the open scenes, the scheduled list in order of execution frame with distinct ids, and the id
counter. -/
def State.scenesSound (s : State) : Prop :=
  (∀ f es, s.openScene f = some es → sceneSound es) ∧
  s.scu.scheduled.length ≤ 4 ∧
  (∀ x ∈ s.scu.scheduled, sceneSound x.entries ∧ x.id ≠ 0 ∧ 0 ≤ lead x.frame s.ftu.frame ∧
    lead x.frame s.ftu.frame ≤ 16777215) ∧
  (s.scu.scheduled.Pairwise fun x y => lead x.frame s.ftu.frame ≤ lead y.frame s.ftu.frame ∧ x.id ≠ y.id) ∧
  s.scu.nextId ≠ 0

/-- A run count in its range (08_link_ports_and_redundant_feeds.md, "Port states"). -/
def LinkState.sound : LinkState → Prop
  | .down => True
  | .seek run => 1 ≤ run ∧ run ≤ 15
  | .up run => run ≤ 7

/-- R129, R131, R134: run counts are in range; a feed's control port is UP; a feed without a control port has no port UP,
nothing in its lane, no open scene and no meter subscription. -/
def State.feedsSound (s : State) : Prop :=
  (∀ p : Port, s.lnk.ports[p].state.sound) ∧
  ∀ f : Feed,
    match s.lnk.feeds[f].control with
    | some r => (s.linkAt f r).state.isUp = true
    | none =>
      (s.linkAt f .main).state.isUp = false ∧ (s.linkAt f .reserve).state.isUp = false ∧
      s.lane f = Lane.reset ∧ s.openScene f = none ∧ s.lmu.subscriptions[f] = none

/-- R9 to R13: the list holds one to four distinct sources; LOCKED names an available listed source, and the revert timer
runs for the revert candidate alone; in HOLDOVER, and in FREE outside the power-on load, no listed source is available;
each timer runs in its own state only. -/
def State.clockSound (s : State) : Prop :=
  1 ≤ s.ftu.sources.length ∧ s.ftu.sources.length ≤ 4 ∧ s.ftu.sources.Nodup ∧
  (s.sil.load = .loading .powerOn → s.ftu.clock = .free) ∧
  match s.ftu.clock with
  | .locked c =>
    c ∈ s.ftu.sources ∧ s.available c = true ∧ s.ftu.holdoverTimer = none ∧
    s.ftu.revertTimer.map (·.1) = s.ftu.candidate s.available c
  | .holdover =>
    s.ftu.holdoverTimer.isSome = true ∧ s.ftu.revertTimer = none ∧ ∀ c ∈ s.ftu.sources, s.available c = false
  | .free =>
    s.ftu.holdoverTimer = none ∧ s.ftu.revertTimer = none ∧
    (s.sil.load ≠ .loading .powerOn → ∀ c ∈ s.ftu.sources, s.available c = false)

/-- A clip record in its ranges (R156). -/
def Clip.sound (c : Clip) : Prop :=
  1 ≤ c.threshold ∧ c.threshold ≤ 8388607 ∧ c.rearm ≤ c.threshold ∧ c.magnitude ≤ 8388607 ∧ c.count ≤ 255 ∧
    (c.state = .captured → c.mode = .oneShot) ∧ (c.state = .waitRearm → c.mode = .cyclic)

/-- A subscription in its ranges at frame `n` (R153): 1 to 48 distinct inputs, a period of at least one unit, a period end
frame at most one period ahead, accumulators within a magnitude. -/
def Subscription.sound (n : FrameNo) (u : Subscription) : Prop :=
  u.period ≠ 0 ∧ 1 ≤ u.peaks.length ∧ u.peaks.length ≤ 48 ∧ (u.peaks.map (·.1)).Nodup ∧
    (∀ p ∈ u.peaks, p.2 ≤ 8388607) ∧ 0 ≤ lead u.ends n ∧ lead u.ends n ≤ u.period.toNat * 256

/-- R153, R156. -/
def State.metersSound (s : State) : Prop :=
  (∀ i : Input, s.lmu.clips[i].sound) ∧ ∀ (f : Feed) u, s.lmu.subscriptions[f] = some u → u.sound s.ftu.frame

/-- A window in the ranges of R18. -/
def Window.sound : Window → Prop
  | .input first count order => 1 ≤ count ∧ first + count ≤ 48 ∧ (order = .interleaved → count % 2 = 0)
  | .silence count => 1 ≤ count ∧ count ≤ 64
  | .pattern count => 1 ≤ count ∧ count ≤ 64

/-- A held map at a rate mode: at most eight windows in range, and the slots of their expansion within the capacity
(R18, R22). -/
def SlotMap.sound (rate : Rate) (m : SlotMap) : Prop :=
  m.windows.length ≤ 8 ∧ (∀ w ∈ m.windows, w.sound) ∧
    m.slots = (m.windows.flatMap Window.expand).take (match rate with | .k48 => 64 | .k96 => 32)

/-- R18, R22, R25. -/
def State.mapsSound (s : State) : Prop :=
  ∀ f : Feed, s.smu.maps[f].inForce.sound s.ftu.rate ∧
    ∀ p, s.smu.maps[f].pending = some p → p.map.sound s.ftu.rate

/-- Settings that every chapter's ranges allow (R9, R18, R35, R63, R79, R86, R156). -/
def Settings.sound (x : Settings) : Prop :=
  1 ≤ x.sources.length ∧ x.sources.length ≤ 4 ∧ x.sources.Nodup ∧
  (∀ g : Group, 1 ≤ x.spacing[g] ∧ x.spacing[g] ≤ 16 ∧ x.delay[g] ≤ 63) ∧
  -255 ≤ x.padValue ∧ x.padValue ≤ 0 ∧
  (∀ i : Input, 1 ≤ x.clips[i].threshold ∧ x.clips[i].threshold ≤ 8388607 ∧ x.clips[i].rearm ≤ x.clips[i].threshold) ∧
  lawSound x.glt ∧ plawSound x.plt ∧
  (∀ f : Feed, x.windows[f].length ≤ 8 ∧ ∀ w ∈ x.windows[f], w.sound) ∧
  ∀ (f : Feed) (i : Input), inTrim x.taps[f][i].offset

end Sys2Proof.Machine
end

