-- ==== Sys2Proof/Certificates/Slice0/Obligations.lean ====
section
/-! DEFINITION. The statements for the provers. In each, `u` is the state at the execution of a request: the frame step,
and samples of the frame in progress have been taken (R39, R154), and its period ends too (the model's choice, log entry 1), and
the round has gone on to the request's feed. That a request given as a command is considered at once, by a round that goes on to its feed, is the model's choice (log
entry 4). -/

open Sys2Proof Sys2Proof.Machine

/-! ### The queue of commands, reset, time -/

/-- One step takes the command at the front of the queue and leaves the queue's rest; on an empty queue the part idles (the
model's choice, log entry 3). -/
def Obligations.StepRunsFrontCommand : Prop :=
  (∀ (c : Instr) (rest : List Instr) (s : State), s.pending = c :: rest → step s = exec c { s with pending := rest }) ∧
  ∀ s : State, s.pending = [] → step s = .next s

/-- RESET: every block takes the values its chapter gives for power-on (R1, R3, R5, R16, R28, R55, R70, R91, R107, R123,
R137, R151, R155, R160, R164). The EEPROM keeps its bytes, but a save that was under way is cut short after some number of
its writes (R166; a free value, log entries 11 and 27), and the waiting commands stay (the model's choice, log entry 15). What no rule gives a value is the model's choice (log entry 14): samples and
output samples are 0, no preamp word and no downstream frame has been sent, and all marks of the model are clear. -/
def Obligations.ResetGivesPowerOnValues : Prop :=
  ∀ s : State, ∃ t, exec .reset s = .next t ∧
    t.ftu = { frame := 0, rate := .k48, sources := [.feed 0, .internal], revertDelay := 188, holdoverLimit := 2813,
              clock := .free, holdoverTimer := none, revertTimer := none, wordclock := false } ∧
    (∀ g : Group, t.cvp.ports[g] = { state := .fault, goodRun := 0, judged := false }) ∧
    (∀ i : Input, t.cvp.samples[i] = 0 ∧ ∀ f : Feed, t.tgu.out[f][i] = 0) ∧
    (∀ f : Feed, t.smu.maps[f] = { inForce := { windows := [], slots := [] }, pending := none }) ∧
    (∀ (f : Feed) (i : Input), t.tap f i =
      { mode := .follow, offset := 0, target := 0, current := 0, mute := false, limit := false }) ∧
    (∀ f : Feed, t.tgu.glide[f] = 2) ∧ t.tgu.glt = builtinGlt ∧ t.tgu.staging = builtinGlt ∧ t.tgu.pending = none ∧
    (∀ b : Fin 4, t.tgu.marks[b] = false ∧ t.hac.marks[b] = false) ∧
    (∀ i : Input, t.channel i =
      { desired := { code := 0, pad := false, phantom := false }, inFlight := none,
        live := { code := 0, pad := false, phantom := false }, gain := 0, settle := .held, owner := none }) ∧
    (∀ g : Group, t.hac.buses[g] = { queue := [], spacing := 4, delay := 12, word := none, taken := false }) ∧
    t.hac.padSettle = 96 ∧ t.hac.phantomSettle = 188 ∧ t.hac.padValue = -160 ∧
    (∀ i : Input, t.hac.landed[i] = false) ∧
    (∀ k : Fin 64, t.hac.plt[k].toNat = 8 * k.val ∧ t.hac.staging[k].toNat = 8 * k.val) ∧
    (∀ f : Feed, t.openScene f = none) ∧ t.scu.scheduled = [] ∧ t.scu.nextId = 1 ∧
    (∀ p : Port, t.lnk.ports[p] = { state := .down, judged := false, held := false, sent := [] }) ∧
    (∀ f : Feed, t.lnk.feeds[f] = { control := none, resync := false, cameOnline := false }) ∧
    (∀ f : Feed, t.lane f =
      { assembler := .waitSom, requests := [], arriving := none, responses := [], notices := [], serialiser := .idle }) ∧
    t.cle.supervisor = 0 ∧ t.cle.pointer = 0 ∧ t.cle.left = none ∧
    (∀ f : Feed, t.lmu.subscriptions[f] = none) ∧
    (∀ i : Input, t.lmu.clips[i] =
      { mode := .off, threshold := 8000000, rearm := 4000000, state := .armed, frame := 0, code := 0, pad := false,
        magnitude := 0, count := 0 }) ∧
    t.sil.load = .loading .powerOn ∧ t.sil.saving = none ∧ t.sil.defaults = false ∧
    (s.sil.saving = none → t.sil.eeprom = s.sil.eeprom) ∧
    (∀ sections, s.sil.saving = some sections →
      (∃ written, leftByStop written sections s.sil.eeprom t.sil.eeprom) ∧ judgeBytes t.sil.eeprom = .invalid) ∧
    t.stepped = false ∧ t.pending = s.pending

/-- FRAME_TICK. What it takes of the frame in progress: before the frame step, due settle mute ends, maps and law, the
converter ports that received nothing, and the effective events; after the samples the meter period ends; then the round;
then the requests that waited for the round, the link ports that received nothing, the two timers, the due scenes and the
send opportunities (R2, R4, R128, R145; that what no command took is taken now, and in this order, is the model's choice, log
entries 1, 2, 6, 8 and 16). After all these (state `w`), every port sends its downstream frame and every serialiser has placed
its bytes; the counter advances by one; the marks of the frame are clear; and, but in the frame of a load's completion,
nothing else moves (R1, R124, R148). -/
def Obligations.FrameTickCompletesFrame : Prop :=
  (∀ s : State, s.stepped = false →
    beforeStep s =
      (List.finRange 48).foldl (fun x i => runAll [.effectiveEvent i] x)
        ((List.finRange 6).foldl (fun x g => if x.cvp.ports[g].judged then x else runAll [.converterFrame g none] x)
          (runAll ((List.finRange 48).map Instr.settleMuteEnd ++ (List.finRange 4).map Instr.pendingMapInForce ++
            [.pendingLawInEffect]) s))) ∧
  ∀ s : State,
    beforeRequests s = runAll [.meterPeriodEnd 0, .meterPeriodEnd 1, .meterPeriodEnd 2, .meterPeriodEnd 3] (openFrame s) ∧
    let v := round (beforeRequests s)
    let joined (l : Lane) : Lane :=
      match l.arriving with
      | none => l
      | some m =>
        if l.requests.length < 8 then { l with arriving := none, requests := l.requests ++ [m] }
        else if l.responses.length < 8 then
          { l with arriving := none, responses := l.responses ++ [{ m with params := [10] }] }
        else { l with arriving := none }
    let late : State := { v with cle := { v.cle with lanes := tab fun f => joined (v.lane f) } }
    frameEvents s =
      runAll ([.revertTimerExpiry, .holdoverTimerExpiry] ++ List.replicate 4 .sceneExecution ++
          (List.finRange 6).map Instr.busSendOpportunity)
        ((List.finRange 8).foldl (fun x p => if x.lnk.ports[p].judged then x else runAll [.upstreamFrame p [] false] x)
          late) ∧
    ∃ t, exec .frameTick s = .next t ∧
      let w := frameEvents s
      t.ftu = { w.ftu with frame := s.ftu.frame + 1, rate := t.ftu.rate } ∧
      (∀ p : Port, t.lnk.ports[p] = { w.lnk.ports[p] with
        judged := false, held := false, sent := w.downstream (feedOf p) (roleOf p) }) ∧
      (∀ f : Feed, t.lnk.feeds[f] = { w.lnk.feeds[f] with cameOnline := false }) ∧
      t.cle =
        { lanes := tab fun f => (w.lane f).advance, supervisor := t.cle.supervisor, pointer := w.cle.pointer, left := none } ∧
      (∀ g : Group, t.cvp.ports[g] = { w.cvp.ports[g] with judged := false }) ∧ t.cvp.samples = w.cvp.samples ∧
      t.scu = w.scu ∧ t.lmu.subscriptions = w.lmu.subscriptions ∧ t.stepped = false ∧ t.pending = s.pending ∧
      (∀ i : Input, t.hac.landed[i] = false) ∧ (∀ g : Group, t.hac.buses[g].taken = false) ∧
      ((∀ kind j, s.sil.load ≠ .complete kind j) →
        t.ftu.rate = w.ftu.rate ∧ t.smu = w.smu ∧ t.tgu = w.tgu ∧
        t.hac =
          { w.hac with buses := tab fun g => { w.hac.buses[g] with taken := false }, landed := tab fun _ => false } ∧
        t.lmu.clips = w.lmu.clips ∧ t.cle.supervisor = w.cle.supervisor ∧ t.sil = w.sil)

/-! ### The audio path -/

/-- The downstream frame of a feed (R124 to R127): sync word, frame number, slot count, flags, the slots in map order, control
bytes and CRC; its length; the CRC-8 over header and control bytes; and the frames of a feed's two ports differ in the role
bit and the CRC alone. (The sample of a slot is the next statement's.) -/
def Obligations.DownstreamFrameLayout : Prop :=
  ∀ (s : State) (f : Feed), (s.slotMap f).slots.length ≤ 64 → ∀ r : Role,
    let b := s.downstream f r
    let n := (s.slotMap f).slots.length
    b.length = 14 + 3 * n ∧
    b.take 2 = [0xA9, 0x1E] ∧ ofBe ((b.drop 2).take 4) = s.ftu.frame.toNat ∧ (b.getD 6 0).toNat = n ∧
    (b.getD 7 0).getLsbD 7 = s.loading ∧ (b.getD 7 0).getLsbD 6 = s.lnk.feeds[f].resync ∧
    (b.getD 7 0).getLsbD 5 = s.sil.defaults ∧ (b.getD 7 0).getLsbD 4 = (s.lane f).chunk.som ∧
    (b.getD 7 0).toNat % 16 = (s.lane f).chunk.bytes.length ∧
    (b.getD 8 0).toNat = 64 * s.ftu.clock.byte.toNat + 16 * f.val + (if r = .main then 0 else 8) ∧
    (∀ k : Nat, (h : k < n) → (b.drop (9 + 3 * k)).take 3 = be 3 (s.slotSample f (s.slotMap f).slots[k]).toNat) ∧
    (b.drop (9 + 3 * n)).take 4 =
      (s.lane f).chunk.bytes ++ List.replicate (4 - (s.lane f).chunk.bytes.length) 0 ∧
    b.getD (13 + 3 * n) 0 = crc8 ((b.drop 2).take 7 ++ (b.drop (9 + 3 * n)).take 4) ∧
    (∀ k : Nat, k < 13 + 3 * n → k ≠ 8 → b.getD k 0 = (s.downstream f r.other).getD k 0)

/-- The samples of the slots. SILENCE and PATTERN (R62): 0, and the frame number modulo 2^24 read as a sample, and 0 while
LOADING; nothing but the frame number and the load state enters. INPUT (R17, R161): the output sample that the frame step
formed for the feed's tap of that input (R58, the next statement), and 0 while LOADING. -/
def Obligations.SilenceAndPatternSlots : Prop :=
  ∀ (s : State) (f : Feed),
    s.slotSample f .silence = 0 ∧
    ((s.slotSample f .pattern).toInt =
      if s.sil.load ≠ .ready then 0
      else
        let n : Int := (s.ftu.frame.toNat % 16777216 : Nat)
        if n ≤ 8388607 then n else n - 16777216) ∧
    ∀ i : Input, s.slotSample f (.input i) = if s.sil.load ≠ .ready then 0 else s.tgu.out[f][i]

/-- The frame step and the samples of the frame (R38, R40, R58, R154, R156, R157), taken once in a frame: with `w` the state
once the frame's settle mute ends, maps, law, converter outcomes and effective events are taken, every tap's current moves
toward its target by the smaller of the distance and G (all the way when G is 0), the rest of the tap is as in `w`, and the
output sample is 0 when the tap is muted, the channel is under settle mute or its converter port is in FAULT, and otherwise
the sample at that current. Every accumulator keeps the larger of its value and the magnitude of its input's sample (0 in
FAULT). An ARMED clip record that is not OFF captures at or above its threshold: frame, live code, live pad, magnitude,
count; and WAIT_REARM ends below the re-arm level. Each capture hands a CLIP notice to every ONLINE feed that carries the
input (those of one frame in input order, the model's choice, log entry 16). Nothing else changes. -/
def Obligations.FrameStepGlidesTaps : Prop :=
  ∀ s : State, s.stepped = false →
    let w := beforeStep s
    let t := openFrame s
    (∀ (f : Feed) (i : Input),
      let old := w.tap f i
      let new := t.tap f i
      let g : Nat := (w.tgu.glide[f] : Fin 16).val
      new = { old with current := new.current } ∧
      (old.target - new.current).natAbs = (if g = 0 then 0 else (old.target - old.current).natAbs - g) ∧
      (new.current - old.current).natAbs + (old.target - new.current).natAbs = (old.target - old.current).natAbs ∧
      t.tgu.out[f][i] =
        (if old.mute = true ∨ w.cvp.ports[groupOf i].state = .fault ∨ (w.channel i).settle = .held ∨
            (∃ x, (w.channel i).settle = .ends x ∧ 0 ≤ lead x w.ftu.frame) then 0
          else BitVec.ofInt 24 (outputValue (w.tgu.law w.ftu.frame) w.cvp.samples[i].toInt new.current))) ∧
    openFrame t = t ∧
    let level (i : Input) : Nat :=
      if w.cvp.ports[groupOf i].state = .fault then 0
      else if 8388607 < w.cvp.samples[i].toInt.natAbs then 8388607
      else w.cvp.samples[i].toInt.natAbs
    let captures (i : Input) : Prop :=
      w.lmu.clips[i].mode ≠ .off ∧ w.lmu.clips[i].state = .armed ∧ w.lmu.clips[i].threshold ≤ level i
    let clip (i : Input) : Clip :=
      let c := w.lmu.clips[i]
      if captures i then
        { c with
          state := match c.mode with
            | .oneShot => .captured
            | _ => .waitRearm
          frame := s.ftu.frame, code := (w.channel i).live.code, pad := (w.channel i).live.pad, magnitude := level i
          count := if c.count < 255 then c.count + 1 else 255 }
      else if c.mode ≠ .off ∧ c.state = .waitRearm ∧ level i < c.rearm then { c with state := .armed }
      else c
    t = told (fun g => ((List.finRange 48).filter fun i => decide (captures i ∧ w.carries g i = true)).map fun i =>
          .clip i (clip i).frame (clip i).code (clip i).pad (clip i).magnitude (clip i).count)
        { w with
          tgu := { w.tgu with taps := t.tgu.taps, out := t.tgu.out }
          lmu :=
            { subscriptions := tab fun f =>
                match w.lmu.subscriptions[f] with
                | none => none
                | some u => some { u with peaks := u.peaks.map fun (i, m) => (i, if m < level i then level i else m) }
              clips := tab clip }
          stepped := true }

/-- The coefficient arithmetic (R59 to R61) for every trim T in −320 to +192 and every sample: q = floor(T / 48) lies in −7
to +4, r in 0 to 47 (16 to 47 when q is −7, 0 when q is 4); the product is below 2^47 in magnitude; y is the quotient by
2^(23 − q) rounded to the nearest integer, halves upward; and the output is y saturated to the sample range. -/
def Obligations.OutputSampleArithmetic : Prop :=
  ∀ (m : Vector Mantissa 48) (x : Sample) (t : Int), -320 ≤ t → t ≤ 192 →
    ∃ (q : Int) (r : Fin 48) (h : Nat) (y : Int),
      t = 48 * q + r.val ∧ -7 ≤ q ∧ q ≤ 4 ∧ (q = -7 → 16 ≤ r.val) ∧ (q = 4 → r.val = 0) ∧
      (h : Int) = 23 - q ∧ 19 ≤ h ∧ h ≤ 30 ∧
      (x.toInt * (m[r].toNat : Int)).natAbs < 2 ^ 47 ∧
      2 ^ h * y ≤ x.toInt * (m[r].toNat : Int) + 2 ^ (h - 1) ∧
      x.toInt * (m[r].toNat : Int) + 2 ^ (h - 1) < 2 ^ h * (y + 1) ∧
      (0 ≤ x.toInt → 0 ≤ y) ∧ (x.toInt ≤ 0 → y ≤ 0) ∧
      (t = 0 → m[(0 : Fin 48)].toNat = 8388608 → y = x.toInt) ∧
      (outputSample m x t).toInt = (if 8388607 < y then 8388607 else if y < -8388608 then -8388608 else y)

/-- Under every gain law that passes the checks of R66, the magnitude of an output never falls as the trim rises. -/
def Obligations.OutputMagnitudeNeverFalls : Prop :=
  ∀ m : Vector Mantissa 48, lawSound m → ∀ (x : Sample) (t v : Int), -320 ≤ t → t ≤ v → v ≤ 192 →
    (outputSample m x t).toInt.natAbs ≤ (outputSample m x v).toInt.natAbs

/-- The built-in gain law (R64): M[r] is the integer nearest to 2^23 × 2^(r/48), written with 48th powers; it passes the
checks of R66 and is the law in effect at power-on and under built-in defaults. -/
def Obligations.BuiltInGainLaw : Prop :=
  (∀ r : Fin 48, (2 * builtinGlt[r].toNat - 1) ^ 48 < 2 ^ (24 * 48 + r.val) ∧
    2 ^ (24 * 48 + r.val) < (2 * builtinGlt[r].toNat + 1) ^ 48) ∧
  builtinGlt[0].toNat = 8388608 ∧ builtinGlt[24].toNat = 11863283 ∧
  builtinGlt[47].toNat < 2 * builtinGlt[0].toNat ∧ lawSound builtinGlt ∧
  State.reset.tgu.glt = builtinGlt ∧ Judgement.invalid.settings.glt = builtinGlt

/-- Both CRCs taken bit by bit, most significant bit first: each bit shifts the remainder and, when the bit shifted out
differs from the message's, adds the polynomial (R127: x^8 + x^2 + x + 1 from 0; R140: x^16 + x^12 + x^5 + 1 from
0xFFFF). -/
def Obligations.CrcsDivideBitByBit : Prop :=
  ∀ bytes : List Byte,
    let bits := bytes.flatMap fun b => (List.range 8).map fun k => b.getLsbD (7 - k)
    crc8 bytes = bits.foldl (fun (c : BitVec 8) b => if c.msb != b then (c <<< 1) ^^^ 0x07#8 else c <<< 1) 0 ∧
    crc16 bytes =
      bits.foldl (fun (c : BitVec 16) b => if c.msb != b then (c <<< 1) ^^^ 0x1021#16 else c <<< 1) 0xFFFF#16

/-! ### Converter ports and link ports -/

/-- CONVERTER_FRAME (R4, R5, R7): a frame of exactly eight words with channel indices 0 to 7 in order is good, any other and
none at all is not; the port takes the outcome; a good frame supplies the samples of the port's inputs; and a change of
state hands an INPUT notice to every ONLINE feed that carries one of them. -/
def Obligations.ConverterFrameDrivesPort : Prop :=
  ∀ (s : State) (g : Group) (received : Option (List (Nat × Sample))),
    let good : Bool := match received with
      | some words => decide (words.map (·.1) = [0, 1, 2, 3, 4, 5, 6, 7])
      | none => false
    let old := s.cvp.ports[g]
    let new : ConverterPort :=
      if good then
        if old.state = .running then { old with judged := true }
        else if 4 ≤ old.goodRun + 1 then { state := .running, goodRun := 0, judged := true }
        else { state := .fault, goodRun := old.goodRun + 1, judged := true }
      else { state := .fault, goodRun := 0, judged := true }
    exec (.converterFrame g received) s = .next
      (told (toFeeds (fun f => decide (new.state ≠ old.state ∧ ∃ j : Fin 8, s.carries f (inputAt g j) = true))
          (.input g new.state s.ftu.frame))
        { s with cvp :=
          { ports := tab fun h => if h = g then new else s.cvp.ports[h]
            samples := tab fun i =>
              if groupOf i = g then
                if good then (((received.getD []).map (·.2)).getD (placeOf i).val 0) else 0
              else s.cvp.samples[i] } })

/-- UPSTREAM_FRAME (R128, R129): what a port received is good when exactly one frame began, all its bytes came, its CRC-8
matches and its count is at most 4; the port's state machine takes the outcome, and only the blocks that a port change
reaches can move. A bad outcome waits, the port's state staying, when it would take the port DOWN and the other port's outcome
of the frame, still to come, bears on what that brings: it may leave the other port UP to take control over (R132), or take
the control port DOWN too (R133). Nothing else changes then. It is taken with the other port's outcome. (The waiting is
DEDUCED, log entry 9.) -/
def Obligations.UpstreamFrameDrivesPort : Prop :=
  ∀ (s : State) (p : Port) (received : List (List Byte)) (late : Bool),
    let f := feedOf p
    let r := roleOf p
    let q := portOf f r.other
    let good : Bool := match received with
      | [flags :: c0 :: c1 :: c2 :: c3 :: crc :: _] =>
        decide (crc8 [flags, c0, c1, c2, c3] = crc ∧ (flags &&& 7).toNat ≤ 4)
      | _ => false
    let next (good : Bool) (x : LinkState) : LinkState := match x with
      | .down => if good then .seek 1 else .down
      | .seek run => if good then if run + 1 < 16 then .seek (run + 1) else .up 0 else .down
      | .up run => if good then .up 0 else if run + 1 < 8 then .up (run + 1) else .down
    let waits : Prop :=
      good = false ∧ (∃ run, 7 ≤ run ∧ s.lnk.ports[p].state = .up run) ∧ s.lnk.ports[q].judged = false ∧
        if s.lnk.feeds[f].control = some r then
          (∃ run, s.lnk.ports[q].state = .up run) ∨ ∃ run, 15 ≤ run ∧ s.lnk.ports[q].state = .seek run
        else ∃ run, 7 ≤ run ∧ s.lnk.ports[q].state = .up run
    (waits → exec (.upstreamFrame p received late) s = .next
      { s with lnk := { s.lnk with ports := tab fun k =>
        if k = p then { s.lnk.ports[p] with judged := true, held := true } else s.lnk.ports[k] } }) ∧
    (¬ waits → ∃ t, exec (.upstreamFrame p received late) s = .next t ∧
      onlyBlocks [.ftu, .scu, .lnk, .cle, .lmu] s t ∧
      t.lnk.ports = tab fun k =>
        if k = p then { s.lnk.ports[p] with state := next good s.lnk.ports[p].state, judged := true, held := false }
        else if k = q ∧ s.lnk.ports[q].held = true then
          { s.lnk.ports[q] with state := next false s.lnk.ports[q].state, judged := true, held := false }
        else s.lnk.ports[k])

/-- UPSTREAM_FRAME (R130, R141, R142): a good frame on the control port, UP before its outcome, delivers the SOM flag and
the first count control bytes to the feed's assembler, and a frame on a port that is UP and is not the control port
delivers nothing; nothing else moves but the bad run. A good frame in DOWN or in SEEK, and a bad frame, deliver nothing:
nothing moves but the port. (All while no outcome of the feed's other port waits; for the frame that takes a port UP, or from
UP to DOWN, see FeedRecordFollowsPorts.) What a lane does with a delivery of at most four bytes (R141, R142, R144): in WAIT_SOM
one without SOM is discarded; one with SOM starts a message, in either state, when its first byte is a length from 4 to 63, and
otherwise leaves WAIT_SOM; without SOM it adds bytes up to the number expected, and the rest is padding; a complete message
leaves WAIT_SOM, and when its last two bytes are the CRC-16 of the others it is a request: it joins the request queue, or is
answered QUEUE_FULL, or dropped, or, when it is to join after the round, it waits in the slot arriving, which an earlier one
then leaves for the queue (log entry 8). -/
def Obligations.ControlBytesReachAssembler : Prop :=
  (∀ (s : State) (p : Port) (flags c0 c1 c2 c3 crc : Byte) (late : Bool) (run : Nat),
    let f := feedOf p
    let r := roleOf p
    s.lnk.ports[p].state = .up run → (s.linkAt f r.other).held = false →
    crc8 [flags, c0, c1, c2, c3] = crc → (flags &&& 7).toNat ≤ 4 →
    exec (.upstreamFrame p [[flags, c0, c1, c2, c3, crc]] late) s = .next
      { s with
        lnk :=
          { s.lnk with
            ports := tab fun q =>
              if q = p then { s.lnk.ports[p] with state := .up 0, judged := true, held := false } else s.lnk.ports[q] }
        cle :=
          { s.cle with
            lanes := tab fun g =>
              if g = f ∧ s.lnk.feeds[f].control = some r then
                (s.lane g).deliver late (flags.getLsbD 4) ([c0, c1, c2, c3].take (flags &&& 7).toNat)
              else s.lane g } }) ∧
  (∀ (s : State) (p : Port) (received : List (List Byte)) (late : Bool),
    (s.linkAt (feedOf p) (roleOf p).other).held = false →
    let only (x : LinkState) : Prop :=
      exec (.upstreamFrame p received late) s = .next
        { s with lnk := { s.lnk with ports := tab fun q =>
          if q = p then { s.lnk.ports[p] with state := x, judged := true, held := false } else s.lnk.ports[q] } }
    (judgeUpstream received ≠ .bad →
      (s.lnk.ports[p].state = .down → only (.seek 1)) ∧
      ∀ run, s.lnk.ports[p].state = .seek run → run < 15 → only (.seek (run + 1))) ∧
    (judgeUpstream received = .bad →
      (s.lnk.ports[p].state = .down → only .down) ∧
      (∀ run, s.lnk.ports[p].state = .seek run → only .down) ∧
      ∀ run, s.lnk.ports[p].state = .up run → run < 7 → only (.up (run + 1)))) ∧
  ∀ (l : Lane) (late som : Bool) (bytes : List Byte), bytes.length ≤ 4 →
    let length := (bytes.getD 0 0).toNat
    let waiting : Lane := { l with assembler := .waitSom }
    let joined (m : Message) (x : Lane) : Lane :=
      if x.requests.length < 8 then { x with requests := x.requests ++ [m] }
      else if x.responses.length < 8 then { x with responses := x.responses ++ [{ m with params := [10] }] }
      else x
    let settled : Lane := match l.arriving with
      | none => waiting
      | some m => { joined m waiting with arriving := none }
    (som = true →
      l.deliver late som bytes =
        if bytes = [] ∨ length < 4 ∨ 63 < length then waiting
        else { l with assembler := .collecting bytes (length - (bytes.length - 1)) }) ∧
    (som = false → l.assembler = .waitSom → l.deliver late som bytes = l) ∧
    ∀ got expected, som = false → l.assembler = .collecting got expected →
      (bytes.length < expected →
        l.deliver late som bytes = { l with assembler := .collecting (got ++ bytes) (expected - bytes.length) }) ∧
      (expected ≤ bytes.length →
        let message := got ++ bytes.take expected
        let covered := message.take (message.length - 2)
        let crc := message.drop (message.length - 2)
        (crc ≠ be 2 (crc16 covered).toNat → l.deliver late som bytes = waiting) ∧
        ∀ first tag kind params, covered = first :: tag :: kind :: params → crc = be 2 (crc16 covered).toNat →
          l.deliver late som bytes =
            if late then { settled with arriving := some { tag := tag, kind := kind, params := params } }
            else joined { tag := tag, kind := kind, params := params } settled)

/-- UPSTREAM_FRAME (R130 to R134). The sixteenth good frame on a port of an OFFLINE feed takes the feed ONLINE with that port as
control port, RESYNC set and the assembler in WAIT_SOM, and the clock hears that its source came (R8, R11, R12; during the
power-on load it is only noted, R16). On a port of an ONLINE feed it makes a standby, but for the main port in the frame in
which the reserve port took the feed ONLINE: control moves to it. The eighth bad frame on the control port moves control to
the other port when that is UP after the frame, with the assembler reset and the rest of the conversation kept, and otherwise
takes the feed OFFLINE: lane, open scene and subscription are gone, RESYNC stays, and the clock hears that the source went
(R10, R11); on the other port it leaves the feed record. None of these frames delivers bytes (R130). (While no outcome of the
feed's other port waits or is waited for: log entry 9.) And in states whose feeds are sound, the two ports' outcomes of one
frame end alike in either order (R131 to R133). -/
def Obligations.FeedRecordFollowsPorts : Prop :=
  (∀ (s : State) (p : Port) (received : List (List Byte)) (late : Bool) (run : Nat),
    let f := feedOf p
    let r := roleOf p
    let other := s.linkAt f r.other
    let port (x : LinkState) (u : State) : State :=
      { u with lnk := { u.lnk with ports := tab fun q =>
        if q = p then { u.lnk.ports[p] with state := x, judged := true, held := false } else u.lnk.ports[q] } }
    let record (x : FeedRecord) (l : Lane) (u : State) : State :=
      { u with
        lnk := { u.lnk with feeds := tab fun g => if g = f then x else u.lnk.feeds[g] }
        cle := { u.cle with lanes := tab fun g => if g = f then l else u.lane g } }
    let clock (change : Ftu → Ftu) (u : State) : State :=
      if u.sil.load = .loading .powerOn then u
      else
        told (toFeeds (fun _ => decide ((change u.ftu).clock ≠ u.ftu.clock)) (.clock (change u.ftu).clock u.ftu.frame))
          { u with ftu := change u.ftu }
    let came (u : State) : State := clock (fun x =>
      match x.clock with
      | .locked _ => x.applyRevert u.available
      | _ => if .feed f ∈ x.sources then { x with clock := .locked (.feed f), holdoverTimer := none } else x) u
    let gone (u : State) : State := clock (fun x =>
      match x.clock with
      | .locked c => if c = .feed f then x.leaveLock u.available else x.applyRevert u.available
      | _ => x) u
    let waiting : Lane := { s.lane f with assembler := .waitSom }
    other.held = false →
    (s.lnk.ports[p].state = .seek run → 15 ≤ run → judgeUpstream received ≠ .bad →
      (s.lnk.feeds[f].control = none →
        exec (.upstreamFrame p received late) s = .next
          (came (record { control := some r, resync := true, cameOnline := true } waiting (port (.up 0) s)))) ∧
      (s.lnk.feeds[f].control ≠ none →
        exec (.upstreamFrame p received late) s = .next
          (if s.lnk.feeds[f] = { s.lnk.feeds[f] with control := some .reserve, cameOnline := true } ∧ r = .main then
            record { s.lnk.feeds[f] with control := some .main } waiting (port (.up 0) s)
          else port (.up 0) s))) ∧
    (s.lnk.ports[p].state = .up run → 7 ≤ run → judgeUpstream received = .bad →
      (s.lnk.feeds[f].control = some r → other.judged = true → (∃ n, other.state = .up n) →
        exec (.upstreamFrame p received late) s = .next
          (record { s.lnk.feeds[f] with control := some r.other } waiting (port .down s))) ∧
      (s.lnk.feeds[f].control = some r → (∀ n, other.state ≠ .up n) →
        (other.judged = true ∨ ∀ n, other.state = .seek n → n < 15) →
        exec (.upstreamFrame p received late) s = .next
          (gone
            { record { s.lnk.feeds[f] with control := none } Lane.reset (port .down s) with
              scu := { s.scu with opened := tab fun g => if g = f then none else s.openScene g }
              lmu := { s.lmu with subscriptions := tab fun g => if g = f then none else s.lmu.subscriptions[g] } })) ∧
      (s.lnk.feeds[f].control ≠ some r → (other.judged = true ∨ ∀ n, other.state = .up n → n < 7) →
        exec (.upstreamFrame p received late) s = .next (port .down s)))) ∧
  ∀ (s : State) (f : Feed) (a b : List (List Byte)) (x y : Bool),
    s.feedsSound → s.lnk.feeds[f].cameOnline = false →
    (∀ r : Role, (s.linkAt f r).judged = false ∧ (s.linkAt f r).held = false) →
    runAll [.upstreamFrame (portOf f .main) a x, .upstreamFrame (portOf f .reserve) b y] s =
      runAll [.upstreamFrame (portOf f .reserve) b y, .upstreamFrame (portOf f .main) a x] s

/-! ### The sample clock -/

/-- The revert rule and the evaluation of the list (R10, R11, R13), with `a` the availability of the sources: LOCKED keeps a
listed available source, with the revert timer left for an unchanged candidate, restarted for a new one, stopped for none,
or the switch made at once when the revert delay is 0; LOCKED without its source, HOLDOVER and FREE take the highest listed
available source; without one, LOCKED goes to HOLDOVER with its timer (to FREE when the limit is 0), and HOLDOVER and FREE
stay. -/
def Obligations.ClockListEvaluation : Prop :=
  ∀ (u : Ftu) (a : ClockSource → Bool),
    (∀ c, u.clock = .locked c →
      u.applyRevert a =
        match (u.sources.takeWhile fun x => decide (x ≠ c)).find? a with
        | none => { u with revertTimer := none }
        | some d =>
          if u.revertTimer.map (·.1) = some d then u
          else if u.revertDelay = 0 then { u with clock := .locked d, revertTimer := none }
          else { u with revertTimer := some (d, u.frame + BitVec.ofNat 32 (u.revertDelay.toNat * 256)) }) ∧
    u.leaveLock a =
      (match u.sources.find? a with
      | some b => { u with clock := .locked b, revertTimer := none }
      | none =>
        if u.holdoverLimit = 0 then { u with clock := .free, revertTimer := none }
        else { u with
          clock := .holdover, revertTimer := none
          holdoverTimer := some (u.frame + BitVec.ofNat 32 (u.holdoverLimit.toNat * 256)) }) ∧
    u.evaluate a =
      match u.clock with
      | .locked c =>
        if c ∈ u.sources ∧ a c = true then u.applyRevert a
        else
          match u.sources.find? a with
          | some b => { u with clock := .locked b, revertTimer := none }
          | none =>
            if u.holdoverLimit = 0 then { u with clock := .free, revertTimer := none }
            else { u with
              clock := .holdover, revertTimer := none
              holdoverTimer := some (u.frame + BitVec.ofNat 32 (u.holdoverLimit.toNat * 256)) }
      | _ =>
        match u.sources.find? a with
        | some b => { u with clock := .locked b, holdoverTimer := none }
        | none => u

/-- WORDCLOCK_PRESENT, WORDCLOCK_ABSENT, REVERT_TIMER_EXPIRY, HOLDOVER_TIMER_EXPIRY (R8, R10 to R12, R15, R16): a present
event locks HOLDOVER or FREE to a listed word clock and otherwise applies the revert rule; an absent event leaves a lock on
the word clock as the evaluation does and otherwise applies the revert rule; during the power-on load both are only noted;
a due timer locks to its candidate, or ends HOLDOVER in FREE. A change of clock state or source hands a CLOCK notice to
every ONLINE feed. A repeated event or a timer that is not due changes nothing (log entries 19 and 20). -/
def Obligations.ClockEventsChangeSource : Prop :=
  ∀ s : State,
    let after (u : Ftu) : State :=
      told (toFeeds (fun _ => decide (u.clock ≠ s.ftu.clock)) (.clock u.clock s.ftu.frame)) { s with ftu := u }
    let present : Ftu := { s.ftu with wordclock := true }
    let absent : Ftu := { s.ftu with wordclock := false }
    let avail (on : Bool) : ClockSource → Bool := fun c => if c = .wordclock then on else s.available c
    exec .wordclockPresent s = .next
      (if s.ftu.wordclock then s
      else after (
        if s.sil.load = .loading .powerOn then present
        else
          match s.ftu.clock with
          | .locked _ => present.applyRevert (avail true)
          | _ => if .wordclock ∈ s.ftu.sources then { present with clock := .locked .wordclock, holdoverTimer := none }
            else present)) ∧
    exec .wordclockAbsent s = .next
      (if s.ftu.wordclock then after (
        if s.sil.load = .loading .powerOn then absent
        else
          match s.ftu.clock with
          | .locked .wordclock => absent.leaveLock (avail false)
          | .locked _ => absent.applyRevert (avail false)
          | _ => absent)
      else s) ∧
    exec .revertTimerExpiry s = .next (after (
      match s.ftu.clock, s.ftu.revertTimer with
      | .locked _, some (d, x) =>
        if 0 ≤ lead s.ftu.frame x then { s.ftu with clock := .locked d, revertTimer := none } else s.ftu
      | _, _ => s.ftu)) ∧
    exec .holdoverTimerExpiry s = .next (after (
      match s.ftu.clock, s.ftu.holdoverTimer with
      | .holdover, some x =>
        if 0 ≤ lead s.ftu.frame x then { s.ftu with clock := .free, holdoverTimer := none } else s.ftu
      | _, _ => s.ftu))

/-! ### The head-amp path -/

/-- A head-amp change (R73, R83): the desired values are set; when they equal the last-sent values the channel's queued
entry is withdrawn, and a start-up hold with it; otherwise the entry takes the values in its place, or joins the queue at
its end. Nothing else of the HAC moves. -/
def Obligations.HeadAmpChangeQueues : Prop :=
  ∀ (h : Hac) (i : Input) (v : HeadAmp),
    let c := h.channels[i]
    let q := h.buses[groupOf i].queue
    let sent : HeadAmp := match c.inFlight with
      | some w => w.value
      | none => c.live
    let waiting : Prop := ∃ e ∈ q, e.channel = placeOf i
    ∃ settle queue, h.change i v =
        { h with
          channels := tab fun k => if k = i then { c with desired := v, settle := settle } else h.channels[k]
          buses := tab fun g => if g = groupOf i then { h.buses[g] with queue := queue } else h.buses[g] } ∧
      (v = sent → queue = q.filter (fun e => decide (e.channel ≠ placeOf i)) ∧
        (waiting → c.settle = .held → settle = .absent) ∧ (¬ (waiting ∧ c.settle = .held) → settle = c.settle)) ∧
      (v ≠ sent → settle = c.settle ∧
        (waiting → queue = q.map fun e => if e.channel = placeOf i then { e with value := v } else e) ∧
        (¬ waiting → queue = q ++ [{ channel := placeOf i, value := v }]))

/-- BUS_SEND_OPPORTUNITY (R79, R80, R82, R83), `u` being the state after the frame step: in a frame that is a multiple of W
and whose opportunity is unused, the first entry in queue order whose channel has no in-flight write with effective frame
n or later, and none that took effect in this frame, is sent; the channel is in flight with S = n and E = n + 1 + K; its
settle mute is set, extended or replaced; the word carries place, code, pad and phantom. Otherwise nothing is sent. (The
fields taken and landed, and a command in a frame that is no opportunity, are the model's: log entries 2 and 19.) -/
def Obligations.BusSendsOldestEligible : Prop :=
  ∀ (s : State) (b : Group),
    let u := openFrame s
    let n := u.ftu.frame
    let bus := u.hac.buses[b]
    if bus.taken = true ∨ n.toNat % bus.spacing ≠ 0 then exec (.busSendOpportunity b) s = .next u
    else
      let used : PreampBus := { bus with taken := true }
      match bus.queue.find? fun e =>
          !u.hac.landed[inputAt b e.channel] &&
            match (u.channel (inputAt b e.channel)).inFlight with
            | none => true
            | some w => decide (lead w.effective n < 0) with
      | none => exec (.busSendOpportunity b) s = .next
          { u with hac := { u.hac with buses := tab fun g => if g = b then used else u.hac.buses[g] } }
      | some e =>
        let i := inputAt b e.channel
        let c := u.channel i
        let effective := n + 1 + BitVec.ofNat 32 bus.delay
        let padLength := u.hac.padSettle.toNat
        let phantomLength := u.hac.phantomSettle.toNat * 256
        let padMoves := e.value.pad ≠ c.live.pad
        let phantomMoves := e.value.phantom ≠ c.live.phantom
        let length : Nat :=
          if padMoves ∧ phantomMoves then max padLength phantomLength
          else if padMoves then padLength
          else if phantomMoves then phantomLength
          else 0
        let settle : SettleMute :=
          match c.settle with
          | .held => .ends (effective + BitVec.ofNat 32 length)
          | .absent => if padMoves ∨ phantomMoves then .ends (effective + BitVec.ofNat 32 length) else .absent
          | .ends x =>
            if (padMoves ∨ phantomMoves) ∧ 0 ≤ lead (effective + BitVec.ofNat 32 length) x then
              .ends (effective + BitVec.ofNat 32 length)
            else .ends x
        let word : BitVec 16 := BitVec.ofNat 3 e.channel.val ++ BitVec.ofNat 6 e.value.code.val ++
          BitVec.ofBool e.value.pad ++ BitVec.ofBool e.value.phantom ++ 0#5
        exec (.busSendOpportunity b) s = .next
          { u with hac :=
            { u.hac with
              buses := tab fun g =>
                if g = b then
                  { used with queue := bus.queue.filter (fun x => decide (x.channel ≠ e.channel)), word := some word }
                else u.hac.buses[g]
              channels := tab fun k =>
                if k = i then
                  { c with inFlight := some { value := e.value, sent := n, effective := effective }, settle := settle }
                else u.channel k } }

/-- EFFECTIVE_EVENT (R41, R84, R85, R37): when the channel's in-flight write is due, its values are live, A is recomputed,
every TRACK tap of the input jumps by −ΔA and is retargeted, FOLLOW taps stay; each feed whose flag changes is handed a
LIMIT notice, then each feed that carries the input a HEADAMP notice (LIMIT before HEADAMP is the model's choice, log entry 16). A write that is effective in this frame goes on blocking
its channel at this frame's send opportunity (R79; the field landed, log entry 2). When none is due nothing changes (log
entry 19). -/
def Obligations.EffectiveEventMakesLive : Prop :=
  ∀ (s : State) (i : Input),
    match (s.channel i).inFlight with
    | none => exec (.effectiveEvent i) s = .next s
    | some w =>
      if lead s.ftu.frame w.effective < 0 then exec (.effectiveEvent i) s = .next s
      else
        let a : Int := (s.hac.plt[w.value.code].toNat : Int) + if w.value.pad then s.hac.padValue else 0
        let jumped (t : Tap) : Tap :=
          match t.mode with
          | .follow => t
          | .track n => { t with
            current := clampTrim (t.current - (a - (s.channel i).gain))
            target := clampTrim (t.offset + n - a)
            limit := decide (clampTrim (t.offset + n - a) ≠ t.offset + n - a) }
        let limits (g : Feed) : List Notice :=
          if (jumped (s.tap g i)).limit = (s.tap g i).limit then []
          else
            match (s.tap g i).mode with
            | .follow => []
            | .track n =>
              [.limit i (jumped (s.tap g i)).limit (jumped (s.tap g i)).target ((s.tap g i).offset + n - a) s.ftu.frame]
        exec (.effectiveEvent i) s = .next
          (told (fun g => limits g ++ if s.carries g i then [.headAmp i w.value a s.ftu.frame] else [])
            { s with
              hac :=
                { s.hac with
                  channels := tab fun k =>
                    if k = i then { s.channel i with live := w.value, inFlight := none, gain := a } else s.channel k
                  landed := tab fun k =>
                    if k = i then s.hac.landed[i] || decide (0 ≤ lead w.effective s.ftu.frame) else s.hac.landed[k] }
              tgu :=
                { s.tgu with taps := tab fun g => tab fun k => if k = i then jumped (s.tap g i) else s.tap g k } })

/-- A compensation event leaves the total gain of an unclamped TRACK tap where it was (R41): at the effective event, when
neither current nor target leaves the range, A + current and A + target are the same before and after, and the flag stays
clear; a FOLLOW tap keeps its trim and hears the change. -/
def Obligations.CompensationHoldsTotalGain : Prop :=
  ∀ (s t : State) (f : Feed) (i : Input) (w : InFlight),
    s.tapsSound → (s.channel i).inFlight = some w → 0 ≤ lead s.ftu.frame w.effective →
    exec (.effectiveEvent i) s = .next t →
    let rise := (t.channel i).gain - (s.channel i).gain
    ((s.tap f i).tracks = true → (s.tap f i).limit = false →
      inTrim ((s.tap f i).current - rise) → inTrim ((s.tap f i).target - rise) →
      (t.channel i).gain + (t.tap f i).current = (s.channel i).gain + (s.tap f i).current ∧
      (t.channel i).gain + (t.tap f i).target = (s.channel i).gain + (s.tap f i).target ∧
      (t.tap f i).limit = false) ∧
    ((s.tap f i).tracks = false → t.tap f i = s.tap f i) ∧
    ∀ k : Input, k ≠ i → t.tap f k = s.tap f k

/-- SETTLE_MUTE_END, PENDING_MAP_IN_FORCE, PENDING_LAW_IN_EFFECT (R25, R67, R83): an end frame that has passed is removed
from the channel; a pending map or gain law whose frame has come takes the place of the one in force. What is not due stays
(log entry 19). -/
def Obligations.DueValuesTakeOver : Prop :=
  (∀ (s : State) (i : Input),
    exec (.settleMuteEnd i) s = .next
      { s with
        hac :=
          { s.hac with
            channels := tab fun k =>
              if k = i then
                { s.channel i with
                  settle :=
                    match (s.channel i).settle with
                    | .ends x => if lead x s.ftu.frame < 0 then .absent else .ends x
                    | m => m }
              else s.channel k } }) ∧
  (∀ (s : State) (f : Feed),
    exec (.pendingMapInForce f) s = .next
      { s with
        smu :=
          { maps := tab fun g =>
              match s.smu.maps[g].pending with
              | some p =>
                if g = f ∧ 0 ≤ lead s.ftu.frame p.start then { inForce := p.map, pending := none } else s.smu.maps[g]
              | none => s.smu.maps[g] } }) ∧
  ∀ s : State,
    exec .pendingLawInEffect s = .next
      { s with
        tgu :=
          match s.tgu.pending with
          | some p =>
            if 0 ≤ lead s.ftu.frame p.start then { s.tgu with glt := p.table, pending := none } else s.tgu
          | none => s.tgu }

/-! ### Scenes and meters -/

/-- The execution of a scene of feed `f` (R116 to R118): its TRIM and MUTE entries set the feed's own taps, its HEADAMP
entries set the present fields of the desired values of the channels the feed owns and are skipped elsewhere; what has no
entry stays; owners, live values and other feeds' taps stay; applied and skipped add up; the index is the first skipped
entry's. In full: an applied HEADAMP entry is a head-amp change of its channel (R73), in entry order; a trimmed tap takes its
target and limit flag by R36; each change of a flag hands the feed a LIMIT notice (R37), in entry order; nothing else
changes. -/
def Obligations.SceneAppliesEntries : Prop :=
  ∀ (f : Feed) (es : List SceneEntry) (u : State), (es.Pairwise fun a b => a.sameKey b = false) →
    let v := (runScene f es u).1
    let r := (runScene f es u).2
    let skips (e : SceneEntry) : Prop := e.value.kind = 0 ∧ (u.channel e.input).owner ≠ some f
    (∀ e ∈ es,
      match e.value with
      | .trim x => (v.tap f e.input).offset = x
      | .mute on => (v.tap f e.input).mute = on
      | .headAmp code pad phantom =>
        (v.channel e.input).desired =
          if (u.channel e.input).owner = some f then
            { code := code.getD (u.channel e.input).desired.code
              pad := pad.getD (u.channel e.input).desired.pad
              phantom := phantom.getD (u.channel e.input).desired.phantom }
          else (u.channel e.input).desired) ∧
    (∀ i : Input,
      ((∀ e ∈ es, e.input = i → e.value.kind ≠ 0) → (v.channel i).desired = (u.channel i).desired) ∧
      ((∀ e ∈ es, e.input = i → e.value.kind ≠ 1) → (v.tap f i).offset = (u.tap f i).offset) ∧
      ((∀ e ∈ es, e.input = i → e.value.kind ≠ 2) → (v.tap f i).mute = (u.tap f i).mute) ∧
      (v.channel i).owner = (u.channel i).owner ∧ (v.channel i).live = (u.channel i).live ∧
      (v.channel i).gain = (u.channel i).gain ∧ (v.tap f i).mode = (u.tap f i).mode ∧
      (v.tap f i).current = (u.tap f i).current ∧ ∀ g : Feed, g ≠ f → v.tap g i = u.tap g i) ∧
    r.applied + r.skipped = es.length ∧
    (r.skipped = 0 ↔ ∀ e ∈ es, ¬ skips e) ∧
    (r.skipped = 0 → r.first = 255) ∧
    (∀ k e, es[k]? = some e → skips e → (∀ j d, j < k → es[j]? = some d → ¬ skips d) → r.first = k) ∧
    onlyBlocks [.tgu, .hac, .cle, .lnk] u v ∧
    let limited (x : Int) : Int := if x < -320 then -320 else if 192 < x then 192 else x
    let trims (i : Input) : Option Int := es.findSome? fun e => match e.value with
      | .trim x => if e.input = i then some x else none
      | _ => none
    let mutes (i : Input) : Option Bool := es.findSome? fun e => match e.value with
      | .mute on => if e.input = i then some on else none
      | _ => none
    let trimmed (i : Input) : Tap :=
      let t := u.tap f i
      match trims i with
      | none => t
      | some o =>
        match t.mode with
        | .follow => { t with offset := o, target := o, limit := false }
        | .track n =>
          let x := o + n - (u.channel i).gain
          { t with offset := o, target := limited x, limit := decide (x < -320 ∨ 192 < x) }
    let new (i : Input) : Tap := { trimmed i with mute := (mutes i).getD (u.tap f i).mute }
    v = told (toFeed f (limitNotices f ((es.filter fun e => decide (e.value.kind = 1)).map (·.input)) new u))
        { u with
          hac := es.foldl (fun h e => match e.value with
            | .headAmp code pad phantom =>
              if (u.channel e.input).owner = some f then
                h.change e.input
                  { code := code.getD (u.channel e.input).desired.code
                    pad := pad.getD (u.channel e.input).desired.pad
                    phantom := phantom.getD (u.channel e.input).desired.phantom }
              else h
            | _ => h) u.hac
          tgu := { u.tgu with taps := tab fun g => tab fun i => if g = f then new i else u.tap g i } }

/-- SCENE_EXECUTION (R116, R118, R119), `u` being the state after the frame step: the first scene of the list, when it is
due, leaves the list and executes, and a SCENE_DONE notice with its results goes to its feed; when none is due nothing
happens (log entry 19). -/
def Obligations.SceneExecutionRunsFirstDue : Prop :=
  ∀ s : State,
    let u := openFrame s
    match u.scu.scheduled with
    | [] => exec .sceneExecution s = .next u
    | x :: rest =>
      if lead u.ftu.frame x.frame < 0 then exec .sceneExecution s = .next u
      else
        let r := runScene x.feed x.entries { u with scu := { u.scu with scheduled := rest } }
        exec .sceneExecution s = .next
          (told (toFeed x.feed [.sceneDone x.id x.frame r.2.applied r.2.skipped r.2.first]) r.1)

/-- METER_PERIOD_END (R154, R155), `u` being the state after the frame's samples: at a due period end the codes go to the
feed in METER notices of up to sixteen (after the frame's CLIP notices, log entry 16), the accumulators are 0 and the period end frame moves on by P × 256. The meter code
of a peak from 1 to 8,388,607 with bit length b is 8(b − 1) + (floor(8m / 2^(b−1)) − 8) + 1, and 0 for 0. Without a
subscription, or when its period end is not due, nothing is reported (log entry 19). -/
def Obligations.MeterPeriodEndReports : Prop :=
  (∀ (s : State) (f : Feed),
    let u := openFrame s
    match u.lmu.subscriptions[f] with
    | none => exec (.meterPeriodEnd f) s = .next u
    | some b =>
      if lead u.ftu.frame b.ends < 0 then exec (.meterPeriodEnd f) s = .next u
      else
        let block (peaks : List (Input × Nat)) : List Notice :=
          match peaks with
          | [] => []
          | (first, _) :: _ => [.meter first (peaks.map fun p => meterCode p.2)]
        exec (.meterPeriodEnd f) s = .next
          (told (toFeed f (block (b.peaks.take 16) ++ block ((b.peaks.drop 16).take 16) ++ block (b.peaks.drop 32)))
            { u with
              lmu :=
                { u.lmu with
                  subscriptions := tab fun g =>
                    if g = f then
                      some
                        { period := b.period
                          ends := b.ends + BitVec.ofNat 32 (b.period.toNat * 256)
                          peaks := b.peaks.map fun p => (p.1, 0) }
                    else u.lmu.subscriptions[g] } })) ∧
  meterCode 0 = 0 ∧
  ∀ m b : Nat, 1 ≤ m → m ≤ 8388607 → 2 ^ (b - 1) ≤ m → m < 2 ^ b → 1 ≤ b →
    meterCode m = 8 * (b - 1) + (8 * m / 2 ^ (b - 1) - 8) + 1 ∧ 8 ≤ 8 * m / 2 ^ (b - 1) ∧
    8 * m / 2 ^ (b - 1) ≤ 15 ∧ meterCode m ≤ 184

/-! ### Loading and saving -/

/-- LOAD_COMPLETE (R161 to R163, R13, R16): the image is valid when every transfer was acknowledged, the header fields hold
their values and the checksum is the sum of the 1,730 section bytes; the part stays LOADING in this frame; the power-on
load also takes the clock list and timer lengths and evaluates the list without a notice; a restart load does not. That the
EEPROM then holds the bytes found is the model's choice (log entry 11). When no read runs nothing changes (log entry 19). That the blocks take their values at the end of this frame is log entry 10. -/
def Obligations.LoadCompletionJudgesImage : Prop :=
  ∀ (s : State) (r : EepromRead),
    let bytes := match r with
      | .found b => b
      | _ => s.sil.eeprom
    let sections := (bytes.drop 9).take 1730
    let judgement : Judgement :=
      if r ≠ .noAck ∧ 1739 ≤ bytes.length ∧ bytes.take 4 = [0x50, 0x46, 0x53, 0x50] ∧ bytes.getD 4 0 = 1 ∧
          ofBe ((bytes.drop 5).take 2) = 1730 ∧
          ofBe ((bytes.drop 7).take 2) = ((sections.map (·.toNat)).sum) % 65536 then .valid sections
      else .invalid
    match s.sil.load with
    | .loading kind =>
      let x := judgement.settings
      exec (.loadComplete r) s = .next
        { s with
          sil := { s.sil with load := .complete kind judgement, eeprom := bytes }
          ftu := match kind with
            | .restart => s.ftu
            | .powerOn =>
              Ftu.evaluate s.available
                { s.ftu with sources := x.sources, revertDelay := x.revertDelay, holdoverLimit := x.holdoverLimit } }
    | _ => exec (.loadComplete r) s = .next s

/-- FRAME_TICK in the frame of a load's completion (R3, R28, R56, R57, R70, R92 to R94, R107, R108, R160, R161): with `w`
the state after that frame's events and `x` the loaded settings, the part is READY and every block holds the loaded values:
at power-on also the rate mode and the desired values, with the initial writes queued in channel order and the other holds
released; TRACK taps are anchored at the A of the desired values at power-on and at the live A at a restart. That the blocks take their
values after that frame's events is DEDUCED (log entry 10). -/
def Obligations.FirstReadyFrameTakesSettings : Prop :=
  ∀ (s : State) (kind : LoadKind) (j : Judgement), s.sil.load = .complete kind j →
    ∃ t, exec .frameTick s = .next t ∧
      let w := frameEvents s
      let x := j.settings
      let gain (v : HeadAmp) : Int := (x.plt[v.code].toNat : Int) + if v.pad then x.padValue else 0
      t.sil.load = .ready ∧ t.sil.defaults = decide (j = .invalid) ∧ t.cle.supervisor = x.supervisor ∧
      t.ftu.rate = (match kind with | .powerOn => x.rate | .restart => w.ftu.rate) ∧
      (∀ f : Feed, t.smu.maps[f].pending = none ∧ t.smu.maps[f].inForce.windows = x.windows[f] ∧
        t.smu.maps[f].inForce.slots =
          (x.windows[f].flatMap Window.expand).take (match t.ftu.rate with | .k48 => 64 | .k96 => 32)) ∧
      t.tgu.glt = x.glt ∧ t.tgu.staging = x.glt ∧ t.tgu.pending = none ∧ t.tgu.glide = x.glide ∧
      t.hac.plt = x.plt ∧ t.hac.staging = x.plt ∧ t.hac.padValue = x.padValue ∧
      t.hac.padSettle = x.padSettle ∧ t.hac.phantomSettle = x.phantomSettle ∧
      (∀ b : Fin 4, t.tgu.marks[b] = false ∧ t.hac.marks[b] = false) ∧
      (∀ g : Group, t.hac.buses[g].spacing = x.spacing[g] ∧ t.hac.buses[g].delay = x.delay[g] ∧
        t.hac.buses[g].word = w.hac.buses[g].word ∧
        t.hac.buses[g].queue = match kind with
          | .restart => w.hac.buses[g].queue
          | .powerOn => w.hac.buses[g].queue ++
            ((List.finRange 8).filter fun p =>
              decide (x.desired[inputAt g p] ≠ (w.channel (inputAt g p)).live)).map fun p =>
                { channel := p, value := x.desired[inputAt g p] }) ∧
      (∀ i : Input, t.channel i =
        { desired := match kind with
            | .powerOn => x.desired[i]
            | .restart => (w.channel i).desired
          inFlight := (w.channel i).inFlight
          live := (w.channel i).live
          gain := gain (w.channel i).live
          settle :=
            if kind = .powerOn ∧ x.desired[i] = (w.channel i).live ∧ (w.channel i).settle = .held then .absent
            else (w.channel i).settle
          owner := x.owners[i] }) ∧
      (∀ (f : Feed) (i : Input),
        let a := gain (w.channel i).live
        let n := match kind with
          | .powerOn => gain x.desired[i]
          | .restart => a
        let o := x.taps[f][i].offset
        (t.tap f i).offset = o ∧ (t.tap f i).mute = x.taps[f][i].mute ∧ (t.tap f i).current = (t.tap f i).target ∧
        (t.tap f i).mode = (if x.taps[f][i].track then .track n else .follow) ∧
        (t.tap f i).target = (if x.taps[f][i].track then clampTrim (o + n - a) else o) ∧
        (t.tap f i).limit = (x.taps[f][i].track && decide (clampTrim (o + n - a) ≠ o + n - a))) ∧
      (∀ i : Input, t.lmu.clips[i] =
        { mode := x.clips[i].mode, threshold := x.clips[i].threshold, rearm := x.clips[i].rearm, state := .armed,
          frame := 0, code := 0, pad := false, magnitude := 0, count := 0 }) ∧
      t.lmu.subscriptions = w.lmu.subscriptions ∧ t.scu = w.scu

/-- The stored image (R162, R163, R166): where each setting stands in the 1,730 section bytes, and what replaces a value out of
its range (R3, R16, R28, R56, R70, R92, R93, R107, R160); the built-in defaults, taken in place of an image that is not valid.
Whatever the bytes hold, the corrected settings lie in their ranges; and the image that a save writes of settings in range has
1,730 section bytes, is judged valid and gives back every setting. -/
def Obligations.StoredImageGivesBackSettings : Prop :=
  (∀ b : List Byte, (Settings.ofSections b).sound) ∧
  (∀ x : Settings, x.sound →
    x.sections.length = 1730 ∧ judgeBytes (imageOf x.sections) = .valid x.sections ∧
    Settings.ofSections x.sections = x) ∧
  (∀ b : List Byte, b.length = 1730 → (Judgement.valid b).settings = Settings.ofSections b ∧
    let x := Settings.ofSections b
    let n8 (k : Nat) : Nat := (b.getD k 0).toNat
    let n16 (k : Nat) : Nat := 256 * n8 k + n8 (k + 1)
    let n24 (k : Nat) : Nat := 256 * n16 k + n8 (k + 2)
    let s16 (k : Nat) : Int := if n16 k < 32768 then n16 k else (n16 k : Int) - 65536
    let codes := (List.range (n8 2)).map fun k => n8 (3 + k)
    let glt : Vector Mantissa 48 := tab fun r => BitVec.ofNat 24 (n24 (362 + 3 * r.val))
    let plt : Vector LawEntry 64 := tab fun k => BitVec.ofNat 16 (n16 (506 + 2 * k.val))
    x.rate = (if n8 0 = 1 then .k96 else .k48) ∧
    x.supervisor = (if n8 1 ≤ 3 then Fin.ofNat 4 (n8 1) else 0) ∧
    x.sources =
      (if 1 ≤ n8 2 ∧ n8 2 ≤ 4 ∧ (∀ c ∈ codes, c ≤ 5) ∧ codes.Nodup then
        codes.map fun c => if c = 0 then .internal else if c = 1 then .wordclock else .feed (Fin.ofNat 4 (c - 2))
      else [.feed 0, .internal]) ∧
    x.revertDelay.toNat = n8 7 ∧ x.holdoverLimit.toNat = n16 8 ∧
    (∀ g : Group,
      x.spacing[g] = (if 1 ≤ n8 (10 + 2 * g.val) ∧ n8 (10 + 2 * g.val) ≤ 16 then n8 (10 + 2 * g.val) else 4) ∧
      x.delay[g] = if n8 (11 + 2 * g.val) ≤ 63 then n8 (11 + 2 * g.val) else 12) ∧
    x.padSettle.toNat = n8 22 ∧ x.phantomSettle.toNat = n8 23 ∧
    x.padValue = (if -255 ≤ s16 24 ∧ s16 24 ≤ 0 then s16 24 else -160) ∧
    (∀ i : Input,
      let k := 26 + 7 * i.val
      let threshold := if n24 (k + 1) = 0 ∨ 8388607 < n24 (k + 1) then 8000000 else n24 (k + 1)
      x.clips[i] =
        { mode := if n8 k = 1 then .oneShot else if n8 k = 2 then .cyclic else .off
          threshold := threshold
          rearm := if threshold < n24 (k + 4) then threshold else n24 (k + 4) }) ∧
    (lawSound glt → x.glt = glt) ∧ (¬ lawSound glt → x.glt = builtinGlt) ∧
    (plawSound plt → x.plt = plt) ∧ (¬ plawSound plt → ∀ k : Fin 64, x.plt[k].toNat = 8 * k.val) ∧
    (∀ f : Feed,
      let k := 634 + 33 * f.val
      let taken (w : Nat) : Option Window :=
        let kind := n8 (k + 1 + 4 * w)
        let first := n8 (k + 2 + 4 * w)
        let count := n8 (k + 3 + 4 * w)
        let order := n8 (k + 4 + 4 * w)
        if 2 < kind ∨ count = 0 then none
        else if kind = 0 then
          if 1 < order ∨ 47 < first then none
          else if order = 0 then some (.input first (min count (48 - first)) .straight)
          else if count % 2 = 1 then none
          else if first + count ≤ 48 then some (.input first count .interleaved)
          else if first = 47 then none
          else some (.input first (48 - first - (48 - first) % 2) .interleaved)
        else if 64 < count then none
        else some (if kind = 1 then .silence count else .pattern count)
      x.windows[f] =
        if 8 < n8 k ∨ ∃ w ∈ List.range (n8 k), taken w = none then [.input 0 48 .straight]
        else (List.range (n8 k)).filterMap taken) ∧
    (∀ f : Feed, (x.glide[f] : Fin 16).val = min (n8 (766 + f.val)) 15) ∧
    (∀ (f : Feed) (i : Input),
      let k := 770 + 4 * (48 * f.val + i.val)
      x.taps[f][i] =
        { track := decide (n8 k = 1)
          offset := if s16 (k + 1) < -320 then -320 else if 192 < s16 (k + 1) then 192 else s16 (k + 1)
          mute := decide (n8 (k + 3) = 1) }) ∧
    (∀ i : Input, x.desired[i].code.val = min (n8 (1538 + 3 * i.val)) 63 ∧
      x.desired[i].pad = decide (n8 (1539 + 3 * i.val) = 1) ∧
      x.desired[i].phantom = decide (n8 (1540 + 3 * i.val) = 1)) ∧
    ∀ i : Input, x.owners[i] = if n8 (1682 + i.val) ≤ 3 then some (Fin.ofNat 4 (n8 (1682 + i.val))) else none) ∧
  Judgement.invalid.settings =
    { rate := .k48, supervisor := 0, sources := [.feed 0, .internal], revertDelay := 188, holdoverLimit := 2813
      spacing := tab fun _ => 4, delay := tab fun _ => 12, padSettle := 96, phantomSettle := 188, padValue := -160
      clips := tab fun _ => { mode := .off, threshold := 8000000, rearm := 4000000 }
      glt := builtinGlt, plt := tab fun k => BitVec.ofNat 16 (8 * k.val)
      windows := tab fun _ => [.input 0 48 .straight], glide := tab fun _ => 2
      taps := tab fun _ => tab fun _ => { track := false, offset := 0, mute := false }
      desired := tab fun _ => { code := 0, pad := false, phantom := false }, owners := tab fun _ => none }

/-- STORE_SAVE and SAVE_COMPLETE (R166): an accepted save answers OK and holds a snapshot of the settings as they stand, a
pending map or gain law taken as in force, and is refused BUSY while a save runs; at its completion the save state is idle,
the stored image is the snapshot's or, after a failure, what the save has written where it stops, over the former bytes, with
version 0, so that the image is invalid (the order within a step of the writing is the model's choice, log entry 11), and a
STORE_DONE notice goes to the supervising feed. When no save runs SAVE_COMPLETE changes nothing (log entry 19). -/
def Obligations.SaveKeepsSnapshot : Prop :=
  (∀ (s : State) (f : Feed) (tag : Byte), s.serves f →
    let u := reach f s
    u.sil.load = .ready → f = u.cle.supervisor →
    (u.sil.saving ≠ none → exec (.storeSave f tag []) s = .next (answered f tag 0x03 [9] u)) ∧
    (u.sil.saving = none → ∃ x : Settings,
      exec (.storeSave f tag []) s = .next
        (answered f tag 0x03 [0] { u with sil := { u.sil with saving := some x.sections } }) ∧
      x.rate = u.ftu.rate ∧ x.supervisor = u.cle.supervisor ∧ x.sources = u.ftu.sources ∧
      x.revertDelay = u.ftu.revertDelay ∧ x.holdoverLimit = u.ftu.holdoverLimit ∧
      (∀ g : Group, x.spacing[g] = u.hac.buses[g].spacing ∧ x.delay[g] = u.hac.buses[g].delay) ∧
      x.padSettle = u.hac.padSettle ∧ x.phantomSettle = u.hac.phantomSettle ∧ x.padValue = u.hac.padValue ∧
      (∀ i : Input, x.clips[i] =
        { mode := u.lmu.clips[i].mode, threshold := u.lmu.clips[i].threshold, rearm := u.lmu.clips[i].rearm }) ∧
      x.glt = (match u.tgu.pending with | some p => p.table | none => u.tgu.glt) ∧ x.plt = u.hac.plt ∧
      (∀ f : Feed, x.windows[f] =
        match u.smu.maps[f].pending with
        | some p => p.map.windows
        | none => u.smu.maps[f].inForce.windows) ∧
      x.glide = u.tgu.glide ∧
      (∀ (f : Feed) (i : Input), x.taps[f][i] =
        { track := (u.tap f i).tracks, offset := (u.tap f i).offset, mute := (u.tap f i).mute }) ∧
      (∀ i : Input, x.desired[i] = (u.channel i).desired ∧ x.owners[i] = (u.channel i).owner))) ∧
  ∀ s : State,
    let ended (ok : Bool) (image : List Byte) : State :=
      told (toFeed s.cle.supervisor [.storeDone ok s.ftu.frame])
        { s with sil := { s.sil with saving := none, eeprom := image } }
    (s.sil.saving = none → ∀ x : SaveEnd, exec (.saveComplete x) s = .next s) ∧
    ∀ sections, s.sil.saving = some sections →
      exec (.saveComplete .ok) s = .next
        (ended true ([0x50, 0x46, 0x53, 0x50, 0x01, 0x06, 0xC2] ++
          be 2 ((sections.map (·.toNat)).sum % 65536) ++ sections)) ∧
      ∀ written, ∃ e, exec (.saveComplete (.fail written)) s = .next (ended false e) ∧
        leftByStop written sections s.sil.eeprom e ∧ judgeBytes e = .invalid

/-! ### Requests in general -/

/-- The checks of R146 in their order, for every request that is granted on arrival: an unknown kind or parameters that
break the kind's rule are MALFORMED; while LOADING every kind but DEV_STATUS is STARTING; a privileged kind, and a set in
INPUT form, from a feed that does not supervise is NOT_SUPERVISOR. Each response is the result byte alone, and nothing
else changes. The kinds and their bytes are those of the kind table, the privileged ones those of R96. What is MALFORMED, for
each kind (R14, R23, R27, R30, R44, R45, R47, R51 to R53, R65, R66, R69, R75 to R77, R87, R88, R97, R101 to R103, R110, R111,
R115, R120, R121, R150, R153, R158, R159, R165, R166), is given by what each kind takes; the encoding of a channel set is
AllMembersCheck's. -/
def Obligations.ChecksBeforeExecution : Prop :=
  (∀ k : ReqKind, ReqKind.ofByte k.code = some k) ∧
  (∀ b : Byte, (ReqKind.ofByte b).isSome = true ↔
    b.toNat ∈ [0x01, 0x02, 0x03, 0x04, 0x08, 0x09, 0x10, 0x11, 0x12, 0x13, 0x14, 0x15, 0x18, 0x19, 0x1A, 0x1B, 0x1C,
      0x20, 0x21, 0x22, 0x24, 0x25, 0x26, 0x27, 0x28, 0x29, 0x2A, 0x2B, 0x2C, 0x30, 0x31, 0x32, 0x33]) ∧
  (∀ k : ReqKind, privileged k = true ↔ k.code.toNat ∈ [0x02, 0x03, 0x04, 0x18, 0x19, 0x1A, 0x1B, 0x26, 0x27]) ∧
  (∀ (ps : List Byte) (k : ReqKind),
    let set (rest : List Byte → Prop) (ps : List Byte) : Prop := ∃ x bytes, parseSet ps = some (x, bytes) ∧ rest bytes
    let amp (bytes : List Byte) : Prop :=
      ∃ presence : Byte, ∃ code pad phantom : List Byte, bytes = presence :: (code ++ pad ++ phantom) ∧
        1 ≤ presence.toNat ∧ presence.toNat ≤ 7 ∧ code.length = (presence.getLsbD 0).toNat ∧
        pad.length = (presence.getLsbD 1).toNat ∧ phantom.length = (presence.getLsbD 2).toNat ∧
        ∀ b ∈ pad ++ phantom, b.toNat ≤ 1
    let takes : ReqKind → Prop
      | .devStatus | .devRestart | .storeSave | .mapGet | .lawApply | .plawApply | .scnOpen | .scnList => ps = []
      | .clockSet => ∃ n rest, ps = n :: rest ∧ n.toNat ≤ 4 ∧ (rest.length = n.toNat ∨ rest.length = n.toNat + 3)
      | .mapWindows => ∃ n rest, ps = n :: rest ∧ n.toNat ≤ 8 ∧ rest.length = 4 * n.toNat
      | .tapTrim => set (fun b => ∃ kind hi lo : Byte, b = [kind, hi, lo] ∧ kind.toNat ≤ 1) ps
      | .tapMode | .tapMute => set (fun b => ∃ x : Byte, b = [x] ∧ x.toNat ≤ 1) ps
      | .tapAnchor | .ownClaim | .ownRelease | .clipAck => set (fun b => b = []) ps
      | .tapGet | .haGet | .clipGet => ∃ form m : Byte, ps = [form, m] ∧ (form = 0 ∨ form = 0x80)
      | .feedGlide | .supervisorSet => ps.length = 1
      | .lawStage => ps.length = 1 + 36
      | .plawStage => ps.length = 1 + 32
      | .lawGet => ps.length = 3
      | .haSet => set amp ps
      | .haNudge => set (fun b => ∃ d : Byte, b = [d] ∧ -63 ≤ d.toInt ∧ d.toInt ≤ 63) ps
      | .ownAssign => set (fun b => ∃ x : Byte, b = [x] ∧ x.toNat ≤ 4) ps
      | .scnAdd => ∃ kind rest, ps = kind :: rest ∧ set (fun b =>
          kind = 0 ∧ amp b ∨ kind = 1 ∧ b.length = 2 ∨ kind = 2 ∧ ∃ x : Byte, b = [x] ∧ x.toNat ≤ 1) rest
      | .scnCommit => ps = [0] ∨ ∃ a b c d, ps = [1, a, b, c, d]
      | .scnCancel => ps = [0] ∨ ∃ id, ps = [1, id]
      | .mtrSubscribe => ∃ p rest, ps = p :: rest ∧ (rest = [] ∨ set (fun b => b = []) rest)
      | .clipSet => set (fun b => b.length = 7 ∧ ∃ m : Byte, b.head? = some m ∧ m.toNat ≤ 2) ps
    malformed ps k = false ↔ takes k) ∧
  ∀ (s : State) (c : Instr) (f : Feed) (tag kind : Byte) (ps : List Byte),
    c.request = some (f, tag, kind, ps) → s.serves f →
    let u := reach f s
    (ReqKind.ofByte kind = none → exec c s = .next (answered f tag kind [11] u)) ∧
    ∀ k, ReqKind.ofByte kind = some k →
      (malformed ps k = true → exec c s = .next (answered f tag kind [11] u)) ∧
      (malformed ps k = false → u.sil.load ≠ .ready → k ≠ .devStatus →
        exec c s = .next (answered f tag kind [12] u)) ∧
      (malformed ps k = false → u.sil.load = .ready → f ≠ u.cle.supervisor →
        (privileged k = true ∨ ∃ set, channelSetOf ps k = some set ∧ set.inputForm = true) →
        exec c s = .next (answered f tag kind [5] u))

/-- Channel sets (R30 to R33): the three encodings give their members, and nothing else is a set; a SLOT member translates to
the INPUT entry of its slot in the map in force, and fails with UNMAPPED beyond the map and at SILENCE and PATTERN; an INPUT
member up to 47 is that input, and fails with RANGE above it (R31); the result codes take the bytes of R147; the all-members
check answers the inputs of the members that translate, each once at its first place, exactly when every member translates
and passes the request's own check, and otherwise the code and position of the first member that fails; and a request with a
failing member is refused with them and changes nothing. (An OWN_CLAIM refused with OWNED hands notices too; SCN_ADD needs
an open scene.) -/
def Obligations.AllMembersCheck : Prop :=
  (∀ (head : Byte) (rest : List Byte), (∃ x, parseSet (head :: rest) = some x) ↔
    head &&& 0x7C = 0 ∧
      ((head &&& 3 = 0 ∧ 1 ≤ rest.length) ∨
        (head &&& 3 = 1 ∧ ∃ first count after, rest = first :: count :: after ∧ 1 ≤ count.toNat ∧ count.toNat ≤ 64) ∨
        (head &&& 3 = 2 ∧ ∃ n after, rest = n :: after ∧ 1 ≤ n.toNat ∧ n.toNat ≤ 16 ∧ n.toNat ≤ after.length))) ∧
  parseSet [] = none ∧
  (∀ (u : State) (f : Feed) (m : Nat),
    let map : SlotMap := match u.smu.maps[f].pending with
      | some p => if 0 ≤ lead u.ftu.frame p.start then p.map else u.smu.maps[f].inForce
      | none => u.smu.maps[f].inForce
    (map.slots.length ≤ m → u.translate f false m = .error .unmapped) ∧
    (map.slots[m]? = some .silence ∨ map.slots[m]? = some .pattern → u.translate f false m = .error .unmapped) ∧
    (∀ i, map.slots[m]? = some (.input i) → u.translate f false m = .ok i) ∧
    (∀ i : Input, m = i.val → u.translate f true m = .ok i) ∧
    (47 < m → u.translate f true m = .error .range)) ∧
  ([Result.ok, .clamped, .taken, .notOwner, .owned, .notSupervisor, .unmapped, .range, .state, .busy, .queueFull,
    .malformed, .starting].map Result.byte = [0, 1, 2, 3, 4, 5, 6, 7, 8, 9, 10, 11, 12]) ∧
  (∀ (inputForm : Bool) (m count : Byte) (ms rest : List Byte),
    let form : Byte := if inputForm then 0x80 else 0
    parseSet (form :: m :: rest) = some ({ inputForm := inputForm, single := true, members := [m.toNat] }, rest) ∧
    parseSet ((form ||| 1) :: m :: count :: rest) =
      (if 1 ≤ count.toNat ∧ count.toNat ≤ 64 then
        some ({ inputForm := inputForm, single := false,
                members := (List.range count.toNat).map fun j => m.toNat + j }, rest)
      else none) ∧
    (ms.length ≤ 255 → parseSet ((form ||| 2) :: BitVec.ofNat 8 ms.length :: (ms ++ rest)) =
      if 1 ≤ ms.length ∧ ms.length ≤ 16 then
        some ({ inputForm := inputForm, single := false, members := ms.map (·.toNat) }, rest)
      else none)) ∧
  (∀ (u : State) (f : Feed) (set : ChannelSet) (check : Input → Option Result),
    let passes (m : Nat) : Prop := ∃ i, u.translate f set.inputForm m = .ok i ∧ check i = none
    match u.resolve f set check with
    | .ok is =>
      (∀ m ∈ set.members, passes m) ∧ is.Nodup ∧
      is = (set.members.filterMap fun m => (u.translate f set.inputForm m).toOption).eraseDups
    | .error (code, pos) =>
      ∃ m, set.members[pos]? = some m ∧
        (u.translate f set.inputForm m = .error code ∨
          ∃ i, u.translate f set.inputForm m = .ok i ∧ check i = some code) ∧
        ∀ j d, j < pos → set.members[j]? = some d → passes d) ∧
  ∀ (s : State) (c : Instr) (f : Feed) (tag kind : Byte) (ps : List Byte) (k : ReqKind) (set : ChannelSet)
      (code : Result) (pos : Nat),
    c.request = some (f, tag, kind, ps) → ReqKind.ofByte kind = some k → s.serves f →
    let u := reach f s
    passesChecks u f ps k → channelSetOf ps k = some set →
    u.resolve f set (memberCheckOf u f k) = .error (code, pos) →
    (k = .scnAdd → u.openScene f ≠ none) → ¬ (k = .ownClaim ∧ code = .owned) →
    exec c s = .next (answered f tag kind [code.byte, BitVec.ofNat 8 pos] u)

/-- What joins a queue or finds it full. A request that is not granted on arrival (R144), because its feed is OFFLINE, has an
older request waiting, has a full response queue, or was passed by the round of this frame (log entry 4): it joins a queue of
fewer than eight; otherwise it is answered QUEUE_FULL while the response queue has room, and dropped when it has none. An
OFFLINE feed sends none: no effect (log entry 21). A notice handed to a feed (R149): nothing when the feed is OFFLINE; a
waiting notice with its key is replaced in its place; otherwise it joins a queue of fewer than sixteen at the end; otherwise it
is dropped and RESYNC is set (R136). The notice being sent is not waiting. Notices are handed one after another, and to each
feed on its own. -/
def Obligations.RequestsWaitOrOverflow : Prop :=
  (∀ (s : State) (c : Instr) (f : Feed) (tag kind : Byte) (ps : List Byte),
    c.request = some (f, tag, kind, ps) → ¬ s.serves f →
    let l := s.lane f
    let lane : Lane :=
      if s.online f = false then l
      else if l.requests.length < 8 then
        { l with requests := l.requests ++ [{ tag := tag, kind := kind, params := ps }] }
      else if l.responses.length < 8 then
        { l with responses := l.responses ++ [{ tag := tag, kind := kind, params := [10] }] }
      else l
    exec c s = .next { s with cle := { s.cle with lanes := tab fun g => if g = f then lane else s.lane g } }) ∧
  (∀ (s : State) (f : Feed) (nt : Notice),
    let key (x : Notice) : Nat × Nat := match x with
      | .headAmp i .. => (0, i.val)
      | .owner i .. => (1, i.val)
      | .claimSeen i .. => (2, i.val)
      | .limit i .. => (3, i.val)
      | .clip i .. => (4, i.val)
      | .meter first _ => (5, first.val)
      | .sceneDone id .. => (6, id.toNat)
      | .clock .. => (7, 0)
      | .input p .. => (8, p.val)
      | .storeDone .. => (9, 0)
      | .law .glt _ => (10, 0)
      | .law .plt _ => (10, 1)
    let l := s.lane f
    let sending : Nat := match l.serialiser with
      | .sending .notice _ => 1
      | _ => 0
    let queue (q : List Notice) : State :=
      { s with cle := { s.cle with lanes := tab fun g => if g = f then { l with notices := q } else s.lane g } }
    told (toFeed f [nt]) s =
      if s.lnk.feeds[f].control = none then s
      else if ∃ x ∈ l.notices.drop sending, key x = key nt then
        queue (l.notices.take sending ++ (l.notices.drop sending).map fun x => if key x = key nt then nt else x)
      else if l.notices.length < 16 then queue (l.notices ++ [nt])
      else { s with lnk := { s.lnk with feeds := tab fun g =>
        if g = f then { s.lnk.feeds[f] with resync := true } else s.lnk.feeds[g] } }) ∧
  ∀ (s : State) (f : Feed) (nts more : Feed → List Notice),
    told (fun _ => []) s = s ∧ told (fun g => nts g ++ more g) s = told more (told nts s) ∧
    told nts s = told (fun g => if g = f then [] else nts g) (told (toFeed f (nts f)) s)

/-- The arbiter's round (R145). It considers the four feeds from the pointer on, each once; a feed that is eligible when it is
considered has its oldest request executed and answered, with the pointer at the next feed, and a feed that is not is passed
over. So, in a round that has no feed twice to consider, a feed gets at most one response and loses requests from its queue's
front alone; without an eligible feed nothing changes but that all are considered; and a lone eligible feed has its oldest
request executed. A request command makes the round go on until its feed is the next one, and no further (the model's choice,
log entry 4); the rest of the round is FRAME_TICK's (FrameTickCompletesFrame). -/
def Obligations.RoundGrantsEachFeedOnce : Prop :=
  ∀ s : State,
    let p := s.cle.pointer
    let left : List Feed := match s.cle.left with
      | none => [p, p + 1, p + 2, p + 3]
      | some l => l
    let eligible (f : Feed) : Prop := (s.lane f).requests ≠ [] ∧ (s.lane f).responses.length < 8
    let considered (l : List Feed) (u : State) : State := { u with cle := { u.cle with left := some l } }
    let popped (f : Feed) (rest : List Message) : State :=
      { s with cle := { s.cle with lanes := tab fun g =>
        if g = f then { s.lane f with requests := rest } else s.lane g } }
    s.roundLeft = left ∧
    (left = [] → round s = s) ∧
    (∀ (f : Feed) (rest : List Feed), left = f :: rest →
      (¬ eligible f → round s = round (considered rest s) ∧ ∀ g : Feed, g ≠ f → roundUpTo g s = roundUpTo g (considered rest s)) ∧
      ∀ (m : Message) (more : List Message), (s.lane f).requests = m :: more → eligible f →
        let r := execute f m (popped f more)
        let t := answered f m.tag m.kind r.2 r.1
        t.cle.left = some rest ∧ round s = round t ∧ ∀ g : Feed, g ≠ f → roundUpTo g s = roundUpTo g t) ∧
    (∀ f : Feed, left = [] ∨ left.head? = some f → roundUpTo f s = s) ∧
    (∀ f : Feed, reach f s = roundUpTo f (beforeRequests s)) ∧
    (∀ f : Feed, ((round s).lane f).requests <:+ (s.lane f).requests) ∧
    ((∀ f ∈ left, ¬ eligible f) → round s = considered [] s) ∧
    (left.Nodup →
      (∀ f : Feed, ∃ r : List Message, ((round s).lane f).responses = (s.lane f).responses ++ r ∧ r.length ≤ 1) ∧
      ∀ (f : Feed) (m : Message) (rest : List Message), f ∈ left → eligible f → (∀ g, g ≠ f → ¬ eligible g) →
        (s.lane f).requests = m :: rest →
        let r := execute f m (popped f rest)
        round s = considered [] (answered f m.tag m.kind r.2 r.1))

/-- The envelope, the assembler and the serialiser (R139, R141, R142, R148), and the notices' kinds and parameters (notice table
of 09_the_control_lane.md). The envelope of a message is its length byte, tag, kind, parameters and CRC-16; of at most 59
parameter bytes, cut into deliveries of four bytes with SOM on the first, it is rebuilt from any state of the assembler. A
lane whose serialiser is idle sends its first response whole, four bytes a frame with SOM on the first, after which the
response has left its queue; with no response waiting it sends its first notice so, in an envelope with tag 0; with neither
it sends nothing. A message begun is sent on to its end, whatever waits. (The unclamped target of a LIMIT notice is free
outside 16 bits, log entry 13.) -/
def Obligations.MessagesCrossTheLane : Prop :=
  (∀ m : Message,
    let covered := BitVec.ofNat 8 (m.params.length + 4) :: m.tag :: m.kind :: m.params
    envelope m = covered ++ be 2 (crc16 covered).toNat) ∧
  (∀ (m : Message) (a : Assembler), m.params.length ≤ 59 →
    let bytes := envelope m
    let deliver (k : Nat) (p : Assembler × Option Message) : Assembler × Option Message :=
      p.1.deliver (decide (k = 0)) ((bytes.drop (4 * k)).take 4)
    bytes.length = m.params.length + 5 ∧
    ((List.range ((bytes.length + 3) / 4)).foldl (fun p k => deliver k p) (a, none)) = (.waitSom, some m)) ∧
  (∀ l : Lane, l.serialiser = .idle →
    let sends (m : Message) (after : Lane) : Prop :=
      let bytes := envelope m
      let frames := (bytes.length + 3) / 4
      (∀ k, k < frames →
        ((Lane.advance)^[k] l).chunk = { som := decide (k = 0), bytes := (bytes.drop (4 * k)).take 4 }) ∧
      (Lane.advance)^[frames] l = after
    (∀ m rest, l.responses = m :: rest → sends m { l with responses := rest }) ∧
    (∀ nt rest, l.responses = [] → l.notices = nt :: rest →
      sends { tag := 0, kind := nt.kind, params := nt.params } { l with notices := rest }) ∧
    (l.responses = [] → l.notices = [] → l.chunk = { som := false, bytes := [] } ∧ l.advance = l)) ∧
  (∀ (l : Lane) (src : Source) (rest : List Byte), l.serialiser = .sending src rest →
    l.chunk = { som := false, bytes := rest.take 4 } ∧
    l.advance =
      if 4 < rest.length then { l with serialiser := .sending src (rest.drop 4) }
      else match src with
        | .response => { l with serialiser := .idle, responses := l.responses.tail }
        | .notice => { l with serialiser := .idle, notices := l.notices.tail }) ∧
  let b (x : Bool) : Byte := if x then 1 else 0
  let n8 (n : Nat) : Byte := BitVec.ofNat 8 n
  let signed (x : Int) : List Byte := be 2 (x % 65536).toNat
  let frame (x : FrameNo) : List Byte := be 4 x.toNat
  let feed (x : Option Feed) : Byte := match x with
    | some k => n8 k.val
    | none => 4
  (∀ i v a x, (Notice.headAmp i v a x).kind = 0x80 ∧
    (Notice.headAmp i v a x).params = [n8 i.val, n8 v.code.val, b v.pad, b v.phantom] ++ signed a ++ frame x) ∧
  (∀ i new old cause x, (Notice.owner i new old cause x).kind = 0x81 ∧
    (Notice.owner i new old cause x).params =
      [n8 i.val, feed new, feed old,
        ((match cause with | .claim => 0 | .takeover => 1 | .release => 2 | .assign => 3) : Byte)] ++ frame x) ∧
  (∀ i k x, (Notice.claimSeen i k x).kind = 0x82 ∧
    (Notice.claimSeen i k x).params = [n8 i.val, feed (some k)] ++ frame x) ∧
  (∀ i set target wanted x, (Notice.limit i set target wanted x).kind = 0x83 ∧
    ∃ field : List Byte, field.length = 2 ∧ (-32768 ≤ wanted → wanted ≤ 32767 → field = signed wanted) ∧
      (Notice.limit i set target wanted x).params = [n8 i.val, b set] ++ signed target ++ field ++ frame x) ∧
  (∀ i x code pad m count, (Notice.clip i x code pad m count).kind = 0x84 ∧
    (Notice.clip i x code pad m count).params =
      [n8 i.val] ++ frame x ++ [n8 code.val, b pad] ++ be 3 m ++ [n8 count]) ∧
  (∀ first codes, (Notice.meter first codes).kind = 0x85 ∧
    (Notice.meter first codes).params = [n8 first.val, n8 codes.length] ++ codes.map n8) ∧
  (∀ id x done skipped first, (Notice.sceneDone id x done skipped first).kind = 0x86 ∧
    (Notice.sceneDone id x done skipped first).params = [id] ++ frame x ++ [n8 done, n8 skipped, n8 first]) ∧
  (∀ clock x, (Notice.clock clock x).kind = 0x87 ∧
    (Notice.clock clock x).params =
      ((match clock with
        | .locked .internal => [0, 0]
        | .locked .wordclock => [0, 1]
        | .locked (.feed k) => [0, n8 (k.val + 2)]
        | .holdover => [1, 255]
        | .free => [2, 255]) : List Byte) ++ frame x) ∧
  (∀ g c x, (Notice.input g c x).kind = 0x88 ∧
    (Notice.input g c x).params = [n8 g.val, ((match c with | .fault => 0 | .running => 1) : Byte)] ++ frame x) ∧
  (∀ ok x, (Notice.storeDone ok x).kind = 0x89 ∧ (Notice.storeDone ok x).params = (if ok then 0 else 1) :: frame x) ∧
  (∀ table x, (Notice.law table x).kind = 0x8A ∧
    (Notice.law table x).params = ((match table with | .glt => 0 | .plt => 1) : Byte) :: frame x)

/-! ### Requests of the control lane, the clock and the maps -/

/-- DEV_STATUS (R150, R136), granted in any load state: OK and 31 bytes of status as they stand; the feed's RESYNC flag is
cleared and nothing else changes. -/
def Obligations.DevStatusReportsAndClearsResync : Prop :=
  ∀ (s : State) (f : Feed) (tag : Byte), s.serves f →
    let u := reach f s
    let code (x : ClockState) : Byte := match x with | .locked _ => 0 | .holdover => 1 | .free => 2
    let source (x : ClockState) : Byte :=
      match x with
      | .locked .internal => 0
      | .locked .wordclock => 1
      | .locked (.feed k) => BitVec.ofNat 8 (k.val + 2)
      | _ => 255
    exec (.devStatus f tag []) s = .next
      (answered f tag 0x01
        (0 :: be 4 u.ftu.frame.toNat ++
          [((match u.ftu.rate with | .k48 => 0 | .k96 => 1) : Byte), (if u.sil.load = .ready then 1 else 0),
            (if u.sil.saving = none then 0 else 1), (if u.sil.defaults then 1 else 0),
            BitVec.ofNat 8 u.cle.supervisor.val, BitVec.ofNat 8 f.val, (if u.lnk.feeds[f].resync then 1 else 0),
            code u.ftu.clock, source u.ftu.clock] ++
          ((List.finRange 8).map fun p : Port =>
            ((match u.lnk.ports[p].state with | .down => 0 | .seek _ => 1 | .up _ => 2) : Byte)) ++
          ((List.finRange 4).map fun k : Feed =>
            ((match u.lnk.feeds[k].control with | none => 0 | some .main => 1 | some .reserve => 2) : Byte)) ++
          (List.finRange 6).map fun g : Group =>
            ((match u.cvp.ports[g].state with | .fault => 0 | .running => 1) : Byte))
        { u with lnk := { u.lnk with feeds := tab fun g =>
          if g = f then { u.lnk.feeds[f] with resync := false } else u.lnk.feeds[g] } })

/-- DEV_RESTART (R123, R152, R155, R165): refused BUSY while a save runs; otherwise OK, the part is LOADING, every request
queue and every notice that is not being sent is gone, open scenes, the scheduled list and subscriptions are gone, the id
counter is 1, and everything else is kept. -/
def Obligations.DevRestartEmptiesQueues : Prop :=
  ∀ (s : State) (f : Feed) (tag : Byte), s.serves f →
    let u := reach f s
    u.sil.load = .ready → f = u.cle.supervisor →
    let sending (l : Lane) : List Notice :=
      match l.serialiser with
      | .sending .notice _ => l.notices.take 1
      | _ => []
    exec (.devRestart f tag []) s = .next
      (if u.sil.saving = none then
        answered f tag 0x02 [0]
          { u with
            cle := { u.cle with lanes := tab fun g =>
              { u.lane g with requests := [], notices := sending (u.lane g) } }
            scu := { opened := tab fun _ => none, scheduled := [], nextId := 1 }
            lmu := { u.lmu with subscriptions := tab fun _ => none }
            sil := { u.sil with load := .loading .restart } }
      else answered f tag 0x02 [9] u)

/-- CLOCK_SET (R14, R15): refused RANGE for no source, a code above 5 or a repeated source; otherwise the list, and the
timer lengths when they are present, are replaced, the list is evaluated, and the response carries OK, the clock state and
the source (255 when not LOCKED); a change of state or source hands a CLOCK notice to every ONLINE feed. -/
def Obligations.ClockSetReplacesList : Prop :=
  ∀ (s : State) (f : Feed) (tag : Byte) (codes : List Byte) (lengths : Option (Byte × Byte × Byte)),
    codes.length ≤ 4 → s.serves f →
    let u := reach f s
    u.sil.load = .ready → f = u.cle.supervisor →
    let ps := BitVec.ofNat 8 codes.length :: codes ++
      match lengths with
      | some (revert, hi, lo) => [revert, hi, lo]
      | none => []
    let source (c : Byte) : ClockSource :=
      if c = 0 then .internal else if c = 1 then .wordclock else .feed (Fin.ofNat 4 (c.toNat - 2))
    let listed : Ftu := { u.ftu with
      sources := codes.map source
      revertDelay := match lengths with | some (revert, _, _) => revert | none => u.ftu.revertDelay
      holdoverLimit := match lengths with | some (_, hi, lo) => hi ++ lo | none => u.ftu.holdoverLimit }
    let new := listed.evaluate u.available
    exec (.clockSet f tag ps) s = .next
      (if codes = [] ∨ (∃ c ∈ codes, 5 < c.toNat) ∨ ¬ codes.Nodup then answered f tag 0x04 [7] u
      else answered f tag 0x04 [0, new.clock.byte, new.clock.sourceByte]
        (told (toFeeds (fun _ => decide (new.clock ≠ u.ftu.clock)) (.clock new.clock u.ftu.frame))
          { u with ftu := new }))

/-- MAP_WINDOWS (R18, R22 to R25): each window is refused, taken or taken reduced by the table of R24; the first refused one
refuses the request with RANGE and its index; otherwise the list and its expansion, cut at the capacity of the rate mode,
are pending from the next frame on, and the response carries OK or CLAMPED and the slot count. -/
def Obligations.MapWindowsPends : Prop :=
  ∀ (s : State) (f : Feed) (tag : Byte) (ws : List (Byte × Byte × Byte × Byte)),
    ws.length ≤ 8 → s.serves f →
    let u := reach f s
    u.sil.load = .ready →
    let outcome : Byte × Byte × Byte × Byte → Option (Window × Bool) := fun (kind, first, count, order) =>
      let a := first.toNat
      let n := count.toNat
      if 2 < kind.toNat ∨ n = 0 then none
      else if kind = 0 then
        if 1 < order.toNat ∨ 47 < a then none
        else if order = 0 then some (.input a (min n (48 - a)) .straight, decide (48 < a + n))
        else if n % 2 = 1 then none
        else if a + n ≤ 48 then some (.input a n .interleaved, false)
        else if 48 - a < 2 then none
        else some (.input a (48 - a - (48 - a) % 2) .interleaved, true)
      else if 64 < n then none
      else some (if kind = 1 then .silence n else .pattern n, false)
    let held := (ws.filterMap outcome).map (·.1)
    let slots := held.flatMap Window.expand
    let room := match u.ftu.rate with | .k48 => 64 | .k96 => 32
    let ps := BitVec.ofNat 8 ws.length :: ws.flatMap fun (kind, first, count, order) => [kind, first, count, order]
    ((∀ w ∈ ws, outcome w ≠ none) →
      exec (.mapWindows f tag ps) s = .next
        (answered f tag 0x08
          [if room < slots.length ∨ (ws.filterMap outcome).any (·.2) = true then 1 else 0,
            BitVec.ofNat 8 (min room slots.length)]
          { u with smu := { maps := tab fun g =>
              if g = f then
                { u.smu.maps[f] with
                  pending := some { map := { windows := held, slots := slots.take room }, start := u.ftu.frame + 1 } }
              else u.smu.maps[g] } })) ∧
    ∀ idx w, ws[idx]? = some w → outcome w = none → (∀ j v, j < idx → ws[j]? = some v → outcome v ≠ none) →
      exec (.mapWindows f tag ps) s = .next (answered f tag 0x08 [7, BitVec.ofNat 8 idx] u)

/-- The expansion of windows. An INPUT window in INTERLEAVED order (R20): of an even count, entry 2j is input first + j and
entry 2j + 1 is input first + h + j, h being half the count. An INPUT window in STRAIGHT order gives its inputs first to
first + count − 1 in order (R19); SILENCE and PATTERN windows give count such entries (R21). -/
def Obligations.InterleavedWindowAlternates : Prop :=
  (∀ first h : Nat, first + 2 * h ≤ 48 →
    (Window.expand (.input first (2 * h) .interleaved)).length = 2 * h ∧
    ∀ j, j < h →
      (∃ i : Input, (Window.expand (.input first (2 * h) .interleaved))[2 * j]? = some (.input i) ∧
        i.val = first + j) ∧
      ∃ i : Input, (Window.expand (.input first (2 * h) .interleaved))[2 * j + 1]? = some (.input i) ∧
        i.val = first + h + j) ∧
  (∀ first count : Nat, first + count ≤ 48 →
    (Window.expand (.input first count .straight)).length = count ∧
    ∀ j, j < count → ∃ i : Input, (Window.expand (.input first count .straight))[j]? = some (.input i) ∧
      i.val = first + j) ∧
  ∀ count : Nat,
    (∀ w ∈ [(Window.silence count, SlotEntry.silence), (Window.pattern count, SlotEntry.pattern)],
      (Window.expand w.1).length = count ∧ ∀ e ∈ Window.expand w.1, e = w.2)

/-- The reading requests MAP_GET, TAP_GET, HA_GET, CLIP_GET, LAW_GET and SCN_LIST (R27, R52, R69, R77, R121, R159): each
answers OK with its fields as they stand at execution (LAW_GET is refused RANGE for a table or source above 1 or a block
above 3) and changes nothing. -/
def Obligations.ReadsReportAndChangeNothing : Prop :=
  ∀ (s : State) (f : Feed) (tag : Byte), s.serves f →
    let u := reach f s
    u.sil.load = .ready →
    let b (x : Bool) : Byte := if x then 1 else 0
    let signed (x : Int) : List Byte := be 2 (x % 65536).toNat
    let amp (v : HeadAmp) : List Byte := [BitVec.ofNat 8 v.code.val, b v.pad, b v.phantom]
    exec (.mapGet f tag []) s = .next
      (answered f tag 0x09
        ([0, BitVec.ofNat 8 (u.slotMap f).slots.length, BitVec.ofNat 8 (u.slotMap f).windows.length] ++
          (u.slotMap f).windows.flatMap fun w =>
            match w with
            | .input first count .straight => [0, BitVec.ofNat 8 first, BitVec.ofNat 8 count, 0]
            | .input first count .interleaved => [0, BitVec.ofNat 8 first, BitVec.ofNat 8 count, 1]
            | .silence count => [1, 0, BitVec.ofNat 8 count, 0]
            | .pattern count => [2, 0, BitVec.ofNat 8 count, 0]) u) ∧
    exec (.scnList f tag []) s = .next
      (answered f tag 0x2C
        ([0, b (u.openScene f).isSome,
            BitVec.ofNat 8 (match u.openScene f with | some es => es.length | none => 0),
            BitVec.ofNat 8 u.scu.scheduled.length,
            BitVec.ofNat 8 (u.scu.scheduled.countP fun x => decide (x.feed = f))] ++
          (u.scu.scheduled.filter fun x => decide (x.feed = f)).flatMap fun x => x.id :: be 4 x.frame.toNat) u) ∧
    (∀ table source block : Byte,
      exec (.lawGet f tag [table, source, block]) s = .next
        (if 1 < table.toNat ∨ 1 < source.toNat ∨ 3 < block.toNat then answered f tag 0x1C [7] u
        else if table = 0 then
          answered f tag 0x1C
            ([0, 0, source, block, BitVec.ofNat 8 (u.tgu.marks[0].toNat + 2 * u.tgu.marks[1].toNat +
                4 * u.tgu.marks[2].toNat + 8 * u.tgu.marks[3].toNat)] ++
              (List.finRange 12).flatMap fun k : Fin 12 =>
                be 3 ((if source = 0 then u.tgu.law u.ftu.frame else u.tgu.staging).toList.getD
                  (12 * block.toNat + k.val) 0).toNat) u
        else
          answered f tag 0x1C
            ([0, 1, source, block, BitVec.ofNat 8 (u.hac.marks[0].toNat + 2 * u.hac.marks[1].toNat +
                4 * u.hac.marks[2].toNat + 8 * u.hac.marks[3].toNat)] ++
              (List.finRange 16).flatMap fun k : Fin 16 =>
                be 2 ((if source = 0 then u.hac.plt else u.hac.staging).toList.getD
                  (16 * block.toNat + k.val) 0).toNat) u)) ∧
    ∀ (inputForm : Bool) (m : Byte) (i : Input), (inputForm = true → f = u.cle.supervisor) →
      u.translate f inputForm m.toNat = .ok i →
      let ps : List Byte := [if inputForm then 0x80 else 0, m]
      let t := u.tap f i
      let c := u.channel i
      let x := u.lmu.clips[i]
      exec (.tapGet f tag ps) s = .next
        (answered f tag 0x14
          ([0, BitVec.ofNat 8 i.val, b t.tracks] ++ signed t.offset ++
            (match t.mode with
              | .follow => [0, 0, 0, 0, 0]
              | .track n => 1 :: be 4 (n % 4294967296).toNat) ++
            signed t.target ++ signed t.current ++ [b t.mute, b t.limit]) u) ∧
      exec (.haGet f tag ps) s = .next
        (answered f tag 0x22
          ([0, BitVec.ofNat 8 i.val] ++ amp c.desired ++ [b (u.queued i).isSome] ++
            (match c.inFlight with
              | none => [0, 0, 0, 0, 0, 0, 0, 0, 0, 0, 0, 0]
              | some w => 1 :: amp w.value ++ be 4 w.sent.toNat ++ be 4 w.effective.toNat) ++
            amp c.live ++ signed c.gain ++
            [match c.owner with | some k => BitVec.ofNat 8 k.val | none => 4] ++
            match c.settle with
            | .absent => [0, 0, 0, 0, 0]
            | .ends frame => 1 :: be 4 frame.toNat
            | .held => [2, 0, 0, 0, 0]) u) ∧
      exec (.clipGet f tag ps) s = .next
        (answered f tag 0x33
          ([0, BitVec.ofNat 8 i.val, ((match x.mode with | .off => 0 | .oneShot => 1 | .cyclic => 2) : Byte)] ++
            be 3 x.threshold ++ be 3 x.rearm ++
            [((match x.state with | .armed => 0 | .captured => 1 | .waitRearm => 2) : Byte)] ++
            be 4 x.frame.toNat ++ [BitVec.ofNat 8 x.code.val, b x.pad] ++ be 3 x.magnitude ++
            [BitVec.ofNat 8 x.count]) u)

/-! ### Requests on taps and laws -/

/-- TAP_TRIM, TAP_MUTE, FEED_GLIDE (R36, R37, R45, R51, R53): every addressed tap takes the value, or its own offset plus the
value, limited to −320 to +192, as its offset, and the target and flag of R36, its current, mode and mute staying; the result
is CLAMPED when a limit changed an offset; a change of flag hands a LIMIT notice to the feed. The mute of every addressed tap
is set or cleared and nothing else of it changes. The feed's glide rate becomes the value, at most 15, with CLAMPED above
it, and the response carries it. Nothing else changes. -/
def Obligations.TapTrimMuteAndGlide : Prop :=
  ∀ (s : State) (f : Feed) (tag : Byte), s.serves f →
    let u := reach f s
    u.sil.load = .ready →
    (∀ (ps : List Byte) (set : ChannelSet) (is : List Input), (set.inputForm = true → f = u.cle.supervisor) →
      u.resolve f set noCheck = .ok is →
      (∀ kind hi lo : Byte, parseSet ps = some (set, [kind, hi, lo]) → kind.toNat ≤ 1 →
        let wanted (i : Input) : Int := (hi ++ lo).toInt + if kind = 1 then (u.tap f i).offset else 0
        let limited (x : Int) : Int := if x < -320 then -320 else if 192 < x then 192 else x
        let new (i : Input) : Tap :=
          let t := u.tap f i
          let o := limited (wanted i)
          match t.mode with
          | .follow => { t with offset := o, target := o, limit := false }
          | .track n =>
            let x := o + n - (u.channel i).gain
            { t with offset := o, target := limited x, limit := decide (x < -320 ∨ 192 < x) }
        exec (.tapTrim f tag ps) s = .next
          (answered f tag 0x10 [if ∃ i ∈ is, wanted i < -320 ∨ 192 < wanted i then 1 else 0]
            (told (toFeed f (limitNotices f is new u)) { u with tgu := { u.tgu with taps := tapsWith f is new u } }))) ∧
      ∀ on : Bool, parseSet ps = some (set, [if on then 1 else 0]) →
        exec (.tapMute f tag ps) s = .next
          (answered f tag 0x13 [0]
            { u with tgu := { u.tgu with taps := tapsWith f is (fun i => { u.tap f i with mute := on }) u } })) ∧
    ∀ g : Byte,
      exec (.feedGlide f tag [g]) s = .next
        (answered f tag 0x15 [if 15 < g.toNat then 1 else 0, if 15 < g.toNat then 15 else g]
          { u with
            tgu :=
              { u.tgu with
                glide := tab fun k =>
                  if k = f then Fin.ofNat 16 (if 15 < g.toNat then 15 else g.toNat) else u.tgu.glide[k] } })

/-- TAP_MODE, TAP_ANCHOR (R47 to R49), in states whose taps are sound (R36): a FOLLOW tap set to TRACK is anchored at the live
A; a TRACK tap set to FOLLOW, and a tap re-anchored, take their target as offset, with the flag clear; a tap in the mode
asked for stays; no target and no current moves; a flag that clears hands a LIMIT notice; nothing else changes. -/
def Obligations.TapModeAndAnchorKeepLevels : Prop :=
  ∀ (s : State) (f : Feed) (tag : Byte) (ps : List Byte) (set : ChannelSet) (is : List Input),
    s.serves f →
    let u := reach f s
    u.sil.load = .ready → (set.inputForm = true → f = u.cle.supervisor) →
    u.tapsSound → u.resolve f set noCheck = .ok is →
    let result (new : Input → Tap) : State :=
      told (toFeed f (limitNotices f is new u)) { u with tgu := { u.tgu with taps := tapsWith f is new u } }
    (parseSet ps = some (set, [1]) →
      exec (.tapMode f tag ps) s = .next (answered f tag 0x11 [0] (result fun i =>
        match (u.tap f i).mode with
        | .follow => { u.tap f i with mode := .track (u.channel i).gain }
        | .track _ => u.tap f i))) ∧
    (parseSet ps = some (set, [0]) →
      exec (.tapMode f tag ps) s = .next (answered f tag 0x11 [0] (result fun i =>
        match (u.tap f i).mode with
        | .follow => u.tap f i
        | .track _ => { u.tap f i with mode := .follow, offset := (u.tap f i).target, limit := false }))) ∧
    (parseSet ps = some (set, []) → (∀ i ∈ is, (u.tap f i).tracks = true) →
      exec (.tapAnchor f tag ps) s = .next (answered f tag 0x12 [0] (result fun i =>
        { u.tap f i with
          mode := .track (u.channel i).gain, offset := (u.tap f i).target, limit := false })))

/-- LAW_STAGE, PLAW_STAGE (R65, R87): a block number above 3 is refused RANGE; otherwise the values, most significant byte
first, replace the block's entries of the staging copy, unchecked, and its mark is set; nothing else changes. -/
def Obligations.StagingWritesOneBlock : Prop :=
  ∀ (s : State) (f : Feed) (tag block : Byte) (bytes : List Byte),
    s.serves f →
    let u := reach f s
    u.sil.load = .ready → f = u.cle.supervisor →
    let at8 (k : Nat) : Nat := (bytes.getD k 0).toNat
    (bytes.length = 36 →
      exec (.lawStage f tag (block :: bytes)) s = .next
        (if 3 < block.toNat then answered f tag 0x18 [7] u
        else answered f tag 0x18 [0]
          { u with tgu :=
            { u.tgu with
              staging := tab fun r =>
                if r.val / 12 = block.toNat then
                  BitVec.ofNat 24 (65536 * at8 (3 * (r.val % 12)) + 256 * at8 (3 * (r.val % 12) + 1) +
                    at8 (3 * (r.val % 12) + 2))
                else u.tgu.staging[r]
              marks := tab fun k => if k.val = block.toNat then true else u.tgu.marks[k] } })) ∧
    (bytes.length = 32 →
      exec (.plawStage f tag (block :: bytes)) s = .next
        (if 3 < block.toNat then answered f tag 0x1A [7] u
        else answered f tag 0x1A [0]
          { u with hac :=
            { u.hac with
              staging := tab fun k =>
                if k.val / 16 = block.toNat then
                  BitVec.ofNat 16 (256 * at8 (2 * (k.val % 16)) + at8 (2 * (k.val % 16) + 1))
                else u.hac.staging[k]
              marks := tab fun k => if k.val = block.toNat then true else u.hac.marks[k] } }))

/-- LAW_APPLY (R66 to R68): without all four marks refused STATE; a staging copy that fails refused RANGE with the check and
the first failing entry; otherwise OK, the staging copy is pending from the next frame on, the marks are clear and every
ONLINE feed is handed a LAW notice with that frame; nothing else changes. -/
def Obligations.LawApplyPendsStagedLaw : Prop :=
  ∀ (s : State) (f : Feed) (tag : Byte), s.serves f →
    let u := reach f s
    u.sil.load = .ready → f = u.cle.supervisor →
    let m := u.tgu.staging
    let marked : Prop := ∀ b : Fin 4, u.tgu.marks[b] = true
    let low (r : Fin 48) : Prop := m[r].toNat < 4194304
    let falls (r : Fin 48) : Prop := ∃ p : Fin 48, p.val + 1 = r.val ∧ m[r].toNat < m[p].toNat
    (¬ marked → exec (.lawApply f tag []) s = .next (answered f tag 0x19 [8] u)) ∧
    (marked → ∀ r : Fin 48, (low r ∨ falls r) → (∀ k, k < r → ¬ low k ∧ ¬ falls k) →
      (low r → exec (.lawApply f tag []) s = .next (answered f tag 0x19 [7, 0, BitVec.ofNat 8 r.val] u)) ∧
      (¬ low r → exec (.lawApply f tag []) s = .next (answered f tag 0x19 [7, 1, BitVec.ofNat 8 r.val] u))) ∧
    (marked → (∀ r, ¬ low r ∧ ¬ falls r) → 2 * m[0].toNat < m[47].toNat →
      exec (.lawApply f tag []) s = .next (answered f tag 0x19 [7, 2, 47] u)) ∧
    (marked → lawSound m →
      exec (.lawApply f tag []) s = .next
        (answered f tag 0x19 [0]
          (told (toFeeds (fun _ => true) (.law .glt (u.ftu.frame + 1)))
            { u with tgu :=
              { u.tgu with
                pending := some { table := m, start := u.ftu.frame + 1 }, marks := tab fun _ => false } })))

/-- PLAW_APPLY (R43, R88, R89): without all four marks refused STATE; an entry above 511, or below the one before it, refused
RANGE with check 0 or 1 and the first such entry; otherwise the staging copy is in effect, the marks are clear and every A
is recomputed. In states whose taps are sound, and whose gains are sound or no anchor leaves its 32 bits, every TRACK anchor
moves by ΔA, every target, current and flag stays, and the only notice is a LAW notice to every ONLINE feed. An anchor that
would leave its 32 bits is then some 32-bit value at which R36 gives the same target and flag (a free value, log entry 12). In
any state the request completes and no offset, current or mute moves. -/
def Obligations.PlawApplyKeepsLevels : Prop :=
  ∀ (s : State) (f : Feed) (tag : Byte), s.serves f →
    let u := reach f s
    u.sil.load = .ready → f = u.cle.supervisor →
    let p := u.hac.staging
    let marked : Prop := ∀ b : Fin 4, u.hac.marks[b] = true
    let high (k : Fin 64) : Prop := 511 < p[k].toNat
    let falls (k : Fin 64) : Prop := ∃ j : Fin 64, j.val + 1 = k.val ∧ p[k].toNat < p[j].toNat
    let gain (i : Input) : Int := (p[(u.channel i).live.code].toNat : Int) +
      if (u.channel i).live.pad then u.hac.padValue else 0
    let hac : Hac := { u.hac with
      plt := p, marks := tab fun _ => false, channels := tab fun i => { u.channel i with gain := gain i } }
    (¬ marked → exec (.plawApply f tag []) s = .next (answered f tag 0x1B [8] u)) ∧
    (marked → ∀ k : Fin 64, (high k ∨ falls k) → (∀ j, j < k → ¬ high j ∧ ¬ falls j) →
      (high k → exec (.plawApply f tag []) s = .next (answered f tag 0x1B [7, 0, BitVec.ofNat 8 k.val] u)) ∧
      (¬ high k → exec (.plawApply f tag []) s = .next (answered f tag 0x1B [7, 1, BitVec.ofNat 8 k.val] u))) ∧
    (marked → plawSound p → ∃ t, exec (.plawApply f tag []) s = .next t ∧ t.hac = hac ∧
      (∀ (g : Feed) (i : Input), (t.tap g i).offset = (u.tap g i).offset ∧ (t.tap g i).current = (u.tap g i).current ∧
        (t.tap g i).mute = (u.tap g i).mute ∧ (t.tap g i).tracks = (u.tap g i).tracks) ∧
      onlyBlocks [.tgu, .hac, .cle, .lnk] u t) ∧
    let fits (x : Int) : Prop := -2147483648 ≤ x ∧ x ≤ 2147483647
    let moved (i : Input) (n : Int) : Int := n + (gain i - (u.channel i).gain)
    (marked → plawSound p → u.tapsSound →
      (u.gainsSound ∨ ∀ (g : Feed) (i : Input) (n : Int), (u.tap g i).mode = .track n → fits (moved i n)) →
      ∃ free : Feed → Input → Int,
      (∀ (g : Feed) (i : Input) (n : Int), (u.tap g i).mode = .track n → ¬ fits (moved i n) →
        fits (free g i) ∧ ({ u.tap g i with mode := .track (free g i) } : Tap).sound (gain i)) ∧
      exec (.plawApply f tag []) s = .next
        (answered f tag 0x1B [0]
          (told (toFeeds (fun _ => true) (.law .plt u.ftu.frame))
            { u with
              hac := hac
              tgu := { u.tgu with taps := tab fun g => tab fun i =>
                { u.tap g i with mode :=
                    match (u.tap g i).mode with
                    | .follow => .follow
                    | .track n => .track (if fits (moved i n) then moved i n else free g i) } } })))

/-! ### Requests on head-amps, owners, scenes, meters and clip records -/

/-- HA_SET, HA_NUDGE (R75, R76), all inputs owned by the feed: each channel, in list order, takes the change (R73) that sets
the present fields (a code above 63 as 63), or moves the desired code by the delta, limited to 0 to 63; the result is
CLAMPED when a code was limited; nothing else changes. -/
def Obligations.HeadAmpRequestsChangeChannels : Prop :=
  ∀ (s : State) (f : Feed) (tag : Byte) (ps : List Byte) (set : ChannelSet) (is : List Input),
    s.serves f →
    let u := reach f s
    u.sil.load = .ready → (set.inputForm = true → f = u.cle.supervisor) →
    u.resolve f set (fun i => if (u.channel i).owner = some f then none else some .notOwner) = .ok is →
    let changed (g : HeadAmp → HeadAmp) : State :=
      { u with hac := is.foldl (fun h i => h.change i (g (u.channel i).desired)) u.hac }
    (∀ (code : Option Byte) (pad phantom : Option Bool), ¬ (code = none ∧ pad = none ∧ phantom = none) →
      parseSet ps = some (set,
        BitVec.ofNat 8 (code.isSome.toNat + 2 * pad.isSome.toNat + 4 * phantom.isSome.toNat) ::
          (code.toList ++ (pad.toList ++ phantom.toList).map fun b => if b then 1 else 0)) →
      exec (.haSet f tag ps) s = .next
        (answered f tag 0x20 [if (code.any fun n => decide (63 < n.toNat)) = true then 1 else 0]
          (changed fun v =>
            { code := match code with
                | some n => Fin.ofNat 64 (min n.toNat 63)
                | none => v.code
              pad := pad.getD v.pad
              phantom := phantom.getD v.phantom }))) ∧
    ∀ d : Byte, -63 ≤ d.toInt → d.toInt ≤ 63 → parseSet ps = some (set, [d]) →
      let wanted (v : HeadAmp) : Int := (v.code.val : Int) + d.toInt
      exec (.haNudge f tag ps) s = .next
        (answered f tag 0x21
          [if ∃ i ∈ is, wanted (u.channel i).desired < 0 ∨ 63 < wanted (u.channel i).desired then 1 else 0]
          (changed fun v =>
            { v with code :=
                if wanted v < 0 then 0 else if 63 < wanted v then 63 else Fin.ofNat 64 (wanted v).toNat }))

/-- OWN_CLAIM, OWN_RELEASE, OWN_ASSIGN, SUPERVISOR_SET (R97 to R99, R101 to R104): an accepted claim makes the feed the owner
of every channel, an offline owner's by takeover; a release makes it NONE; an assignment the named owner; the response
carries the counts; each change of owner hands an OWNER notice to the ONLINE feeds that carry the input and to the previous
owner. A claim refused with OWNED changes no owner and hands a CLAIM_SEEN notice for each such input to its owner.
SUPERVISOR_SET moves the role to an ONLINE feed. -/
def Obligations.OwnershipRequests : Prop :=
  ∀ (s : State) (f : Feed) (tag : Byte), s.serves f →
    let u := reach f s
    u.sil.load = .ready →
    let given (new : Option Feed) (cause : Input → OwnerCause) (is : List Input) : State :=
      told (fun g => (is.filter fun i => decide ((u.channel i).owner ≠ new ∧
            (u.carries g i = true ∨ (u.channel i).owner = some g))).map fun i =>
          .owner i new (u.channel i).owner (cause i) u.ftu.frame)
        { u with hac := { u.hac with channels := tab fun i =>
            if i ∈ is then { u.channel i with owner := new } else u.channel i } }
    let changes (new : Option Feed) (is : List Input) : Byte :=
      BitVec.ofNat 8 (is.countP fun i => decide ((u.channel i).owner ≠ new))
    let others (online : Bool) (i : Input) : Bool :=
      match (u.channel i).owner with
      | some k => decide (k ≠ f) && decide (u.online k = online)
      | none => false
    (∀ (ps : List Byte) (set : ChannelSet), parseSet ps = some (set, []) →
      (set.inputForm = true → f = u.cle.supervisor) →
      let claimed := u.resolve f set fun i => if others true i then some .owned else none
      let released := u.resolve f set fun i => if (u.channel i).owner = some f then none else some .notOwner
      (∀ is, claimed = .ok is →
        exec (.ownClaim f tag ps) s = .next
          (answered f tag 0x24
            [if ∃ i ∈ is, others false i = true then 2 else 0, changes (some f) is,
              BitVec.ofNat 8 (is.countP (others false))]
            (given (some f) (fun i => if others false i then .takeover else .claim) is))) ∧
      (∀ pos, claimed = .error (.owned, pos) →
        let translated := (set.members.filterMap fun m => (u.translate f set.inputForm m).toOption).eraseDups
        exec (.ownClaim f tag ps) s = .next
          (answered f tag 0x24 [4, BitVec.ofNat 8 pos]
            (told (fun g => (translated.filter fun i => decide ((u.channel i).owner = some g ∧ g ≠ f)).map fun i =>
              .claimSeen i f u.ftu.frame) u))) ∧
      (∀ is, released = .ok is →
        exec (.ownRelease f tag ps) s = .next
          (answered f tag 0x25 [0, BitVec.ofNat 8 is.length] (given none (fun _ => .release) is)))) ∧
    (∀ (ps : List Byte) (set : ChannelSet) (b : Byte) (is : List Input), f = u.cle.supervisor →
      parseSet ps = some (set, [b]) → b.toNat ≤ 4 → u.resolve f set noCheck = .ok is →
      let new : Option Feed := if b = 4 then none else some (Fin.ofNat 4 b.toNat)
      exec (.ownAssign f tag ps) s = .next
        (answered f tag 0x26 [0, changes new is] (given new (fun _ => .assign) is))) ∧
    ∀ b : Byte, f = u.cle.supervisor →
      exec (.supervisorSet f tag [b]) s = .next
        (if 3 < b.toNat then answered f tag 0x27 [7] u
        else if u.online (Fin.ofNat 4 b.toNat) = false then answered f tag 0x27 [8] u
        else answered f tag 0x27 [0, b] { u with cle := { u.cle with supervisor := Fin.ofNat 4 b.toNat } })

/-- SCN_OPEN, SCN_ADD, SCN_CANCEL (R109 to R112, R120): opening is refused STATE over an open scene; adding without one is
refused STATE, and BUSY past 24 entries; an added entry takes the place of the entry of its kind and input, or joins at the
end, with its value limited (CLAMPED), and the response carries the three counts; cancelling discards the open scene, or
the feed's own scheduled scene of an id, and is refused STATE when there is none. -/
def Obligations.SceneEditing : Prop :=
  ∀ (s : State) (f : Feed) (tag : Byte), s.serves f →
    let u := reach f s
    u.sil.load = .ready →
    let opened (x : Option (List SceneEntry)) : State :=
      { u with scu := { u.scu with opened := tab fun g => if g = f then x else u.openScene g } }
    let adds (kind : Byte) (fields : List Byte) (value : EntryValue) (limited : Prop) : Prop :=
      ∀ (ps : List Byte) (set : ChannelSet), parseSet ps = some (set, fields) →
        (set.inputForm = true → f = u.cle.supervisor) →
        (u.openScene f = none → exec (.scnAdd f tag (kind :: ps)) s = .next (answered f tag 0x29 [8] u)) ∧
        ∀ scene is, u.openScene f = some scene → u.resolve f set noCheck = .ok is →
          let fresh := is.filter fun i =>
            scene.all fun e => !decide (e.input = i ∧ e.value.kind = kind.toNat)
          let result := (scene.map fun e =>
              if e.input ∈ is ∧ e.value.kind = kind.toNat then { e with value := value } else e) ++
            fresh.map fun i => { input := i, value := value }
          (24 < scene.length + fresh.length →
            exec (.scnAdd f tag (kind :: ps)) s = .next (answered f tag 0x29 [9] u)) ∧
          (scene.length + fresh.length ≤ 24 → ∃ code : Byte, (limited → code = 1) ∧ (¬ limited → code = 0) ∧
            exec (.scnAdd f tag (kind :: ps)) s = .next
              (answered f tag 0x29
                [code, BitVec.ofNat 8 (scene.length + fresh.length), BitVec.ofNat 8 fresh.length,
                  BitVec.ofNat 8 (is.length - fresh.length)]
                (opened (some result))))
    exec (.scnOpen f tag []) s = .next
      (if u.openScene f = none then answered f tag 0x28 [0] (opened (some [])) else answered f tag 0x28 [8] u) ∧
    (∀ (code : Option Byte) (pad phantom : Option Bool), ¬ (code = none ∧ pad = none ∧ phantom = none) →
      adds 0
        (BitVec.ofNat 8 (code.isSome.toNat + 2 * pad.isSome.toNat + 4 * phantom.isSome.toNat) ::
          (code.toList ++ (pad.toList ++ phantom.toList).map fun b => if b then 1 else 0))
        (.headAmp (code.map fun n => Fin.ofNat 64 (min n.toNat 63)) pad phantom)
        (∃ n, code = some n ∧ 63 < n.toNat)) ∧
    (∀ hi lo : Byte,
      let x : Int := (hi ++ lo).toInt
      adds 1 [hi, lo] (.trim (if x < -320 then -320 else if 192 < x then 192 else x)) (x < -320 ∨ 192 < x)) ∧
    (∀ on : Bool, adds 2 [if on then 1 else 0] (.mute on) False) ∧
    exec (.scnCancel f tag [0]) s = .next
      (if u.openScene f = none then answered f tag 0x2B [8] u else answered f tag 0x2B [0] (opened none)) ∧
    ∀ id : Byte,
      exec (.scnCancel f tag [1, id]) s = .next
        (if (u.scu.scheduled.any fun x => decide (x.id = id ∧ x.feed = f)) = true then
          answered f tag 0x2B [0]
            { u with scu := { u.scu with
              scheduled := u.scu.scheduled.filter fun x => !decide (x.id = id ∧ x.feed = f) } }
        else answered f tag 0x2B [8] u)

/-- SCN_COMMIT (R113 to R115): refused STATE without an open scene or with an empty one; mode 0, and mode 1 for a frame that
is not ahead, execute the scene at once and report its counts; a frame more than 16,777,215 ahead is refused RANGE; a fifth
scheduled scene BUSY; otherwise the scene takes the first free id from the counter on, joins the list after every scene
whose frame is not after its own, and the counter moves past its id. In each accepted case the open scene is gone. (That the
ids of waiting scenes are passed over at the commit that takes an id, so that the counter is left at the id after it, whether a
scene waits with that or not, is the model's choice, log entry 25.) -/
def Obligations.SceneCommit : Prop :=
  ∀ (s : State) (f : Feed) (tag : Byte), s.serves f →
    let u := reach f s
    u.sil.load = .ready → u.scu.nextId ≠ 0 →
    let opened : Vector (Option (List SceneEntry)) 4 := tab fun g => if g = f then none else u.openScene g
    (u.openScene f = none ∨ u.openScene f = some [] →
      exec (.scnCommit f tag [0]) s = .next (answered f tag 0x2A [8] u) ∧
      ∀ a b c d : Byte, exec (.scnCommit f tag [1, a, b, c, d]) s = .next (answered f tag 0x2A [8] u)) ∧
    ∀ scene, u.openScene f = some scene → scene ≠ [] →
      let r := runScene f scene { u with scu := { u.scu with opened := opened } }
      let executed := answered f tag 0x2A
        [0, 0, BitVec.ofNat 8 r.2.applied, BitVec.ofNat 8 r.2.skipped, BitVec.ofNat 8 r.2.first] r.1
      exec (.scnCommit f tag [0]) s = .next executed ∧
      ∀ a b c d : Byte,
        let x : FrameNo := a ++ b ++ c ++ d
        let waiting := u.scu.scheduled
        let id : Byte := (((List.range 5).map fun k => BitVec.ofNat 8 ((u.scu.nextId.toNat - 1 + k) % 255 + 1)).find?
          fun i : Byte => waiting.all fun y => decide (y.id ≠ i)).getD 0
        exec (.scnCommit f tag [1, a, b, c, d]) s = .next
          (if lead x u.ftu.frame ≤ 0 then executed
          else if 16777215 < lead x u.ftu.frame then answered f tag 0x2A [7] u
          else if 4 ≤ waiting.length then answered f tag 0x2A [9] u
          else answered f tag 0x2A [0, id, a, b, c, d]
            { u with scu :=
              { opened := opened
                scheduled := waiting.takeWhile (fun y => decide (0 ≤ lead x y.frame)) ++
                  { id := id, feed := f, frame := x, entries := scene } ::
                    waiting.dropWhile fun y => decide (0 ≤ lead x y.frame)
                nextId := BitVec.ofNat 8 (id.toNat % 255 + 1) } })

/-- MTR_SUBSCRIBE, CLIP_SET, CLIP_ACK (R153, R158, R106): a subscription replaces the feed's one, with its inputs in set
order, accumulators 0 and its first period end P × 256 frames on; a period byte alone removes it; the clip records of a set,
owned by the feed or addressed by the supervising feed, take mode, threshold and re-arm level in their limits, or keep them,
and are ARMED with the captured fields and the count 0. -/
def Obligations.SubscribeAndClipRequests : Prop :=
  ∀ (s : State) (f : Feed) (tag : Byte), s.serves f →
    let u := reach f s
    u.sil.load = .ready →
    let subscribed (x : Option Subscription) : State :=
      { u with lmu := { u.lmu with
        subscriptions := tab fun g => if g = f then x else u.lmu.subscriptions[g] } }
    let clipped (is : List Input) (new : Clip → Clip) : State :=
      { u with lmu := { u.lmu with
        clips := tab fun i => if i ∈ is then new u.lmu.clips[i] else u.lmu.clips[i] } }
    (∀ p : Byte, exec (.mtrSubscribe f tag [p]) s = .next (answered f tag 0x30 [0, 0] (subscribed none))) ∧
    ∀ (ps : List Byte) (set : ChannelSet) (rest : List Byte), parseSet ps = some (set, rest) →
      (set.inputForm = true → f = u.cle.supervisor) →
      (∀ (p : Byte) is, rest = [] → u.resolve f set noCheck = .ok is →
        let period : Byte := if p = 0 then 1 else p
        exec (.mtrSubscribe f tag (p :: ps)) s = .next
          (answered f tag 0x30
            ((if p = 0 then 1 else 0) :: BitVec.ofNat 8 is.length :: is.map fun i => BitVec.ofNat 8 i.val)
            (subscribed (some
              { period := period, ends := u.ftu.frame + BitVec.ofNat 32 (period.toNat * 256),
                peaks := is.map fun i => (i, 0) })))) ∧
      ∀ is, u.resolve f set (fun i =>
          if (u.channel i).owner = some f ∨ f = u.cle.supervisor then none else some .notOwner) = .ok is →
        (rest = [] →
          exec (.clipAck f tag ps) s = .next
            (answered f tag 0x32 [0] (clipped is fun c =>
              { mode := c.mode, threshold := c.threshold, rearm := c.rearm, state := .armed, frame := 0, code := 0,
                pad := false, magnitude := 0, count := 0 }))) ∧
        ∀ m t2 t1 t0 r2 r1 r0 : Byte, m.toNat ≤ 2 → rest = [m, t2, t1, t0, r2, r1, r0] →
          let t := 65536 * t2.toNat + 256 * t1.toNat + t0.toNat
          let r := 65536 * r2.toNat + 256 * r1.toNat + r0.toNat
          let threshold := if t = 0 then 1 else if 8388607 < t then 8388607 else t
          let rearm := if threshold < r then threshold else r
          exec (.clipSet f tag ps) s = .next
            (answered f tag 0x31 [if threshold ≠ t ∨ rearm ≠ r then 1 else 0] (clipped is fun _ =>
              { mode := if m = 0 then .off else if m = 1 then .oneShot else .cyclic
                threshold := threshold, rearm := rearm, state := .armed, frame := 0, code := 0, pad := false,
                magnitude := 0, count := 0 }))

/-! ### What a request cannot reach, and what a frame leaves -/

/-- A request of feed `f`, whatever its kind, parameters and the state (R29, R54, R95, R97, R105): no tap of another feed
moves, but by PLAW_APPLY; no glide rate, map, open scene, subscription or scheduled scene of another feed, but by DEV_RESTART;
desired values change only on channels that the feed owns; no request moves live values or an in-flight write; and a channel
of another ONLINE feed stays its owner's, but by OWN_ASSIGN. -/
def Obligations.RequestsKeepToTheirFeed : Prop :=
  ∀ (s : State) (c : Instr) (f : Feed) (tag kind : Byte) (ps : List Byte),
    c.request = some (f, tag, kind, ps) → s.serves f →
    let u := reach f s
    ∃ t, exec c s = .next t ∧
      (kind ≠ 0x1B → ∀ (g : Feed) (i : Input), g ≠ f → t.tap g i = u.tap g i) ∧
      (∀ g : Feed, g ≠ f → t.tgu.glide[g] = u.tgu.glide[g] ∧ t.smu.maps[g] = u.smu.maps[g]) ∧
      (kind ≠ 0x02 →
        (∀ g : Feed, g ≠ f → t.openScene g = u.openScene g ∧ t.lmu.subscriptions[g] = u.lmu.subscriptions[g]) ∧
        ∀ x ∈ u.scu.scheduled, x.feed ≠ f → x ∈ t.scu.scheduled) ∧
      (∀ i : Input, (u.channel i).owner ≠ some f → (t.channel i).desired = (u.channel i).desired) ∧
      (∀ i : Input, (t.channel i).live = (u.channel i).live ∧ (t.channel i).inFlight = (u.channel i).inFlight) ∧
      (kind ≠ 0x26 → ∀ (i : Input) (k : Feed), (u.channel i).owner = some k → k ≠ f → u.online k = true →
        (t.channel i).owner = some k)

/-- Live values change at the effective event alone (R71, R84): whatever the command, but RESET, a channel whose live values
differ after it had an in-flight write that was due, and holds that write's values. -/
def Obligations.LiveValuesChangeWhenDue : Prop :=
  ∀ (s t : State) (c : Instr) (i : Input), c ≠ .reset → exec c s = .next t →
    (t.channel i).live ≠ (s.channel i).live →
    ∃ w, (s.channel i).inFlight = some w ∧ 0 ≤ lead s.ftu.frame w.effective ∧ (t.channel i).live = w.value

/-- After FRAME_TICK nothing that was due in the frame waits any more (R2), from a state that meets the conditions on writes,
scenes, meters and the clock: no in-flight write, settle mute, pending map, pending law, scheduled scene, meter period or
timer. (From a state whose frame has not been opened: log entry 1.) -/
def Obligations.DueEventsAreTaken : Prop :=
  ∀ s : State, s.stepped = false → s.writesSound → s.scenesSound → s.metersSound → s.clockSound →
    ∃ t, exec .frameTick s = .next t ∧
      let n := s.ftu.frame
      (∀ i w, (t.channel i).inFlight = some w → lead n w.effective < 0) ∧
      (∀ i x, (t.channel i).settle = .ends x → 0 ≤ lead x n) ∧
      (∀ f p, t.smu.maps[(f : Feed)].pending = some p → lead n p.start < 0) ∧
      (∀ p, t.tgu.pending = some p → lead n p.start < 0) ∧
      (∀ x ∈ t.scu.scheduled, lead n x.frame < 0) ∧
      (∀ f b, t.lmu.subscriptions[(f : Feed)] = some b → lead n b.ends < 0) ∧
      (∀ d x, t.ftu.revertTimer = some (d, x) → lead n x < 0) ∧
      (∀ x, t.ftu.holdoverTimer = some x → lead n x < 0)

/-! ### Conditions that every step keeps -/

/-- Every condition below holds of the part right after reset. -/
def Obligations.ResetMeetsEveryCondition : Prop :=
  State.reset.queuesBounded ∧ State.reset.lawsSound ∧ State.reset.gainsSound ∧ State.reset.tapsSound ∧
    State.reset.writesSound ∧ State.reset.scenesSound ∧ State.reset.feedsSound ∧ State.reset.clockSound ∧
    State.reset.metersSound ∧ State.reset.mapsSound

/-- Every step keeps the queues of the control lane in their bounds, with no two waiting notices of one key (R144, R149), and a
round that considers no feed twice (R145). -/
def Obligations.QueuesStayBounded : Prop :=
  ∀ s t : State, s.queuesBounded → step s = .next t → t.queuesBounded

/-- Every step keeps the gain laws sound (R63, R66), every A what the live values give (R72), every map within its capacity
(R18, R22), and every meter and clip record in range (R153, R156). -/
def Obligations.TablesAndRecordsStaySound : Prop :=
  ∀ s t : State, step s = .next t →
    (s.lawsSound → t.lawsSound) ∧ (s.gainsSound → t.gainsSound) ∧ (s.mapsSound → t.mapsSound) ∧
      (s.metersSound → t.metersSound)

/-- Every step keeps every tap in range, with the target and limit flag of R36, in states whose gains and scenes are
sound. -/
def Obligations.TapsStaySound : Prop :=
  ∀ s t : State, s.gainsSound → s.scenesSound → s.tapsSound → step s = .next t → t.tapsSound

/-- Every step keeps a channel queued exactly when its desired values differ from its last-sent values (R73, R78). -/
def Obligations.WritesStaySound : Prop :=
  ∀ s t : State, s.writesSound → step s = .next t → t.writesSound

/-- Every step keeps the scenes within their bounds and the scheduled list in order with distinct ids (R109, R113, R114). -/
def Obligations.ScenesStaySound : Prop :=
  ∀ s t : State, s.scenesSound → step s = .next t → t.scenesSound

/-- Every step keeps every ONLINE feed's control port UP, and an OFFLINE feed without conversation, open scene or
subscription (R129 to R134). -/
def Obligations.FeedsStaySound : Prop :=
  ∀ s t : State, s.feedsSound → step s = .next t → t.feedsSound

/-- Every step keeps the clock state agreeing with the list and the available sources, with each timer running in its own
state alone (R9 to R13). -/
def Obligations.ClockStaysSound : Prop :=
  ∀ s t : State, s.clockSound → step s = .next t → t.clockSound
end

