-- ==== Sys2Proof/Laws/State.lean ====
section
/-! SUPPORT. One lemma per field per update: the fields an update leaves alone, each true by `rfl`. -/

namespace Sys2Proof.Machine

/-! `Tgu.onTap` -/

@[simp] theorem Tgu_onTap_glide (f : Feed) (i : Input) (g : Tap → Tap) (t : Tgu) :
    (t.onTap f i g).glide = t.glide := rfl
@[simp] theorem Tgu_onTap_glt (f : Feed) (i : Input) (g : Tap → Tap) (t : Tgu) :
    (t.onTap f i g).glt = t.glt := rfl
@[simp] theorem Tgu_onTap_staging (f : Feed) (i : Input) (g : Tap → Tap) (t : Tgu) :
    (t.onTap f i g).staging = t.staging := rfl
@[simp] theorem Tgu_onTap_marks (f : Feed) (i : Input) (g : Tap → Tap) (t : Tgu) :
    (t.onTap f i g).marks = t.marks := rfl
@[simp] theorem Tgu_onTap_pending (f : Feed) (i : Input) (g : Tap → Tap) (t : Tgu) :
    (t.onTap f i g).pending = t.pending := rfl
@[simp] theorem Tgu_onTap_out (f : Feed) (i : Input) (g : Tap → Tap) (t : Tgu) :
    (t.onTap f i g).out = t.out := rfl

/-! `Hac.onChannel` -/

@[simp] theorem Hac_onChannel_buses (i : Input) (g : Channel → Channel) (h : Hac) :
    (h.onChannel i g).buses = h.buses := rfl
@[simp] theorem Hac_onChannel_padSettle (i : Input) (g : Channel → Channel) (h : Hac) :
    (h.onChannel i g).padSettle = h.padSettle := rfl
@[simp] theorem Hac_onChannel_phantomSettle (i : Input) (g : Channel → Channel) (h : Hac) :
    (h.onChannel i g).phantomSettle = h.phantomSettle := rfl
@[simp] theorem Hac_onChannel_padValue (i : Input) (g : Channel → Channel) (h : Hac) :
    (h.onChannel i g).padValue = h.padValue := rfl
@[simp] theorem Hac_onChannel_plt (i : Input) (g : Channel → Channel) (h : Hac) :
    (h.onChannel i g).plt = h.plt := rfl
@[simp] theorem Hac_onChannel_staging (i : Input) (g : Channel → Channel) (h : Hac) :
    (h.onChannel i g).staging = h.staging := rfl
@[simp] theorem Hac_onChannel_marks (i : Input) (g : Channel → Channel) (h : Hac) :
    (h.onChannel i g).marks = h.marks := rfl
@[simp] theorem Hac_onChannel_landed (i : Input) (g : Channel → Channel) (h : Hac) :
    (h.onChannel i g).landed = h.landed := rfl

/-! `Hac.onBus` -/

@[simp] theorem Hac_onBus_channels (b : Group) (g : PreampBus → PreampBus) (h : Hac) :
    (h.onBus b g).channels = h.channels := rfl
@[simp] theorem Hac_onBus_padSettle (b : Group) (g : PreampBus → PreampBus) (h : Hac) :
    (h.onBus b g).padSettle = h.padSettle := rfl
@[simp] theorem Hac_onBus_phantomSettle (b : Group) (g : PreampBus → PreampBus) (h : Hac) :
    (h.onBus b g).phantomSettle = h.phantomSettle := rfl
@[simp] theorem Hac_onBus_padValue (b : Group) (g : PreampBus → PreampBus) (h : Hac) :
    (h.onBus b g).padValue = h.padValue := rfl
@[simp] theorem Hac_onBus_plt (b : Group) (g : PreampBus → PreampBus) (h : Hac) :
    (h.onBus b g).plt = h.plt := rfl
@[simp] theorem Hac_onBus_staging (b : Group) (g : PreampBus → PreampBus) (h : Hac) :
    (h.onBus b g).staging = h.staging := rfl
@[simp] theorem Hac_onBus_marks (b : Group) (g : PreampBus → PreampBus) (h : Hac) :
    (h.onBus b g).marks = h.marks := rfl
@[simp] theorem Hac_onBus_landed (b : Group) (g : PreampBus → PreampBus) (h : Hac) :
    (h.onBus b g).landed = h.landed := rfl

/-! `Hac.change` -/

@[simp] theorem Hac_change_padSettle (i : Input) (v : HeadAmp) (h : Hac) :
    (h.change i v).padSettle = h.padSettle := rfl
@[simp] theorem Hac_change_phantomSettle (i : Input) (v : HeadAmp) (h : Hac) :
    (h.change i v).phantomSettle = h.phantomSettle := rfl
@[simp] theorem Hac_change_padValue (i : Input) (v : HeadAmp) (h : Hac) :
    (h.change i v).padValue = h.padValue := rfl
@[simp] theorem Hac_change_plt (i : Input) (v : HeadAmp) (h : Hac) :
    (h.change i v).plt = h.plt := rfl
@[simp] theorem Hac_change_staging (i : Input) (v : HeadAmp) (h : Hac) :
    (h.change i v).staging = h.staging := rfl
@[simp] theorem Hac_change_marks (i : Input) (v : HeadAmp) (h : Hac) :
    (h.change i v).marks = h.marks := rfl
@[simp] theorem Hac_change_landed (i : Input) (v : HeadAmp) (h : Hac) :
    (h.change i v).landed = h.landed := rfl

/-! `Hac.send` -/

@[simp] theorem Hac_send_padSettle (b : Group) (n : FrameNo) (e : QueueEntry) (h : Hac) :
    (h.send b n e).padSettle = h.padSettle := rfl
@[simp] theorem Hac_send_phantomSettle (b : Group) (n : FrameNo) (e : QueueEntry) (h : Hac) :
    (h.send b n e).phantomSettle = h.phantomSettle := rfl
@[simp] theorem Hac_send_padValue (b : Group) (n : FrameNo) (e : QueueEntry) (h : Hac) :
    (h.send b n e).padValue = h.padValue := rfl
@[simp] theorem Hac_send_plt (b : Group) (n : FrameNo) (e : QueueEntry) (h : Hac) :
    (h.send b n e).plt = h.plt := rfl
@[simp] theorem Hac_send_staging (b : Group) (n : FrameNo) (e : QueueEntry) (h : Hac) :
    (h.send b n e).staging = h.staging := rfl
@[simp] theorem Hac_send_marks (b : Group) (n : FrameNo) (e : QueueEntry) (h : Hac) :
    (h.send b n e).marks = h.marks := rfl
@[simp] theorem Hac_send_landed (b : Group) (n : FrameNo) (e : QueueEntry) (h : Hac) :
    (h.send b n e).landed = h.landed := rfl

/-! `Hac.makeLive` -/

@[simp] theorem Hac_makeLive_buses (n : FrameNo) (i : Input) (v : HeadAmp) (h : Hac) :
    (h.makeLive n i v).buses = h.buses := rfl
@[simp] theorem Hac_makeLive_padSettle (n : FrameNo) (i : Input) (v : HeadAmp) (h : Hac) :
    (h.makeLive n i v).padSettle = h.padSettle := rfl
@[simp] theorem Hac_makeLive_phantomSettle (n : FrameNo) (i : Input) (v : HeadAmp) (h : Hac) :
    (h.makeLive n i v).phantomSettle = h.phantomSettle := rfl
@[simp] theorem Hac_makeLive_padValue (n : FrameNo) (i : Input) (v : HeadAmp) (h : Hac) :
    (h.makeLive n i v).padValue = h.padValue := rfl
@[simp] theorem Hac_makeLive_plt (n : FrameNo) (i : Input) (v : HeadAmp) (h : Hac) :
    (h.makeLive n i v).plt = h.plt := rfl
@[simp] theorem Hac_makeLive_staging (n : FrameNo) (i : Input) (v : HeadAmp) (h : Hac) :
    (h.makeLive n i v).staging = h.staging := rfl
@[simp] theorem Hac_makeLive_marks (n : FrameNo) (i : Input) (v : HeadAmp) (h : Hac) :
    (h.makeLive n i v).marks = h.marks := rfl

/-! `Cle.onLane` -/

@[simp] theorem Cle_onLane_supervisor (f : Feed) (g : Lane → Lane) (c : Cle) :
    (c.onLane f g).supervisor = c.supervisor := rfl
@[simp] theorem Cle_onLane_pointer (f : Feed) (g : Lane → Lane) (c : Cle) :
    (c.onLane f g).pointer = c.pointer := rfl
@[simp] theorem Cle_onLane_left (f : Feed) (g : Lane → Lane) (c : Cle) :
    (c.onLane f g).left = c.left := rfl

/-! `Lnk.onFeed` -/

@[simp] theorem Lnk_onFeed_ports (f : Feed) (g : FeedRecord → FeedRecord) (l : Lnk) :
    (l.onFeed f g).ports = l.ports := rfl

/-! `Lnk.onPort` -/

@[simp] theorem Lnk_onPort_feeds (p : Port) (g : LinkPort → LinkPort) (l : Lnk) :
    (l.onPort p g).feeds = l.feeds := rfl

/-! `notifyIf` -/

@[simp] theorem notifyIf_ftu (b : Bool) (f : Feed) (nt : Notice) (s : State) :
    (notifyIf b f nt s).ftu = s.ftu := rfl
@[simp] theorem notifyIf_cvp (b : Bool) (f : Feed) (nt : Notice) (s : State) :
    (notifyIf b f nt s).cvp = s.cvp := rfl
@[simp] theorem notifyIf_smu (b : Bool) (f : Feed) (nt : Notice) (s : State) :
    (notifyIf b f nt s).smu = s.smu := rfl
@[simp] theorem notifyIf_tgu (b : Bool) (f : Feed) (nt : Notice) (s : State) :
    (notifyIf b f nt s).tgu = s.tgu := rfl
@[simp] theorem notifyIf_hac (b : Bool) (f : Feed) (nt : Notice) (s : State) :
    (notifyIf b f nt s).hac = s.hac := rfl
@[simp] theorem notifyIf_scu (b : Bool) (f : Feed) (nt : Notice) (s : State) :
    (notifyIf b f nt s).scu = s.scu := rfl
@[simp] theorem notifyIf_lmu (b : Bool) (f : Feed) (nt : Notice) (s : State) :
    (notifyIf b f nt s).lmu = s.lmu := rfl
@[simp] theorem notifyIf_sil (b : Bool) (f : Feed) (nt : Notice) (s : State) :
    (notifyIf b f nt s).sil = s.sil := rfl
@[simp] theorem notifyIf_stepped (b : Bool) (f : Feed) (nt : Notice) (s : State) :
    (notifyIf b f nt s).stepped = s.stepped := rfl
@[simp] theorem notifyIf_pending (b : Bool) (f : Feed) (nt : Notice) (s : State) :
    (notifyIf b f nt s).pending = s.pending := rfl

/-! `notifyWhere` -/

@[simp] theorem notifyWhere_ftu (p : Feed → Bool) (nt : Notice) (s : State) :
    (notifyWhere p nt s).ftu = s.ftu := by
  simp [notifyWhere]
@[simp] theorem notifyWhere_cvp (p : Feed → Bool) (nt : Notice) (s : State) :
    (notifyWhere p nt s).cvp = s.cvp := by
  simp [notifyWhere]
@[simp] theorem notifyWhere_smu (p : Feed → Bool) (nt : Notice) (s : State) :
    (notifyWhere p nt s).smu = s.smu := by
  simp [notifyWhere]
@[simp] theorem notifyWhere_tgu (p : Feed → Bool) (nt : Notice) (s : State) :
    (notifyWhere p nt s).tgu = s.tgu := by
  simp [notifyWhere]
@[simp] theorem notifyWhere_hac (p : Feed → Bool) (nt : Notice) (s : State) :
    (notifyWhere p nt s).hac = s.hac := by
  simp [notifyWhere]
@[simp] theorem notifyWhere_scu (p : Feed → Bool) (nt : Notice) (s : State) :
    (notifyWhere p nt s).scu = s.scu := by
  simp [notifyWhere]
@[simp] theorem notifyWhere_lmu (p : Feed → Bool) (nt : Notice) (s : State) :
    (notifyWhere p nt s).lmu = s.lmu := by
  simp [notifyWhere]
@[simp] theorem notifyWhere_sil (p : Feed → Bool) (nt : Notice) (s : State) :
    (notifyWhere p nt s).sil = s.sil := by
  simp [notifyWhere]
@[simp] theorem notifyWhere_stepped (p : Feed → Bool) (nt : Notice) (s : State) :
    (notifyWhere p nt s).stepped = s.stepped := by
  simp [notifyWhere]
@[simp] theorem notifyWhere_pending (p : Feed → Bool) (nt : Notice) (s : State) :
    (notifyWhere p nt s).pending = s.pending := by
  simp [notifyWhere]

/-! `changeTap` -/

@[simp] theorem changeTap_ftu (f : Feed) (i : Input) (g : Tap → Tap) (s : State) :
    (changeTap f i g s).ftu = s.ftu := rfl
@[simp] theorem changeTap_cvp (f : Feed) (i : Input) (g : Tap → Tap) (s : State) :
    (changeTap f i g s).cvp = s.cvp := rfl
@[simp] theorem changeTap_smu (f : Feed) (i : Input) (g : Tap → Tap) (s : State) :
    (changeTap f i g s).smu = s.smu := rfl
@[simp] theorem changeTap_hac (f : Feed) (i : Input) (g : Tap → Tap) (s : State) :
    (changeTap f i g s).hac = s.hac := rfl
@[simp] theorem changeTap_scu (f : Feed) (i : Input) (g : Tap → Tap) (s : State) :
    (changeTap f i g s).scu = s.scu := rfl
@[simp] theorem changeTap_lmu (f : Feed) (i : Input) (g : Tap → Tap) (s : State) :
    (changeTap f i g s).lmu = s.lmu := rfl
@[simp] theorem changeTap_sil (f : Feed) (i : Input) (g : Tap → Tap) (s : State) :
    (changeTap f i g s).sil = s.sil := rfl
@[simp] theorem changeTap_stepped (f : Feed) (i : Input) (g : Tap → Tap) (s : State) :
    (changeTap f i g s).stepped = s.stepped := rfl
@[simp] theorem changeTap_pending (f : Feed) (i : Input) (g : Tap → Tap) (s : State) :
    (changeTap f i g s).pending = s.pending := rfl

/-! `compensate` -/

@[simp] theorem compensate_ftu (i : Input) (d : Int) (s : State) :
    (compensate i d s).ftu = s.ftu := by
  simp [compensate]
@[simp] theorem compensate_cvp (i : Input) (d : Int) (s : State) :
    (compensate i d s).cvp = s.cvp := by
  simp [compensate]
@[simp] theorem compensate_smu (i : Input) (d : Int) (s : State) :
    (compensate i d s).smu = s.smu := by
  simp [compensate]
@[simp] theorem compensate_hac (i : Input) (d : Int) (s : State) :
    (compensate i d s).hac = s.hac := by
  simp [compensate]
@[simp] theorem compensate_scu (i : Input) (d : Int) (s : State) :
    (compensate i d s).scu = s.scu := by
  simp [compensate]
@[simp] theorem compensate_lmu (i : Input) (d : Int) (s : State) :
    (compensate i d s).lmu = s.lmu := by
  simp [compensate]
@[simp] theorem compensate_sil (i : Input) (d : Int) (s : State) :
    (compensate i d s).sil = s.sil := by
  simp [compensate]
@[simp] theorem compensate_stepped (i : Input) (d : Int) (s : State) :
    (compensate i d s).stepped = s.stepped := by
  simp [compensate]
@[simp] theorem compensate_pending (i : Input) (d : Int) (s : State) :
    (compensate i d s).pending = s.pending := by
  simp [compensate]

/-! `rebase` -/

@[simp] theorem rebase_ftu (i : Input) (d : Int) (s : State) :
    (rebase i d s).ftu = s.ftu := by
  simp [rebase]
@[simp] theorem rebase_cvp (i : Input) (d : Int) (s : State) :
    (rebase i d s).cvp = s.cvp := by
  simp [rebase]
@[simp] theorem rebase_smu (i : Input) (d : Int) (s : State) :
    (rebase i d s).smu = s.smu := by
  simp [rebase]
@[simp] theorem rebase_hac (i : Input) (d : Int) (s : State) :
    (rebase i d s).hac = s.hac := by
  simp [rebase]
@[simp] theorem rebase_scu (i : Input) (d : Int) (s : State) :
    (rebase i d s).scu = s.scu := by
  simp [rebase]
@[simp] theorem rebase_lmu (i : Input) (d : Int) (s : State) :
    (rebase i d s).lmu = s.lmu := by
  simp [rebase]
@[simp] theorem rebase_sil (i : Input) (d : Int) (s : State) :
    (rebase i d s).sil = s.sil := by
  simp [rebase]
@[simp] theorem rebase_stepped (i : Input) (d : Int) (s : State) :
    (rebase i d s).stepped = s.stepped := by
  simp [rebase]
@[simp] theorem rebase_pending (i : Input) (d : Int) (s : State) :
    (rebase i d s).pending = s.pending := by
  simp [rebase]

/-! `announceLive` -/

@[simp] theorem announceLive_ftu (i : Input) (d : Int) (s : State) :
    (announceLive i d s).ftu = s.ftu := by
  simp [announceLive]
@[simp] theorem announceLive_cvp (i : Input) (d : Int) (s : State) :
    (announceLive i d s).cvp = s.cvp := by
  simp [announceLive]
@[simp] theorem announceLive_smu (i : Input) (d : Int) (s : State) :
    (announceLive i d s).smu = s.smu := by
  simp [announceLive]
@[simp] theorem announceLive_hac (i : Input) (d : Int) (s : State) :
    (announceLive i d s).hac = s.hac := by
  simp [announceLive]
@[simp] theorem announceLive_scu (i : Input) (d : Int) (s : State) :
    (announceLive i d s).scu = s.scu := by
  simp [announceLive]
@[simp] theorem announceLive_lmu (i : Input) (d : Int) (s : State) :
    (announceLive i d s).lmu = s.lmu := by
  simp [announceLive]
@[simp] theorem announceLive_sil (i : Input) (d : Int) (s : State) :
    (announceLive i d s).sil = s.sil := by
  simp [announceLive]
@[simp] theorem announceLive_stepped (i : Input) (d : Int) (s : State) :
    (announceLive i d s).stepped = s.stepped := by
  simp [announceLive]
@[simp] theorem announceLive_pending (i : Input) (d : Int) (s : State) :
    (announceLive i d s).pending = s.pending := by
  simp [announceLive]

/-! `regain` -/

@[simp] theorem regain_ftu (i : Input) (s : State) :
    (regain i s).ftu = s.ftu := by
  simp [regain]
@[simp] theorem regain_cvp (i : Input) (s : State) :
    (regain i s).cvp = s.cvp := by
  simp [regain]
@[simp] theorem regain_smu (i : Input) (s : State) :
    (regain i s).smu = s.smu := by
  simp [regain]
@[simp] theorem regain_scu (i : Input) (s : State) :
    (regain i s).scu = s.scu := by
  simp [regain]
@[simp] theorem regain_lmu (i : Input) (s : State) :
    (regain i s).lmu = s.lmu := by
  simp [regain]
@[simp] theorem regain_sil (i : Input) (s : State) :
    (regain i s).sil = s.sil := by
  simp [regain]
@[simp] theorem regain_stepped (i : Input) (s : State) :
    (regain i s).stepped = s.stepped := by
  simp [regain]
@[simp] theorem regain_pending (i : Input) (s : State) :
    (regain i s).pending = s.pending := by
  simp [regain]

/-! `setHeadAmp` -/

@[simp] theorem setHeadAmp_ftu (c : Option (Fin 64)) (p q : Option Bool) (i : Input) (s : State) :
    (setHeadAmp c p q i s).ftu = s.ftu := rfl
@[simp] theorem setHeadAmp_cvp (c : Option (Fin 64)) (p q : Option Bool) (i : Input) (s : State) :
    (setHeadAmp c p q i s).cvp = s.cvp := rfl
@[simp] theorem setHeadAmp_smu (c : Option (Fin 64)) (p q : Option Bool) (i : Input) (s : State) :
    (setHeadAmp c p q i s).smu = s.smu := rfl
@[simp] theorem setHeadAmp_tgu (c : Option (Fin 64)) (p q : Option Bool) (i : Input) (s : State) :
    (setHeadAmp c p q i s).tgu = s.tgu := rfl
@[simp] theorem setHeadAmp_scu (c : Option (Fin 64)) (p q : Option Bool) (i : Input) (s : State) :
    (setHeadAmp c p q i s).scu = s.scu := rfl
@[simp] theorem setHeadAmp_lnk (c : Option (Fin 64)) (p q : Option Bool) (i : Input) (s : State) :
    (setHeadAmp c p q i s).lnk = s.lnk := rfl
@[simp] theorem setHeadAmp_cle (c : Option (Fin 64)) (p q : Option Bool) (i : Input) (s : State) :
    (setHeadAmp c p q i s).cle = s.cle := rfl
@[simp] theorem setHeadAmp_lmu (c : Option (Fin 64)) (p q : Option Bool) (i : Input) (s : State) :
    (setHeadAmp c p q i s).lmu = s.lmu := rfl
@[simp] theorem setHeadAmp_sil (c : Option (Fin 64)) (p q : Option Bool) (i : Input) (s : State) :
    (setHeadAmp c p q i s).sil = s.sil := rfl
@[simp] theorem setHeadAmp_stepped (c : Option (Fin 64)) (p q : Option Bool) (i : Input) (s : State) :
    (setHeadAmp c p q i s).stepped = s.stepped := rfl
@[simp] theorem setHeadAmp_pending (c : Option (Fin 64)) (p q : Option Bool) (i : Input) (s : State) :
    (setHeadAmp c p q i s).pending = s.pending := rfl

/-! `nudgeHeadAmp` -/

@[simp] theorem nudgeHeadAmp_ftu (d : Int) (i : Input) (s : State) :
    (nudgeHeadAmp d i s).ftu = s.ftu := rfl
@[simp] theorem nudgeHeadAmp_cvp (d : Int) (i : Input) (s : State) :
    (nudgeHeadAmp d i s).cvp = s.cvp := rfl
@[simp] theorem nudgeHeadAmp_smu (d : Int) (i : Input) (s : State) :
    (nudgeHeadAmp d i s).smu = s.smu := rfl
@[simp] theorem nudgeHeadAmp_tgu (d : Int) (i : Input) (s : State) :
    (nudgeHeadAmp d i s).tgu = s.tgu := rfl
@[simp] theorem nudgeHeadAmp_scu (d : Int) (i : Input) (s : State) :
    (nudgeHeadAmp d i s).scu = s.scu := rfl
@[simp] theorem nudgeHeadAmp_lnk (d : Int) (i : Input) (s : State) :
    (nudgeHeadAmp d i s).lnk = s.lnk := rfl
@[simp] theorem nudgeHeadAmp_cle (d : Int) (i : Input) (s : State) :
    (nudgeHeadAmp d i s).cle = s.cle := rfl
@[simp] theorem nudgeHeadAmp_lmu (d : Int) (i : Input) (s : State) :
    (nudgeHeadAmp d i s).lmu = s.lmu := rfl
@[simp] theorem nudgeHeadAmp_sil (d : Int) (i : Input) (s : State) :
    (nudgeHeadAmp d i s).sil = s.sil := rfl
@[simp] theorem nudgeHeadAmp_stepped (d : Int) (i : Input) (s : State) :
    (nudgeHeadAmp d i s).stepped = s.stepped := rfl
@[simp] theorem nudgeHeadAmp_pending (d : Int) (i : Input) (s : State) :
    (nudgeHeadAmp d i s).pending = s.pending := rfl

/-! `busOpportunity` -/

@[simp] theorem busOpportunity_ftu (b : Group) (s : State) :
    (busOpportunity b s).ftu = s.ftu := rfl
@[simp] theorem busOpportunity_cvp (b : Group) (s : State) :
    (busOpportunity b s).cvp = s.cvp := rfl
@[simp] theorem busOpportunity_smu (b : Group) (s : State) :
    (busOpportunity b s).smu = s.smu := rfl
@[simp] theorem busOpportunity_tgu (b : Group) (s : State) :
    (busOpportunity b s).tgu = s.tgu := rfl
@[simp] theorem busOpportunity_scu (b : Group) (s : State) :
    (busOpportunity b s).scu = s.scu := rfl
@[simp] theorem busOpportunity_lnk (b : Group) (s : State) :
    (busOpportunity b s).lnk = s.lnk := rfl
@[simp] theorem busOpportunity_cle (b : Group) (s : State) :
    (busOpportunity b s).cle = s.cle := rfl
@[simp] theorem busOpportunity_lmu (b : Group) (s : State) :
    (busOpportunity b s).lmu = s.lmu := rfl
@[simp] theorem busOpportunity_sil (b : Group) (s : State) :
    (busOpportunity b s).sil = s.sil := rfl
@[simp] theorem busOpportunity_stepped (b : Group) (s : State) :
    (busOpportunity b s).stepped = s.stepped := rfl
@[simp] theorem busOpportunity_pending (b : Group) (s : State) :
    (busOpportunity b s).pending = s.pending := rfl

/-! `settleEnd` -/

@[simp] theorem settleEnd_ftu (i : Input) (s : State) :
    (settleEnd i s).ftu = s.ftu := rfl
@[simp] theorem settleEnd_cvp (i : Input) (s : State) :
    (settleEnd i s).cvp = s.cvp := rfl
@[simp] theorem settleEnd_smu (i : Input) (s : State) :
    (settleEnd i s).smu = s.smu := rfl
@[simp] theorem settleEnd_tgu (i : Input) (s : State) :
    (settleEnd i s).tgu = s.tgu := rfl
@[simp] theorem settleEnd_scu (i : Input) (s : State) :
    (settleEnd i s).scu = s.scu := rfl
@[simp] theorem settleEnd_lnk (i : Input) (s : State) :
    (settleEnd i s).lnk = s.lnk := rfl
@[simp] theorem settleEnd_cle (i : Input) (s : State) :
    (settleEnd i s).cle = s.cle := rfl
@[simp] theorem settleEnd_lmu (i : Input) (s : State) :
    (settleEnd i s).lmu = s.lmu := rfl
@[simp] theorem settleEnd_sil (i : Input) (s : State) :
    (settleEnd i s).sil = s.sil := rfl
@[simp] theorem settleEnd_stepped (i : Input) (s : State) :
    (settleEnd i s).stepped = s.stepped := rfl
@[simp] theorem settleEnd_pending (i : Input) (s : State) :
    (settleEnd i s).pending = s.pending := rfl

/-! `settleEnds` -/

@[simp] theorem settleEnds_ftu (s : State) :
    (settleEnds s).ftu = s.ftu := rfl
@[simp] theorem settleEnds_cvp (s : State) :
    (settleEnds s).cvp = s.cvp := rfl
@[simp] theorem settleEnds_smu (s : State) :
    (settleEnds s).smu = s.smu := rfl
@[simp] theorem settleEnds_tgu (s : State) :
    (settleEnds s).tgu = s.tgu := rfl
@[simp] theorem settleEnds_scu (s : State) :
    (settleEnds s).scu = s.scu := rfl
@[simp] theorem settleEnds_lnk (s : State) :
    (settleEnds s).lnk = s.lnk := rfl
@[simp] theorem settleEnds_cle (s : State) :
    (settleEnds s).cle = s.cle := rfl
@[simp] theorem settleEnds_lmu (s : State) :
    (settleEnds s).lmu = s.lmu := rfl
@[simp] theorem settleEnds_sil (s : State) :
    (settleEnds s).sil = s.sil := rfl
@[simp] theorem settleEnds_stepped (s : State) :
    (settleEnds s).stepped = s.stepped := rfl
@[simp] theorem settleEnds_pending (s : State) :
    (settleEnds s).pending = s.pending := rfl

/-! `clockEvent` -/

@[simp] theorem clockEvent_cvp (g : Ftu → Ftu) (s : State) :
    (clockEvent g s).cvp = s.cvp := by
  simp [clockEvent]
@[simp] theorem clockEvent_smu (g : Ftu → Ftu) (s : State) :
    (clockEvent g s).smu = s.smu := by
  simp [clockEvent]
@[simp] theorem clockEvent_tgu (g : Ftu → Ftu) (s : State) :
    (clockEvent g s).tgu = s.tgu := by
  simp [clockEvent]
@[simp] theorem clockEvent_hac (g : Ftu → Ftu) (s : State) :
    (clockEvent g s).hac = s.hac := by
  simp [clockEvent]
@[simp] theorem clockEvent_scu (g : Ftu → Ftu) (s : State) :
    (clockEvent g s).scu = s.scu := by
  simp [clockEvent]
@[simp] theorem clockEvent_lmu (g : Ftu → Ftu) (s : State) :
    (clockEvent g s).lmu = s.lmu := by
  simp [clockEvent]
@[simp] theorem clockEvent_sil (g : Ftu → Ftu) (s : State) :
    (clockEvent g s).sil = s.sil := by
  simp [clockEvent]
@[simp] theorem clockEvent_stepped (g : Ftu → Ftu) (s : State) :
    (clockEvent g s).stepped = s.stepped := by
  simp [clockEvent]
@[simp] theorem clockEvent_pending (g : Ftu → Ftu) (s : State) :
    (clockEvent g s).pending = s.pending := by
  simp [clockEvent]

/-! `reportGone` -/

@[simp] theorem reportGone_cvp (x : ClockSource) (s : State) :
    (reportGone x s).cvp = s.cvp := by
  simp [reportGone]
@[simp] theorem reportGone_smu (x : ClockSource) (s : State) :
    (reportGone x s).smu = s.smu := by
  simp [reportGone]
@[simp] theorem reportGone_tgu (x : ClockSource) (s : State) :
    (reportGone x s).tgu = s.tgu := by
  simp [reportGone]
@[simp] theorem reportGone_hac (x : ClockSource) (s : State) :
    (reportGone x s).hac = s.hac := by
  simp [reportGone]
@[simp] theorem reportGone_scu (x : ClockSource) (s : State) :
    (reportGone x s).scu = s.scu := by
  simp [reportGone]
@[simp] theorem reportGone_lmu (x : ClockSource) (s : State) :
    (reportGone x s).lmu = s.lmu := by
  simp [reportGone]
@[simp] theorem reportGone_sil (x : ClockSource) (s : State) :
    (reportGone x s).sil = s.sil := by
  simp [reportGone]
@[simp] theorem reportGone_stepped (x : ClockSource) (s : State) :
    (reportGone x s).stepped = s.stepped := by
  simp [reportGone]
@[simp] theorem reportGone_pending (x : ClockSource) (s : State) :
    (reportGone x s).pending = s.pending := by
  simp [reportGone]

/-! `reportCame` -/

@[simp] theorem reportCame_cvp (x : ClockSource) (s : State) :
    (reportCame x s).cvp = s.cvp := by
  simp [reportCame]
@[simp] theorem reportCame_smu (x : ClockSource) (s : State) :
    (reportCame x s).smu = s.smu := by
  simp [reportCame]
@[simp] theorem reportCame_tgu (x : ClockSource) (s : State) :
    (reportCame x s).tgu = s.tgu := by
  simp [reportCame]
@[simp] theorem reportCame_hac (x : ClockSource) (s : State) :
    (reportCame x s).hac = s.hac := by
  simp [reportCame]
@[simp] theorem reportCame_scu (x : ClockSource) (s : State) :
    (reportCame x s).scu = s.scu := by
  simp [reportCame]
@[simp] theorem reportCame_lmu (x : ClockSource) (s : State) :
    (reportCame x s).lmu = s.lmu := by
  simp [reportCame]
@[simp] theorem reportCame_sil (x : ClockSource) (s : State) :
    (reportCame x s).sil = s.sil := by
  simp [reportCame]
@[simp] theorem reportCame_stepped (x : ClockSource) (s : State) :
    (reportCame x s).stepped = s.stepped := by
  simp [reportCame]
@[simp] theorem reportCame_pending (x : ClockSource) (s : State) :
    (reportCame x s).pending = s.pending := by
  simp [reportCame]

/-! `revertTimer` -/

@[simp] theorem revertTimer_cvp (s : State) :
    (revertTimer s).cvp = s.cvp := by
  simp [revertTimer]
@[simp] theorem revertTimer_smu (s : State) :
    (revertTimer s).smu = s.smu := by
  simp [revertTimer]
@[simp] theorem revertTimer_tgu (s : State) :
    (revertTimer s).tgu = s.tgu := by
  simp [revertTimer]
@[simp] theorem revertTimer_hac (s : State) :
    (revertTimer s).hac = s.hac := by
  simp [revertTimer]
@[simp] theorem revertTimer_scu (s : State) :
    (revertTimer s).scu = s.scu := by
  simp [revertTimer]
@[simp] theorem revertTimer_lmu (s : State) :
    (revertTimer s).lmu = s.lmu := by
  simp [revertTimer]
@[simp] theorem revertTimer_sil (s : State) :
    (revertTimer s).sil = s.sil := by
  simp [revertTimer]
@[simp] theorem revertTimer_stepped (s : State) :
    (revertTimer s).stepped = s.stepped := by
  simp [revertTimer]
@[simp] theorem revertTimer_pending (s : State) :
    (revertTimer s).pending = s.pending := by
  simp [revertTimer]

/-! `holdoverTimer` -/

@[simp] theorem holdoverTimer_cvp (s : State) :
    (holdoverTimer s).cvp = s.cvp := by
  simp [holdoverTimer]
@[simp] theorem holdoverTimer_smu (s : State) :
    (holdoverTimer s).smu = s.smu := by
  simp [holdoverTimer]
@[simp] theorem holdoverTimer_tgu (s : State) :
    (holdoverTimer s).tgu = s.tgu := by
  simp [holdoverTimer]
@[simp] theorem holdoverTimer_hac (s : State) :
    (holdoverTimer s).hac = s.hac := by
  simp [holdoverTimer]
@[simp] theorem holdoverTimer_scu (s : State) :
    (holdoverTimer s).scu = s.scu := by
  simp [holdoverTimer]
@[simp] theorem holdoverTimer_lmu (s : State) :
    (holdoverTimer s).lmu = s.lmu := by
  simp [holdoverTimer]
@[simp] theorem holdoverTimer_sil (s : State) :
    (holdoverTimer s).sil = s.sil := by
  simp [holdoverTimer]
@[simp] theorem holdoverTimer_stepped (s : State) :
    (holdoverTimer s).stepped = s.stepped := by
  simp [holdoverTimer]
@[simp] theorem holdoverTimer_pending (s : State) :
    (holdoverTimer s).pending = s.pending := by
  simp [holdoverTimer]

/-! `mapInForce` -/

@[simp] theorem mapInForce_ftu (f : Feed) (s : State) :
    (mapInForce f s).ftu = s.ftu := rfl
@[simp] theorem mapInForce_cvp (f : Feed) (s : State) :
    (mapInForce f s).cvp = s.cvp := rfl
@[simp] theorem mapInForce_tgu (f : Feed) (s : State) :
    (mapInForce f s).tgu = s.tgu := rfl
@[simp] theorem mapInForce_hac (f : Feed) (s : State) :
    (mapInForce f s).hac = s.hac := rfl
@[simp] theorem mapInForce_scu (f : Feed) (s : State) :
    (mapInForce f s).scu = s.scu := rfl
@[simp] theorem mapInForce_lnk (f : Feed) (s : State) :
    (mapInForce f s).lnk = s.lnk := rfl
@[simp] theorem mapInForce_cle (f : Feed) (s : State) :
    (mapInForce f s).cle = s.cle := rfl
@[simp] theorem mapInForce_lmu (f : Feed) (s : State) :
    (mapInForce f s).lmu = s.lmu := rfl
@[simp] theorem mapInForce_sil (f : Feed) (s : State) :
    (mapInForce f s).sil = s.sil := rfl
@[simp] theorem mapInForce_stepped (f : Feed) (s : State) :
    (mapInForce f s).stepped = s.stepped := rfl
@[simp] theorem mapInForce_pending (f : Feed) (s : State) :
    (mapInForce f s).pending = s.pending := rfl

/-! `mapsInForce` -/

@[simp] theorem mapsInForce_ftu (s : State) :
    (mapsInForce s).ftu = s.ftu := rfl
@[simp] theorem mapsInForce_cvp (s : State) :
    (mapsInForce s).cvp = s.cvp := rfl
@[simp] theorem mapsInForce_tgu (s : State) :
    (mapsInForce s).tgu = s.tgu := rfl
@[simp] theorem mapsInForce_hac (s : State) :
    (mapsInForce s).hac = s.hac := rfl
@[simp] theorem mapsInForce_scu (s : State) :
    (mapsInForce s).scu = s.scu := rfl
@[simp] theorem mapsInForce_lnk (s : State) :
    (mapsInForce s).lnk = s.lnk := rfl
@[simp] theorem mapsInForce_cle (s : State) :
    (mapsInForce s).cle = s.cle := rfl
@[simp] theorem mapsInForce_lmu (s : State) :
    (mapsInForce s).lmu = s.lmu := rfl
@[simp] theorem mapsInForce_sil (s : State) :
    (mapsInForce s).sil = s.sil := rfl
@[simp] theorem mapsInForce_stepped (s : State) :
    (mapsInForce s).stepped = s.stepped := rfl
@[simp] theorem mapsInForce_pending (s : State) :
    (mapsInForce s).pending = s.pending := rfl

/-! `lawInEffect` -/

@[simp] theorem lawInEffect_ftu (s : State) :
    (lawInEffect s).ftu = s.ftu := rfl
@[simp] theorem lawInEffect_cvp (s : State) :
    (lawInEffect s).cvp = s.cvp := rfl
@[simp] theorem lawInEffect_smu (s : State) :
    (lawInEffect s).smu = s.smu := rfl
@[simp] theorem lawInEffect_hac (s : State) :
    (lawInEffect s).hac = s.hac := rfl
@[simp] theorem lawInEffect_scu (s : State) :
    (lawInEffect s).scu = s.scu := rfl
@[simp] theorem lawInEffect_lnk (s : State) :
    (lawInEffect s).lnk = s.lnk := rfl
@[simp] theorem lawInEffect_cle (s : State) :
    (lawInEffect s).cle = s.cle := rfl
@[simp] theorem lawInEffect_lmu (s : State) :
    (lawInEffect s).lmu = s.lmu := rfl
@[simp] theorem lawInEffect_sil (s : State) :
    (lawInEffect s).sil = s.sil := rfl
@[simp] theorem lawInEffect_stepped (s : State) :
    (lawInEffect s).stepped = s.stepped := rfl
@[simp] theorem lawInEffect_pending (s : State) :
    (lawInEffect s).pending = s.pending := rfl

/-! `stepTaps` -/

@[simp] theorem stepTaps_ftu (s : State) :
    (stepTaps s).ftu = s.ftu := rfl
@[simp] theorem stepTaps_cvp (s : State) :
    (stepTaps s).cvp = s.cvp := rfl
@[simp] theorem stepTaps_smu (s : State) :
    (stepTaps s).smu = s.smu := rfl
@[simp] theorem stepTaps_hac (s : State) :
    (stepTaps s).hac = s.hac := rfl
@[simp] theorem stepTaps_scu (s : State) :
    (stepTaps s).scu = s.scu := rfl
@[simp] theorem stepTaps_lnk (s : State) :
    (stepTaps s).lnk = s.lnk := rfl
@[simp] theorem stepTaps_cle (s : State) :
    (stepTaps s).cle = s.cle := rfl
@[simp] theorem stepTaps_lmu (s : State) :
    (stepTaps s).lmu = s.lmu := rfl
@[simp] theorem stepTaps_sil (s : State) :
    (stepTaps s).sil = s.sil := rfl
@[simp] theorem stepTaps_stepped (s : State) :
    (stepTaps s).stepped = s.stepped := rfl
@[simp] theorem stepTaps_pending (s : State) :
    (stepTaps s).pending = s.pending := rfl

/-! `converterOutcome` -/

@[simp] theorem converterOutcome_ftu (g : Group) (x : Option (List Sample)) (s : State) :
    (converterOutcome g x s).ftu = s.ftu := by
  simp [converterOutcome]
@[simp] theorem converterOutcome_smu (g : Group) (x : Option (List Sample)) (s : State) :
    (converterOutcome g x s).smu = s.smu := by
  simp [converterOutcome]
@[simp] theorem converterOutcome_tgu (g : Group) (x : Option (List Sample)) (s : State) :
    (converterOutcome g x s).tgu = s.tgu := by
  simp [converterOutcome]
@[simp] theorem converterOutcome_hac (g : Group) (x : Option (List Sample)) (s : State) :
    (converterOutcome g x s).hac = s.hac := by
  simp [converterOutcome]
@[simp] theorem converterOutcome_scu (g : Group) (x : Option (List Sample)) (s : State) :
    (converterOutcome g x s).scu = s.scu := by
  simp [converterOutcome]
@[simp] theorem converterOutcome_lmu (g : Group) (x : Option (List Sample)) (s : State) :
    (converterOutcome g x s).lmu = s.lmu := by
  simp [converterOutcome]
@[simp] theorem converterOutcome_sil (g : Group) (x : Option (List Sample)) (s : State) :
    (converterOutcome g x s).sil = s.sil := by
  simp [converterOutcome]
@[simp] theorem converterOutcome_stepped (g : Group) (x : Option (List Sample)) (s : State) :
    (converterOutcome g x s).stepped = s.stepped := by
  simp [converterOutcome]
@[simp] theorem converterOutcome_pending (g : Group) (x : Option (List Sample)) (s : State) :
    (converterOutcome g x s).pending = s.pending := by
  simp [converterOutcome]

/-! `setOpenScene` -/

@[simp] theorem setOpenScene_ftu (f : Feed) (x : Option (List SceneEntry)) (s : State) :
    (setOpenScene f x s).ftu = s.ftu := rfl
@[simp] theorem setOpenScene_cvp (f : Feed) (x : Option (List SceneEntry)) (s : State) :
    (setOpenScene f x s).cvp = s.cvp := rfl
@[simp] theorem setOpenScene_smu (f : Feed) (x : Option (List SceneEntry)) (s : State) :
    (setOpenScene f x s).smu = s.smu := rfl
@[simp] theorem setOpenScene_tgu (f : Feed) (x : Option (List SceneEntry)) (s : State) :
    (setOpenScene f x s).tgu = s.tgu := rfl
@[simp] theorem setOpenScene_hac (f : Feed) (x : Option (List SceneEntry)) (s : State) :
    (setOpenScene f x s).hac = s.hac := rfl
@[simp] theorem setOpenScene_lnk (f : Feed) (x : Option (List SceneEntry)) (s : State) :
    (setOpenScene f x s).lnk = s.lnk := rfl
@[simp] theorem setOpenScene_cle (f : Feed) (x : Option (List SceneEntry)) (s : State) :
    (setOpenScene f x s).cle = s.cle := rfl
@[simp] theorem setOpenScene_lmu (f : Feed) (x : Option (List SceneEntry)) (s : State) :
    (setOpenScene f x s).lmu = s.lmu := rfl
@[simp] theorem setOpenScene_sil (f : Feed) (x : Option (List SceneEntry)) (s : State) :
    (setOpenScene f x s).sil = s.sil := rfl
@[simp] theorem setOpenScene_stepped (f : Feed) (x : Option (List SceneEntry)) (s : State) :
    (setOpenScene f x s).stepped = s.stepped := rfl
@[simp] theorem setOpenScene_pending (f : Feed) (x : Option (List SceneEntry)) (s : State) :
    (setOpenScene f x s).pending = s.pending := rfl

/-! `setSubscription` -/

@[simp] theorem setSubscription_ftu (f : Feed) (x : Option Subscription) (s : State) :
    (setSubscription f x s).ftu = s.ftu := rfl
@[simp] theorem setSubscription_cvp (f : Feed) (x : Option Subscription) (s : State) :
    (setSubscription f x s).cvp = s.cvp := rfl
@[simp] theorem setSubscription_smu (f : Feed) (x : Option Subscription) (s : State) :
    (setSubscription f x s).smu = s.smu := rfl
@[simp] theorem setSubscription_tgu (f : Feed) (x : Option Subscription) (s : State) :
    (setSubscription f x s).tgu = s.tgu := rfl
@[simp] theorem setSubscription_hac (f : Feed) (x : Option Subscription) (s : State) :
    (setSubscription f x s).hac = s.hac := rfl
@[simp] theorem setSubscription_scu (f : Feed) (x : Option Subscription) (s : State) :
    (setSubscription f x s).scu = s.scu := rfl
@[simp] theorem setSubscription_lnk (f : Feed) (x : Option Subscription) (s : State) :
    (setSubscription f x s).lnk = s.lnk := rfl
@[simp] theorem setSubscription_cle (f : Feed) (x : Option Subscription) (s : State) :
    (setSubscription f x s).cle = s.cle := rfl
@[simp] theorem setSubscription_sil (f : Feed) (x : Option Subscription) (s : State) :
    (setSubscription f x s).sil = s.sil := rfl
@[simp] theorem setSubscription_stepped (f : Feed) (x : Option Subscription) (s : State) :
    (setSubscription f x s).stepped = s.stepped := rfl
@[simp] theorem setSubscription_pending (f : Feed) (x : Option Subscription) (s : State) :
    (setSubscription f x s).pending = s.pending := rfl

/-! `changeClips` -/

@[simp] theorem changeClips_ftu (g : Clip → Clip) (is : List Input) (s : State) :
    (changeClips g is s).ftu = s.ftu := rfl
@[simp] theorem changeClips_cvp (g : Clip → Clip) (is : List Input) (s : State) :
    (changeClips g is s).cvp = s.cvp := rfl
@[simp] theorem changeClips_smu (g : Clip → Clip) (is : List Input) (s : State) :
    (changeClips g is s).smu = s.smu := rfl
@[simp] theorem changeClips_tgu (g : Clip → Clip) (is : List Input) (s : State) :
    (changeClips g is s).tgu = s.tgu := rfl
@[simp] theorem changeClips_hac (g : Clip → Clip) (is : List Input) (s : State) :
    (changeClips g is s).hac = s.hac := rfl
@[simp] theorem changeClips_scu (g : Clip → Clip) (is : List Input) (s : State) :
    (changeClips g is s).scu = s.scu := rfl
@[simp] theorem changeClips_lnk (g : Clip → Clip) (is : List Input) (s : State) :
    (changeClips g is s).lnk = s.lnk := rfl
@[simp] theorem changeClips_cle (g : Clip → Clip) (is : List Input) (s : State) :
    (changeClips g is s).cle = s.cle := rfl
@[simp] theorem changeClips_sil (g : Clip → Clip) (is : List Input) (s : State) :
    (changeClips g is s).sil = s.sil := rfl
@[simp] theorem changeClips_stepped (g : Clip → Clip) (is : List Input) (s : State) :
    (changeClips g is s).stepped = s.stepped := rfl
@[simp] theorem changeClips_pending (g : Clip → Clip) (is : List Input) (s : State) :
    (changeClips g is s).pending = s.pending := rfl

/-! `acceptWindows` -/

@[simp] theorem acceptWindows_ftu (f : Feed) (ws : List Window) (s : State) :
    (acceptWindows f ws s).ftu = s.ftu := rfl
@[simp] theorem acceptWindows_cvp (f : Feed) (ws : List Window) (s : State) :
    (acceptWindows f ws s).cvp = s.cvp := rfl
@[simp] theorem acceptWindows_tgu (f : Feed) (ws : List Window) (s : State) :
    (acceptWindows f ws s).tgu = s.tgu := rfl
@[simp] theorem acceptWindows_hac (f : Feed) (ws : List Window) (s : State) :
    (acceptWindows f ws s).hac = s.hac := rfl
@[simp] theorem acceptWindows_scu (f : Feed) (ws : List Window) (s : State) :
    (acceptWindows f ws s).scu = s.scu := rfl
@[simp] theorem acceptWindows_lnk (f : Feed) (ws : List Window) (s : State) :
    (acceptWindows f ws s).lnk = s.lnk := rfl
@[simp] theorem acceptWindows_cle (f : Feed) (ws : List Window) (s : State) :
    (acceptWindows f ws s).cle = s.cle := rfl
@[simp] theorem acceptWindows_lmu (f : Feed) (ws : List Window) (s : State) :
    (acceptWindows f ws s).lmu = s.lmu := rfl
@[simp] theorem acceptWindows_sil (f : Feed) (ws : List Window) (s : State) :
    (acceptWindows f ws s).sil = s.sil := rfl
@[simp] theorem acceptWindows_stepped (f : Feed) (ws : List Window) (s : State) :
    (acceptWindows f ws s).stepped = s.stepped := rfl
@[simp] theorem acceptWindows_pending (f : Feed) (ws : List Window) (s : State) :
    (acceptWindows f ws s).pending = s.pending := rfl

/-! `setClock` -/

@[simp] theorem setClock_cvp (x : List ClockSource) (l : Option (Byte × BitVec 16)) (s : State) :
    (setClock x l s).cvp = s.cvp := by
  simp [setClock]
@[simp] theorem setClock_smu (x : List ClockSource) (l : Option (Byte × BitVec 16)) (s : State) :
    (setClock x l s).smu = s.smu := by
  simp [setClock]
@[simp] theorem setClock_tgu (x : List ClockSource) (l : Option (Byte × BitVec 16)) (s : State) :
    (setClock x l s).tgu = s.tgu := by
  simp [setClock]
@[simp] theorem setClock_hac (x : List ClockSource) (l : Option (Byte × BitVec 16)) (s : State) :
    (setClock x l s).hac = s.hac := by
  simp [setClock]
@[simp] theorem setClock_scu (x : List ClockSource) (l : Option (Byte × BitVec 16)) (s : State) :
    (setClock x l s).scu = s.scu := by
  simp [setClock]
@[simp] theorem setClock_lmu (x : List ClockSource) (l : Option (Byte × BitVec 16)) (s : State) :
    (setClock x l s).lmu = s.lmu := by
  simp [setClock]
@[simp] theorem setClock_sil (x : List ClockSource) (l : Option (Byte × BitVec 16)) (s : State) :
    (setClock x l s).sil = s.sil := by
  simp [setClock]
@[simp] theorem setClock_stepped (x : List ClockSource) (l : Option (Byte × BitVec 16)) (s : State) :
    (setClock x l s).stepped = s.stepped := by
  simp [setClock]
@[simp] theorem setClock_pending (x : List ClockSource) (l : Option (Byte × BitVec 16)) (s : State) :
    (setClock x l s).pending = s.pending := by
  simp [setClock]

/-! `resetAssembler` -/

@[simp] theorem resetAssembler_ftu (f : Feed) (s : State) :
    (resetAssembler f s).ftu = s.ftu := rfl
@[simp] theorem resetAssembler_cvp (f : Feed) (s : State) :
    (resetAssembler f s).cvp = s.cvp := rfl
@[simp] theorem resetAssembler_smu (f : Feed) (s : State) :
    (resetAssembler f s).smu = s.smu := rfl
@[simp] theorem resetAssembler_tgu (f : Feed) (s : State) :
    (resetAssembler f s).tgu = s.tgu := rfl
@[simp] theorem resetAssembler_hac (f : Feed) (s : State) :
    (resetAssembler f s).hac = s.hac := rfl
@[simp] theorem resetAssembler_scu (f : Feed) (s : State) :
    (resetAssembler f s).scu = s.scu := rfl
@[simp] theorem resetAssembler_lnk (f : Feed) (s : State) :
    (resetAssembler f s).lnk = s.lnk := rfl
@[simp] theorem resetAssembler_lmu (f : Feed) (s : State) :
    (resetAssembler f s).lmu = s.lmu := rfl
@[simp] theorem resetAssembler_sil (f : Feed) (s : State) :
    (resetAssembler f s).sil = s.sil := rfl
@[simp] theorem resetAssembler_stepped (f : Feed) (s : State) :
    (resetAssembler f s).stepped = s.stepped := rfl
@[simp] theorem resetAssembler_pending (f : Feed) (s : State) :
    (resetAssembler f s).pending = s.pending := rfl

/-! `goOnline` -/

@[simp] theorem goOnline_cvp (f : Feed) (r : Role) (s : State) :
    (goOnline f r s).cvp = s.cvp := by
  simp [goOnline]
@[simp] theorem goOnline_smu (f : Feed) (r : Role) (s : State) :
    (goOnline f r s).smu = s.smu := by
  simp [goOnline]
@[simp] theorem goOnline_tgu (f : Feed) (r : Role) (s : State) :
    (goOnline f r s).tgu = s.tgu := by
  simp [goOnline]
@[simp] theorem goOnline_hac (f : Feed) (r : Role) (s : State) :
    (goOnline f r s).hac = s.hac := by
  simp [goOnline]
@[simp] theorem goOnline_scu (f : Feed) (r : Role) (s : State) :
    (goOnline f r s).scu = s.scu := by
  simp [goOnline]
@[simp] theorem goOnline_lmu (f : Feed) (r : Role) (s : State) :
    (goOnline f r s).lmu = s.lmu := by
  simp [goOnline]
@[simp] theorem goOnline_sil (f : Feed) (r : Role) (s : State) :
    (goOnline f r s).sil = s.sil := by
  simp [goOnline]
@[simp] theorem goOnline_stepped (f : Feed) (r : Role) (s : State) :
    (goOnline f r s).stepped = s.stepped := by
  simp [goOnline]
@[simp] theorem goOnline_pending (f : Feed) (r : Role) (s : State) :
    (goOnline f r s).pending = s.pending := by
  simp [goOnline]

/-! `moveControl` -/

@[simp] theorem moveControl_ftu (f : Feed) (r : Role) (s : State) :
    (moveControl f r s).ftu = s.ftu := by
  simp [moveControl]
@[simp] theorem moveControl_cvp (f : Feed) (r : Role) (s : State) :
    (moveControl f r s).cvp = s.cvp := by
  simp [moveControl]
@[simp] theorem moveControl_smu (f : Feed) (r : Role) (s : State) :
    (moveControl f r s).smu = s.smu := by
  simp [moveControl]
@[simp] theorem moveControl_tgu (f : Feed) (r : Role) (s : State) :
    (moveControl f r s).tgu = s.tgu := by
  simp [moveControl]
@[simp] theorem moveControl_hac (f : Feed) (r : Role) (s : State) :
    (moveControl f r s).hac = s.hac := by
  simp [moveControl]
@[simp] theorem moveControl_scu (f : Feed) (r : Role) (s : State) :
    (moveControl f r s).scu = s.scu := by
  simp [moveControl]
@[simp] theorem moveControl_lmu (f : Feed) (r : Role) (s : State) :
    (moveControl f r s).lmu = s.lmu := by
  simp [moveControl]
@[simp] theorem moveControl_sil (f : Feed) (r : Role) (s : State) :
    (moveControl f r s).sil = s.sil := by
  simp [moveControl]
@[simp] theorem moveControl_stepped (f : Feed) (r : Role) (s : State) :
    (moveControl f r s).stepped = s.stepped := by
  simp [moveControl]
@[simp] theorem moveControl_pending (f : Feed) (r : Role) (s : State) :
    (moveControl f r s).pending = s.pending := by
  simp [moveControl]

/-! `goOffline` -/

@[simp] theorem goOffline_cvp (f : Feed) (s : State) :
    (goOffline f s).cvp = s.cvp := by
  simp [goOffline]
@[simp] theorem goOffline_smu (f : Feed) (s : State) :
    (goOffline f s).smu = s.smu := by
  simp [goOffline]
@[simp] theorem goOffline_tgu (f : Feed) (s : State) :
    (goOffline f s).tgu = s.tgu := by
  simp [goOffline]
@[simp] theorem goOffline_hac (f : Feed) (s : State) :
    (goOffline f s).hac = s.hac := by
  simp [goOffline]
@[simp] theorem goOffline_sil (f : Feed) (s : State) :
    (goOffline f s).sil = s.sil := by
  simp [goOffline]
@[simp] theorem goOffline_stepped (f : Feed) (s : State) :
    (goOffline f s).stepped = s.stepped := by
  simp [goOffline]
@[simp] theorem goOffline_pending (f : Feed) (s : State) :
    (goOffline f s).pending = s.pending := by
  simp [goOffline]

/-! `deliverBytes` -/

@[simp] theorem deliverBytes_ftu (f : Feed) (r : Role) (late som : Bool) (bytes : List Byte) (s : State) :
    (deliverBytes f r late som bytes s).ftu = s.ftu := rfl
@[simp] theorem deliverBytes_cvp (f : Feed) (r : Role) (late som : Bool) (bytes : List Byte) (s : State) :
    (deliverBytes f r late som bytes s).cvp = s.cvp := rfl
@[simp] theorem deliverBytes_smu (f : Feed) (r : Role) (late som : Bool) (bytes : List Byte) (s : State) :
    (deliverBytes f r late som bytes s).smu = s.smu := rfl
@[simp] theorem deliverBytes_tgu (f : Feed) (r : Role) (late som : Bool) (bytes : List Byte) (s : State) :
    (deliverBytes f r late som bytes s).tgu = s.tgu := rfl
@[simp] theorem deliverBytes_hac (f : Feed) (r : Role) (late som : Bool) (bytes : List Byte) (s : State) :
    (deliverBytes f r late som bytes s).hac = s.hac := rfl
@[simp] theorem deliverBytes_scu (f : Feed) (r : Role) (late som : Bool) (bytes : List Byte) (s : State) :
    (deliverBytes f r late som bytes s).scu = s.scu := rfl
@[simp] theorem deliverBytes_lnk (f : Feed) (r : Role) (late som : Bool) (bytes : List Byte) (s : State) :
    (deliverBytes f r late som bytes s).lnk = s.lnk := rfl
@[simp] theorem deliverBytes_lmu (f : Feed) (r : Role) (late som : Bool) (bytes : List Byte) (s : State) :
    (deliverBytes f r late som bytes s).lmu = s.lmu := rfl
@[simp] theorem deliverBytes_sil (f : Feed) (r : Role) (late som : Bool) (bytes : List Byte) (s : State) :
    (deliverBytes f r late som bytes s).sil = s.sil := rfl
@[simp] theorem deliverBytes_stepped (f : Feed) (r : Role) (late som : Bool) (bytes : List Byte) (s : State) :
    (deliverBytes f r late som bytes s).stepped = s.stepped := rfl
@[simp] theorem deliverBytes_pending (f : Feed) (r : Role) (late som : Bool) (bytes : List Byte) (s : State) :
    (deliverBytes f r late som bytes s).pending = s.pending := rfl

/-! `popRequest` -/

@[simp] theorem popRequest_ftu (f : Feed) (s : State) :
    (popRequest f s).ftu = s.ftu := rfl
@[simp] theorem popRequest_cvp (f : Feed) (s : State) :
    (popRequest f s).cvp = s.cvp := rfl
@[simp] theorem popRequest_smu (f : Feed) (s : State) :
    (popRequest f s).smu = s.smu := rfl
@[simp] theorem popRequest_tgu (f : Feed) (s : State) :
    (popRequest f s).tgu = s.tgu := rfl
@[simp] theorem popRequest_hac (f : Feed) (s : State) :
    (popRequest f s).hac = s.hac := rfl
@[simp] theorem popRequest_scu (f : Feed) (s : State) :
    (popRequest f s).scu = s.scu := rfl
@[simp] theorem popRequest_lnk (f : Feed) (s : State) :
    (popRequest f s).lnk = s.lnk := rfl
@[simp] theorem popRequest_lmu (f : Feed) (s : State) :
    (popRequest f s).lmu = s.lmu := rfl
@[simp] theorem popRequest_sil (f : Feed) (s : State) :
    (popRequest f s).sil = s.sil := rfl
@[simp] theorem popRequest_stepped (f : Feed) (s : State) :
    (popRequest f s).stepped = s.stepped := rfl
@[simp] theorem popRequest_pending (f : Feed) (s : State) :
    (popRequest f s).pending = s.pending := rfl

/-! `restart` -/

@[simp] theorem restart_ftu (s : State) :
    (restart s).ftu = s.ftu := rfl
@[simp] theorem restart_cvp (s : State) :
    (restart s).cvp = s.cvp := rfl
@[simp] theorem restart_smu (s : State) :
    (restart s).smu = s.smu := rfl
@[simp] theorem restart_tgu (s : State) :
    (restart s).tgu = s.tgu := rfl
@[simp] theorem restart_hac (s : State) :
    (restart s).hac = s.hac := rfl
@[simp] theorem restart_lnk (s : State) :
    (restart s).lnk = s.lnk := rfl
@[simp] theorem restart_stepped (s : State) :
    (restart s).stepped = s.stepped := rfl
@[simp] theorem restart_pending (s : State) :
    (restart s).pending = s.pending := rfl

/-! `passOver` -/

@[simp] theorem passOver_ftu (s : State) :
    (passOver s).ftu = s.ftu := rfl
@[simp] theorem passOver_cvp (s : State) :
    (passOver s).cvp = s.cvp := rfl
@[simp] theorem passOver_smu (s : State) :
    (passOver s).smu = s.smu := rfl
@[simp] theorem passOver_tgu (s : State) :
    (passOver s).tgu = s.tgu := rfl
@[simp] theorem passOver_hac (s : State) :
    (passOver s).hac = s.hac := rfl
@[simp] theorem passOver_scu (s : State) :
    (passOver s).scu = s.scu := rfl
@[simp] theorem passOver_lnk (s : State) :
    (passOver s).lnk = s.lnk := rfl
@[simp] theorem passOver_lmu (s : State) :
    (passOver s).lmu = s.lmu := rfl
@[simp] theorem passOver_sil (s : State) :
    (passOver s).sil = s.sil := rfl
@[simp] theorem passOver_stepped (s : State) :
    (passOver s).stepped = s.stepped := rfl
@[simp] theorem passOver_pending (s : State) :
    (passOver s).pending = s.pending := rfl

/-! `transmit` -/

@[simp] theorem transmit_ftu (s : State) :
    (transmit s).ftu = s.ftu := rfl
@[simp] theorem transmit_cvp (s : State) :
    (transmit s).cvp = s.cvp := rfl
@[simp] theorem transmit_smu (s : State) :
    (transmit s).smu = s.smu := rfl
@[simp] theorem transmit_tgu (s : State) :
    (transmit s).tgu = s.tgu := rfl
@[simp] theorem transmit_hac (s : State) :
    (transmit s).hac = s.hac := rfl
@[simp] theorem transmit_scu (s : State) :
    (transmit s).scu = s.scu := rfl
@[simp] theorem transmit_lmu (s : State) :
    (transmit s).lmu = s.lmu := rfl
@[simp] theorem transmit_sil (s : State) :
    (transmit s).sil = s.sil := rfl
@[simp] theorem transmit_stepped (s : State) :
    (transmit s).stepped = s.stepped := rfl
@[simp] theorem transmit_pending (s : State) :
    (transmit s).pending = s.pending := rfl

/-! `nextFrame` -/

@[simp] theorem nextFrame_smu (s : State) :
    (nextFrame s).smu = s.smu := rfl
@[simp] theorem nextFrame_tgu (s : State) :
    (nextFrame s).tgu = s.tgu := rfl
@[simp] theorem nextFrame_scu (s : State) :
    (nextFrame s).scu = s.scu := rfl
@[simp] theorem nextFrame_lmu (s : State) :
    (nextFrame s).lmu = s.lmu := rfl
@[simp] theorem nextFrame_sil (s : State) :
    (nextFrame s).sil = s.sil := rfl
@[simp] theorem nextFrame_pending (s : State) :
    (nextFrame s).pending = s.pending := rfl

/-! `lateArrivals` -/

@[simp] theorem lateArrivals_ftu (s : State) :
    (lateArrivals s).ftu = s.ftu := rfl
@[simp] theorem lateArrivals_cvp (s : State) :
    (lateArrivals s).cvp = s.cvp := rfl
@[simp] theorem lateArrivals_smu (s : State) :
    (lateArrivals s).smu = s.smu := rfl
@[simp] theorem lateArrivals_tgu (s : State) :
    (lateArrivals s).tgu = s.tgu := rfl
@[simp] theorem lateArrivals_hac (s : State) :
    (lateArrivals s).hac = s.hac := rfl
@[simp] theorem lateArrivals_scu (s : State) :
    (lateArrivals s).scu = s.scu := rfl
@[simp] theorem lateArrivals_lnk (s : State) :
    (lateArrivals s).lnk = s.lnk := rfl
@[simp] theorem lateArrivals_lmu (s : State) :
    (lateArrivals s).lmu = s.lmu := rfl
@[simp] theorem lateArrivals_sil (s : State) :
    (lateArrivals s).sil = s.sil := rfl
@[simp] theorem lateArrivals_stepped (s : State) :
    (lateArrivals s).stepped = s.stepped := rfl
@[simp] theorem lateArrivals_pending (s : State) :
    (lateArrivals s).pending = s.pending := rfl

/-! `takeSettings` -/

@[simp] theorem takeSettings_cvp (k : LoadKind) (j : Judgement) (s : State) :
    (takeSettings k j s).cvp = s.cvp := rfl
@[simp] theorem takeSettings_scu (k : LoadKind) (j : Judgement) (s : State) :
    (takeSettings k j s).scu = s.scu := rfl
@[simp] theorem takeSettings_lnk (k : LoadKind) (j : Judgement) (s : State) :
    (takeSettings k j s).lnk = s.lnk := rfl
@[simp] theorem takeSettings_stepped (k : LoadKind) (j : Judgement) (s : State) :
    (takeSettings k j s).stepped = s.stepped := rfl
@[simp] theorem takeSettings_pending (k : LoadKind) (j : Judgement) (s : State) :
    (takeSettings k j s).pending = s.pending := rfl

/-! Fields of a changed block that an update leaves alone -/

@[simp] theorem setHeadAmp_hac_padSettle (c : Option (Fin 64)) (p q : Option Bool) (i : Input) (s : State) :
    (setHeadAmp c p q i s).hac.padSettle = s.hac.padSettle := rfl
@[simp] theorem setHeadAmp_hac_phantomSettle (c : Option (Fin 64)) (p q : Option Bool) (i : Input) (s : State) :
    (setHeadAmp c p q i s).hac.phantomSettle = s.hac.phantomSettle := rfl
@[simp] theorem setHeadAmp_hac_padValue (c : Option (Fin 64)) (p q : Option Bool) (i : Input) (s : State) :
    (setHeadAmp c p q i s).hac.padValue = s.hac.padValue := rfl
@[simp] theorem setHeadAmp_hac_plt (c : Option (Fin 64)) (p q : Option Bool) (i : Input) (s : State) :
    (setHeadAmp c p q i s).hac.plt = s.hac.plt := rfl
@[simp] theorem setHeadAmp_hac_staging (c : Option (Fin 64)) (p q : Option Bool) (i : Input) (s : State) :
    (setHeadAmp c p q i s).hac.staging = s.hac.staging := rfl
@[simp] theorem setHeadAmp_hac_marks (c : Option (Fin 64)) (p q : Option Bool) (i : Input) (s : State) :
    (setHeadAmp c p q i s).hac.marks = s.hac.marks := rfl
@[simp] theorem setHeadAmp_hac_landed (c : Option (Fin 64)) (p q : Option Bool) (i : Input) (s : State) :
    (setHeadAmp c p q i s).hac.landed = s.hac.landed := rfl
@[simp] theorem nudgeHeadAmp_hac_padSettle (d : Int) (i : Input) (s : State) :
    (nudgeHeadAmp d i s).hac.padSettle = s.hac.padSettle := rfl
@[simp] theorem nudgeHeadAmp_hac_phantomSettle (d : Int) (i : Input) (s : State) :
    (nudgeHeadAmp d i s).hac.phantomSettle = s.hac.phantomSettle := rfl
@[simp] theorem nudgeHeadAmp_hac_padValue (d : Int) (i : Input) (s : State) :
    (nudgeHeadAmp d i s).hac.padValue = s.hac.padValue := rfl
@[simp] theorem nudgeHeadAmp_hac_plt (d : Int) (i : Input) (s : State) :
    (nudgeHeadAmp d i s).hac.plt = s.hac.plt := rfl
@[simp] theorem nudgeHeadAmp_hac_staging (d : Int) (i : Input) (s : State) :
    (nudgeHeadAmp d i s).hac.staging = s.hac.staging := rfl
@[simp] theorem nudgeHeadAmp_hac_marks (d : Int) (i : Input) (s : State) :
    (nudgeHeadAmp d i s).hac.marks = s.hac.marks := rfl
@[simp] theorem nudgeHeadAmp_hac_landed (d : Int) (i : Input) (s : State) :
    (nudgeHeadAmp d i s).hac.landed = s.hac.landed := rfl
@[simp] theorem changeTap_tgu_glide (f : Feed) (i : Input) (g : Tap → Tap) (s : State) :
    (changeTap f i g s).tgu.glide = s.tgu.glide := rfl
@[simp] theorem compensate_tgu_glide (i : Input) (d : Int) (s : State) :
    (compensate i d s).tgu.glide = s.tgu.glide := by
  simp [compensate]
@[simp] theorem rebase_tgu_glide (i : Input) (d : Int) (s : State) :
    (rebase i d s).tgu.glide = s.tgu.glide := by
  simp [rebase]
@[simp] theorem stepTaps_tgu_glide (s : State) :
    (stepTaps s).tgu.glide = s.tgu.glide := rfl
@[simp] theorem changeTap_tgu_glt (f : Feed) (i : Input) (g : Tap → Tap) (s : State) :
    (changeTap f i g s).tgu.glt = s.tgu.glt := rfl
@[simp] theorem compensate_tgu_glt (i : Input) (d : Int) (s : State) :
    (compensate i d s).tgu.glt = s.tgu.glt := by
  simp [compensate]
@[simp] theorem rebase_tgu_glt (i : Input) (d : Int) (s : State) :
    (rebase i d s).tgu.glt = s.tgu.glt := by
  simp [rebase]
@[simp] theorem stepTaps_tgu_glt (s : State) :
    (stepTaps s).tgu.glt = s.tgu.glt := rfl
@[simp] theorem changeTap_tgu_staging (f : Feed) (i : Input) (g : Tap → Tap) (s : State) :
    (changeTap f i g s).tgu.staging = s.tgu.staging := rfl
@[simp] theorem compensate_tgu_staging (i : Input) (d : Int) (s : State) :
    (compensate i d s).tgu.staging = s.tgu.staging := by
  simp [compensate]
@[simp] theorem rebase_tgu_staging (i : Input) (d : Int) (s : State) :
    (rebase i d s).tgu.staging = s.tgu.staging := by
  simp [rebase]
@[simp] theorem stepTaps_tgu_staging (s : State) :
    (stepTaps s).tgu.staging = s.tgu.staging := rfl
@[simp] theorem changeTap_tgu_marks (f : Feed) (i : Input) (g : Tap → Tap) (s : State) :
    (changeTap f i g s).tgu.marks = s.tgu.marks := rfl
@[simp] theorem compensate_tgu_marks (i : Input) (d : Int) (s : State) :
    (compensate i d s).tgu.marks = s.tgu.marks := by
  simp [compensate]
@[simp] theorem rebase_tgu_marks (i : Input) (d : Int) (s : State) :
    (rebase i d s).tgu.marks = s.tgu.marks := by
  simp [rebase]
@[simp] theorem stepTaps_tgu_marks (s : State) :
    (stepTaps s).tgu.marks = s.tgu.marks := rfl
@[simp] theorem changeTap_tgu_pending (f : Feed) (i : Input) (g : Tap → Tap) (s : State) :
    (changeTap f i g s).tgu.pending = s.tgu.pending := rfl
@[simp] theorem compensate_tgu_pending (i : Input) (d : Int) (s : State) :
    (compensate i d s).tgu.pending = s.tgu.pending := by
  simp [compensate]
@[simp] theorem rebase_tgu_pending (i : Input) (d : Int) (s : State) :
    (rebase i d s).tgu.pending = s.tgu.pending := by
  simp [rebase]
@[simp] theorem stepTaps_tgu_pending (s : State) :
    (stepTaps s).tgu.pending = s.tgu.pending := rfl
@[simp] theorem changeTap_tgu_out (f : Feed) (i : Input) (g : Tap → Tap) (s : State) :
    (changeTap f i g s).tgu.out = s.tgu.out := rfl
@[simp] theorem compensate_tgu_out (i : Input) (d : Int) (s : State) :
    (compensate i d s).tgu.out = s.tgu.out := by
  simp [compensate]
@[simp] theorem rebase_tgu_out (i : Input) (d : Int) (s : State) :
    (rebase i d s).tgu.out = s.tgu.out := by
  simp [rebase]
@[simp] theorem setOpenScene_scu_scheduled (f : Feed) (x : Option (List SceneEntry)) (s : State) :
    (setOpenScene f x s).scu.scheduled = s.scu.scheduled := rfl
@[simp] theorem setOpenScene_scu_nextId (f : Feed) (x : Option (List SceneEntry)) (s : State) :
    (setOpenScene f x s).scu.nextId = s.scu.nextId := rfl
@[simp] theorem nextFrame_cle_supervisor (s : State) :
    (nextFrame s).cle.supervisor = s.cle.supervisor := rfl
@[simp] theorem nextFrame_cle_pointer (s : State) :
    (nextFrame s).cle.pointer = s.cle.pointer := rfl
@[simp] theorem nextFrame_cle_lanes (s : State) :
    (nextFrame s).cle.lanes = s.cle.lanes := rfl
@[simp] theorem passOver_cle_supervisor (s : State) :
    (passOver s).cle.supervisor = s.cle.supervisor := rfl
@[simp] theorem passOver_cle_pointer (s : State) :
    (passOver s).cle.pointer = s.cle.pointer := rfl
@[simp] theorem passOver_cle_lanes (s : State) :
    (passOver s).cle.lanes = s.cle.lanes := rfl
@[simp] theorem popRequest_cle_supervisor (f : Feed) (s : State) :
    (popRequest f s).cle.supervisor = s.cle.supervisor := rfl
@[simp] theorem popRequest_cle_pointer (f : Feed) (s : State) :
    (popRequest f s).cle.pointer = s.cle.pointer := rfl
@[simp] theorem popRequest_cle_left (f : Feed) (s : State) :
    (popRequest f s).cle.left = s.cle.left := rfl
@[simp] theorem setSubscription_lmu_clips (f : Feed) (x : Option Subscription) (s : State) :
    (setSubscription f x s).lmu.clips = s.lmu.clips := rfl
@[simp] theorem changeClips_lmu_subscriptions (g : Clip → Clip) (is : List Input) (s : State) :
    (changeClips g is s).lmu.subscriptions = s.lmu.subscriptions := rfl

end Sys2Proof.Machine
end

