-- ==== Sys2Proof/Laws/Vec.lean ====
section
/-! SUPPORT. Reading an entry of a vector that `tab`, `upd`, `put` or `mapAll` built, and equality entry by entry. -/

namespace Sys2Proof.Machine

variable {α β : Type} {n : Nat}

@[simp] theorem tab_entry (f : Fin n → α) (k : Nat) (h : k < n) : (tab f)[k] = f ⟨k, h⟩ := by
  simp [tab]

@[simp] theorem upd_entry (v : Vector α n) (i : Fin n) (g : α → α) (k : Nat) (h : k < n) :
    (upd v i g)[k] = if i.val = k then g v[k] else v[k] := by
  unfold upd
  rw [Vector.getElem_set]
  split
  · next e => subst e; rfl
  · rfl

@[simp] theorem put_entry (v : Vector α n) (i : Fin n) (x : α) (k : Nat) (h : k < n) :
    (put v i x)[k] = if i.val = k then x else v[k] := by
  simp [put]

@[simp] theorem mapAll_entry (g : Fin n → α → β) (v : Vector α n) (k : Nat) (h : k < n) :
    (mapAll g v)[k] = g ⟨k, h⟩ v[k] := by
  simp [mapAll]

/-- Two vectors with the same entries are the same. -/
theorem entries_ext {v w : Vector α n} (h : ∀ i : Fin n, v[i] = w[i]) : v = w := by
  apply Vector.ext
  intro k hk
  exact h ⟨k, hk⟩

/-- A vector is the table of its entries. -/
theorem tab_of_entries (v : Vector α n) : (tab fun i => v[i]) = v :=
  entries_ext fun i => by simp

theorem upd_eq_tab (v : Vector α n) (i : Fin n) (g : α → α) :
    upd v i g = tab fun j => if j = i then g v[j] else v[j] :=
  entries_ext fun j => by simp [Fin.ext_iff, eq_comm]

theorem put_eq_tab (v : Vector α n) (i : Fin n) (x : α) : put v i x = tab fun j => if j = i then x else v[j] :=
  entries_ext fun j => by simp [Fin.ext_iff, eq_comm]

theorem mapAll_eq_tab (g : Fin n → α → β) (v : Vector α n) : mapAll g v = tab fun i => g i v[i] := rfl

/-- An update that gives back the entry it finds changes nothing. -/
theorem upd_same (v : Vector α n) (i : Fin n) (g : α → α) (h : g v[i] = v[i]) : upd v i g = v :=
  entries_ext fun j => by
    simp only [Fin.getElem_fin, upd_entry]
    split
    · next e => rw [← Fin.ext e]; exact h
    · rfl

end Sys2Proof.Machine
end

