-- ==== Sys2Proof/Laws/Ops.lean ====
section
/-! SUPPORT. What each shared operation does: frame numbers, limits, bytes, lanes, notices, changes of taps, and the grant of
a request. -/

namespace Sys2Proof.Machine

/-! ### Frame numbers -/

theorem notAfter_iff (x y : FrameNo) : notAfter x y = true ↔ 0 ≤ lead y x := by
  simp [notAfter, lead]

theorem due_iff (x n : FrameNo) : due x n = true ↔ 0 ≤ lead n x := notAfter_iff x n

theorem lead_self (n : FrameNo) : lead n n = 0 := by simp [lead]

/-- A frame held `k` frames ahead, `k` below 2^31, has lead `k`. -/
theorem lead_add (n : FrameNo) (k : Nat) (h : k < 2147483648) : lead (n + BitVec.ofNat 32 k) n = k := by
  unfold lead
  have e : n + BitVec.ofNat 32 k - n = BitVec.ofNat 32 k := by
    rw [BitVec.add_comm, BitVec.add_sub_cancel]
  rw [e]
  have t : (BitVec.ofNat 32 k).toNat = k := by
    rw [BitVec.toNat_ofNat]
    omega
  rw [BitVec.toInt_eq_toNat_cond, t]
  omega

/-! ### Limits -/

theorem clampTrim_range (x : Int) : -320 ≤ clampTrim x ∧ clampTrim x ≤ 192 := by
  unfold clampTrim clampTo
  split
  · omega
  · split <;> omega

theorem clampTrim_of_inTrim (x : Int) (h : inTrim x) : clampTrim x = x := by
  unfold inTrim at h
  unfold clampTrim clampTo
  split
  · omega
  · split <;> omega

/-- Limiting changes a value exactly when it lies outside the range. -/
theorem clampTrim_ne_iff (x : Int) : clampTrim x ≠ x ↔ ¬ inTrim x := by
  constructor
  · intro h hx
    exact h (clampTrim_of_inTrim x hx)
  · intro h hx
    have r := clampTrim_range x
    rw [hx] at r
    exact h r

/-! ### Bytes -/

@[simp] theorem be_length (k n : Nat) : (be k n).length = k := by
  induction k with
  | zero => rfl
  | succ k ih => simp [be, ih]

theorem ofBe_append (a b : List Byte) : ofBe (a ++ b) = ofBe a * 256 ^ b.length + ofBe b := by
  have step : ∀ (b : List Byte) (x : Nat),
      b.foldl (fun acc c => acc * 256 + c.toNat) x = x * 256 ^ b.length + ofBe b := by
    intro b
    induction b with
    | nil => intro x; simp [ofBe]
    | cons c b ih =>
      intro x
      rw [List.foldl_cons, ih]
      have e : ofBe (c :: b) = c.toNat * 256 ^ b.length + ofBe b := by
        unfold ofBe
        rw [List.foldl_cons, ih]
        simp [ofBe]
      rw [e, List.length_cons, Nat.pow_succ]
      ring
  unfold ofBe
  rw [List.foldl_append]
  exact step b _

/-- A number written as `k` bytes reads back as its value modulo 256^k. -/
theorem ofBe_be (k n : Nat) : ofBe (be k n) = n % 256 ^ k := by
  induction k with
  | zero => simp [be, ofBe, Nat.mod_one]
  | succ k ih =>
    have e : be (k + 1) n = [BitVec.ofNat 8 (n >>> (8 * k))] ++ be k n := rfl
    rw [e, ofBe_append, ih, be_length]
    have h : ofBe [BitVec.ofNat 8 (n >>> (8 * k))] = n / 256 ^ k % 256 := by
      have p : (2 : Nat) ^ (8 * k) = 256 ^ k := by rw [Nat.pow_mul]
      simp [ofBe, Nat.shiftRight_eq_div_pow, p]
    rw [h, Nat.pow_succ, Nat.mod_mul]
    ring

/-! ### Lanes -/

@[simp] theorem offer_assembler (nt : Notice) (l : Lane) : (l.offer nt).assembler = l.assembler := rfl
@[simp] theorem offer_requests (nt : Notice) (l : Lane) : (l.offer nt).requests = l.requests := rfl
@[simp] theorem offer_arriving (nt : Notice) (l : Lane) : (l.offer nt).arriving = l.arriving := rfl
@[simp] theorem offer_responses (nt : Notice) (l : Lane) : (l.offer nt).responses = l.responses := rfl
@[simp] theorem offer_serialiser (nt : Notice) (l : Lane) : (l.offer nt).serialiser = l.serialiser := rfl
@[simp] theorem offer_sendingNotice (nt : Notice) (l : Lane) : (l.offer nt).sendingNotice = l.sendingNotice := rfl

theorem handed_append (a b : List Notice) (l : Lane) :
    l.handed (a ++ b) = (((l.handed a).1.handed b).1, (l.handed a).2 || ((l.handed a).1.handed b).2) := by
  induction a generalizing l with
  | nil => simp [Lane.handed]
  | cons nt a ih => simp [Lane.handed, ih, Bool.or_assoc]

/-- Notices change nothing of a lane but its notice queue. -/
theorem handed_keeps (nts : List Notice) (l : Lane) :
    (l.handed nts).1 = { l with notices := (l.handed nts).1.notices } := by
  induction nts generalizing l with
  | nil => rfl
  | cons nt nts ih =>
    simp only [Lane.handed]
    rw [ih]
    rfl

/-! ### Notices -/

/-- Two states that agree in every block are the same. -/
theorem state_ext {s t : State} (ftu : s.ftu = t.ftu) (cvp : s.cvp = t.cvp) (smu : s.smu = t.smu) (tgu : s.tgu = t.tgu)
    (hac : s.hac = t.hac) (scu : s.scu = t.scu) (lnk : s.lnk = t.lnk) (cle : s.cle = t.cle) (lmu : s.lmu = t.lmu)
    (sil : s.sil = t.sil) (stepped : s.stepped = t.stepped) (pending : s.pending = t.pending) : s = t := by
  cases s
  cases t
  simp_all

theorem cle_ext {a b : Cle} (lanes : ∀ f : Feed, a.lanes[f] = b.lanes[f]) (supervisor : a.supervisor = b.supervisor)
    (pointer : a.pointer = b.pointer) (left : a.left = b.left) : a = b := by
  have h : a.lanes = b.lanes := entries_ext lanes
  cases a
  cases b
  simp_all

theorem lnk_ext {a b : Lnk} (ports : a.ports = b.ports) (feeds : ∀ f : Feed, a.feeds[f] = b.feeds[f]) : a = b := by
  have h : a.feeds = b.feeds := entries_ext feeds
  cases a
  cases b
  simp_all

theorem told_lane (nts : Feed → List Notice) (s : State) (f : Feed) :
    (told nts s).lane f = if s.online f then ((s.lane f).handed (nts f)).1 else s.lane f := by
  simp [told, State.lane]

theorem told_feed (nts : Feed → List Notice) (s : State) (f : Feed) :
    (told nts s).lnk.feeds[f] =
      { s.lnk.feeds[f] with
        resync := s.lnk.feeds[f].resync || (s.online f && ((s.lane f).handed (nts f)).2) } := by
  simp only [told, Fin.getElem_fin, tab_entry]
  split
  · next h => simp [h]
  · next h => simp [h]

@[simp] theorem told_online (nts : Feed → List Notice) (s : State) (f : Feed) :
    (told nts s).online f = s.online f := by
  unfold State.online
  rw [told_feed]

/-- States that differ in lanes and feed records alone. -/
theorem lanes_feeds_ext {s t : State} (blocks : t = { s with cle := t.cle, lnk := t.lnk })
    (lanes : ∀ f : Feed, s.lane f = t.lane f) (supervisor : s.cle.supervisor = t.cle.supervisor)
    (pointer : s.cle.pointer = t.cle.pointer) (left : s.cle.left = t.cle.left) (ports : s.lnk.ports = t.lnk.ports)
    (feeds : ∀ f : Feed, s.lnk.feeds[f] = t.lnk.feeds[f]) : s = t := by
  rw [blocks]
  have c : t.cle = s.cle := (cle_ext lanes supervisor pointer left).symm
  have l : t.lnk = s.lnk := (lnk_ext ports feeds).symm
  rw [c, l]

theorem told_nothing (s : State) : told (fun _ => []) s = s := by
  apply lanes_feeds_ext
  · rfl
  · intro f
    rw [told_lane]
    simp [Lane.handed]
  · rfl
  · rfl
  · rfl
  · rfl
  · intro f
    rw [told_feed]
    simp [Lane.handed]

/-- Notices handed in two goes are handed in one. -/
theorem told_told (a b : Feed → List Notice) (s : State) : told b (told a s) = told (fun g => a g ++ b g) s := by
  apply lanes_feeds_ext
  · rfl
  · intro f
    rw [told_lane, told_lane, told_lane, told_online, handed_append]
    split <;> rfl
  · rfl
  · rfl
  · rfl
  · rfl
  · intro f
    rw [told_feed, told_feed, told_feed, told_lane, told_online, handed_append]
    cases s.online f <;> simp [Bool.or_assoc]

/-- A notice for one feed. -/
theorem notifyIf_told (b : Bool) (f : Feed) (nt : Notice) (s : State) :
    notifyIf b f nt s = told (toFeed f (if b then [nt] else [])) s := by
  cases b with
  | false =>
    have e : toFeed f [] = fun _ => [] := by
      funext g
      simp [toFeed]
    simp only [Bool.false_eq_true, if_false, e, told_nothing]
    rfl
  | true =>
    apply lanes_feeds_ext
    · rfl
    · intro g
      rw [told_lane]
      unfold notifyIf toFeed State.lane
      by_cases h : g = f
      · subst h
        cases ho : s.online g <;> simp [Cle.onLane, Lane.handed]
      · have hv : ¬ f.val = g.val := fun e => h (Fin.ext e.symm)
        cases ho : s.online f <;> cases hg : s.online g <;> simp [Cle.onLane, h, hv, Lane.handed]
    · cases ho : s.online f <;> simp [notifyIf, ho, told]
    · cases ho : s.online f <;> simp [notifyIf, ho, told]
    · cases ho : s.online f <;> simp [notifyIf, ho, told]
    · unfold notifyIf
      dsimp only
      split <;> rfl
    · intro g
      rw [told_feed]
      unfold notifyIf toFeed
      by_cases h : g = f
      · subst h
        cases ho : s.online g <;> cases hv : (s.lane g).overflows nt <;> simp [Lnk.onFeed, Lane.handed, hv]
      · have hv : ¬ f.val = g.val := fun e => h (Fin.ext e.symm)
        cases ho : s.online f <;> cases hw : (s.lane f).overflows nt <;> simp [Lnk.onFeed, h, hv, Lane.handed]

/-- A notice for every feed that `p` addresses (R149). -/
theorem notifyWhere_told (p : Feed → Bool) (nt : Notice) (s : State) :
    notifyWhere p nt s = told (toFeeds p nt) s := by
  unfold notifyWhere
  rw [notifyIf_told, notifyIf_told, notifyIf_told, notifyIf_told, told_told, told_told, told_told]
  congr 1
  funext g
  fin_cases g <;> simp [toFeed, toFeeds]

/-! ### Changes of taps -/

/-- A change of one tap: the tap replaced, and a LIMIT notice for its feed when the limit flag changes (R37). -/
theorem changeTap_told (f : Feed) (i : Input) (g : Tap → Tap) (s : State) :
    changeTap f i g s =
      told (toFeed f (limitNotices f [i] (fun _ => g (s.tap f i)) s))
        { s with tgu := s.tgu.onTap f i fun _ => g (s.tap f i) } := by
  unfold changeTap
  rw [notifyIf_told]
  congr 2
  unfold limitNotices
  by_cases h : (g (s.tap f i)).limit = (s.tap f i).limit
  · simp [h]
  · cases m : (g (s.tap f i)).mode <;> simp [h, m, Tap.unclamped]

/-! ### The grant of a request and the round -/

/-- A grant appends one response, moves the pointer on and takes the feed as considered (R145, R147). -/
theorem grant_answered (f : Feed) (m : Message) (s : State)
    (left : (execute f m s).1.roundLeft = s.roundLeft) :
    grant f m s = answered f m.tag m.kind (execute f m s).2 (execute f m s).1 := by
  apply lanes_feeds_ext
  · rfl
  · intro g
    by_cases h : g = f
    · subst h
      simp [grant, respond, answered, Cle.onLane, State.lane, Lane.respond]
    · have hv : ¬ f.val = g.val := fun e => h (Fin.ext e.symm)
      simp [grant, respond, answered, Cle.onLane, State.lane, h, hv]
  · rfl
  · rfl
  · simp [grant, answered, left]
  · rfl
  · intro g
    rfl

/-- A request that is granted on arrival (R145). -/
theorem submit_served (f : Feed) (m : Message) (s : State) (h : s.serves f) :
    submit f m s = grant f m (reach f s) := by
  obtain ⟨on, none, room, left⟩ := h
  unfold submit
  rw [if_pos on, if_pos ⟨none, room, left⟩]

/-- A request that is not granted on arrival: nothing of an OFFLINE feed, and otherwise it arrives (R144). -/
theorem submit_not_served (f : Feed) (m : Message) (s : State) (h : ¬ s.serves f) :
    submit f m s = if s.online f then { s with cle := s.cle.onLane f (·.arrive m) } else s := by
  unfold submit
  by_cases on : s.online f = true
  · rw [if_pos on, if_pos on, if_neg fun c => h ⟨on, c.1, c.2.1, c.2.2⟩]
  · rw [if_neg on, if_neg on]

/-- The consideration of a feed that is not eligible. -/
theorem consider_passes (f : Feed) (s : State) (h : (s.lane f).requests = [] ∨ 8 ≤ (s.lane f).responses.length) :
    consider f s = passOver s := by
  unfold consider
  split
  · rfl
  · next m rest e =>
    rcases h with h | h
    · rw [e] at h
      cases h
    · exact if_neg (by omega)

/-- The consideration of an eligible feed. -/
theorem consider_grants (f : Feed) (s : State) (m : Message) (rest : List Message) (h : (s.lane f).requests = m :: rest)
    (room : (s.lane f).responses.length < 8) : consider f s = grant f m (popRequest f s) := by
  unfold consider
  rw [h]
  exact if_pos room

theorem grant_left (f : Feed) (m : Message) (s : State) : (grant f m s).cle.left = some s.roundLeft.tail := rfl

/-- The consideration of a feed takes it off the round. -/
theorem consider_left (f : Feed) (s : State) : (consider f s).cle.left = some s.roundLeft.tail := by
  unfold consider
  split
  · rfl
  · split
    · rw [grant_left]
      rfl
    · rfl

theorem consider_roundLeft (f : Feed) (s : State) : (consider f s).roundLeft = s.roundLeft.tail := by
  rw [State.roundLeft, consider_left]
  rfl

theorem round_done (s : State) (h : s.roundLeft = []) : round s = s := by
  unfold round
  rw [h]
  rfl

/-- A round considers its next feed, and then the rest (R145). -/
theorem round_next (s : State) (f : Feed) (rest : List Feed) (h : s.roundLeft = f :: rest) :
    round s = round (consider f s) := by
  unfold round
  rw [consider_roundLeft, h]
  rfl

/-- The round stops before the feed that it is to reach. -/
theorem roundUpTo_stop (f : Feed) (s : State) (h : s.roundLeft = [] ∨ s.roundLeft.head? = some f) :
    roundUpTo f s = s := by
  unfold roundUpTo
  rcases h with h | h
  · rw [h]
    rfl
  · cases l : s.roundLeft with
    | nil => rfl
    | cons g rest =>
      rw [l] at h
      cases h
      simp

theorem roundUpTo_next (f g : Feed) (s : State) (rest : List Feed) (h : s.roundLeft = g :: rest) (ne : g ≠ f) :
    roundUpTo f s = roundUpTo f (consider g s) := by
  unfold roundUpTo
  rw [consider_roundLeft, h]
  simp [ne]

/-! ### The rebase of a tap -/

/-- What a rebase does to a tap that is sound at the old gain (R43, R89): it moves the anchor alone, and the tap is sound at the
new gain. -/
theorem Tap.rebase_of_sound (frame : FrameNo) (f : Feed) (i : Input) (d a : Int) (t : Tap) (h : t.sound (a - d))
    (lo : -255 ≤ a) (hi : a ≤ 511) :
    t.rebase frame f i d a =
      { t with mode := match t.mode with
        | .follow => .follow
        | .track n => .track (moveAnchor frame f i n d t.offset a) } ∧
    (t.rebase frame f i d a).sound a := by
  obtain ⟨mode, offset, target, current, mute, limit⟩ := t
  cases mode with
  | follow => exact ⟨rfl, h⟩
  | track n =>
    have up := (Config.anchorOverflow frame f i n d).toInt_lt
    have down := (Config.anchorOverflow frame f i n d).le_toInt
    obtain ⟨ho, -, hc, h1, h2, ht, hl⟩ := h
    simp only [inTrim] at *
    have moved : ∃ m, moveAnchor frame f i n d offset a = m ∧ -2147483648 ≤ m ∧ m ≤ 2147483647 ∧
        clampTrim (offset + m - a) = target ∧ (limit = true ↔ ¬ (-320 ≤ offset + m - a ∧ offset + m - a ≤ 192)) := by
      refine ⟨_, rfl, ?_⟩
      rw [hl, ht]
      unfold moveAnchor clampTrim clampTo
      split
      · rename_i fits
        refine ⟨fits.1, fits.2, ?_, ?_⟩ <;> grind
      · split <;> grind
    obtain ⟨m, hm, h3, h4, h5, h6⟩ := moved
    have h7 : decide (clampTrim (offset + m - a) ≠ offset + m - a) = limit := by
      rw [Bool.eq_iff_iff, decide_eq_true_iff, h6]
      unfold clampTrim clampTo
      grind
    have h8 : Tap.rebase frame f i d a ⟨.track n, offset, target, current, mute, limit⟩ =
        ⟨.track m, offset, target, current, mute, limit⟩ := by
      simp only [Tap.rebase, Tap.retarget, hm]
      rw [h7, h5]
    refine ⟨by rw [h8]; simp [hm], ?_⟩
    rw [h8]
    refine ⟨ho, ?_, hc, h3, h4, ?_, ?_⟩
    · have : -320 ≤ target ∧ target ≤ 192 := by rw [← h5]; unfold clampTrim clampTo; omega
      exact this
    · rw [← h5]; unfold clampTrim clampTo; grind
    · exact h6

/-! ### A save cut short -/

@[simp] theorem stoppedImage_length (written : Nat) (sections held : List Byte) :
    (stoppedImage written sections held).length = max 1739 held.length := by
  simp [stoppedImage]

/-- Every byte of the image that a stopped save leaves. -/
theorem stoppedImage_getElem? (written p : Nat) (sections held : List Byte) (h : p < max 1739 held.length) :
    (stoppedImage written sections held)[p]? = some
      (if p = 4 then 0
      else if p < 1739 ∧ writePlace p < written then (imageOf sections).getD p 0
      else held.getD p 0) := by
  rw [stoppedImage, List.getElem?_map, List.getElem?_range h]
  rfl

end Sys2Proof.Machine
end

