-- ==== Sys2Proof/Laws/Frame.lean ====
section
/-! SUPPORT. What opening a frame leaves alone: the clock, the scenes, the stored image, the conversations and the link
ports. -/

namespace Sys2Proof.Machine

/-- Two states with the same clock, scenes, image, link ports, waiting commands and conversations, notices apart. -/
def State.quiet (s t : State) : Prop :=
  t.ftu = s.ftu ∧ t.scu = s.scu ∧ t.sil = s.sil ∧ t.pending = s.pending ∧ t.lnk.ports = s.lnk.ports ∧
    t.cle.supervisor = s.cle.supervisor ∧ t.cle.pointer = s.cle.pointer ∧ t.cle.left = s.cle.left ∧ (∀ f, t.online f = s.online f) ∧
    ∀ f, t.lane f = { s.lane f with notices := (t.lane f).notices }

theorem quiet_refl (s : State) : s.quiet s := ⟨rfl, rfl, rfl, rfl, rfl, rfl, rfl, rfl, fun _ => rfl, fun _ => rfl⟩

theorem quiet_trans {s t u : State} (a : s.quiet t) (b : t.quiet u) : s.quiet u := by
  obtain ⟨a1, a2, a3, a4, a5, a6, a7, al, a8, a9⟩ := a
  obtain ⟨b1, b2, b3, b4, b5, b6, b7, bl, b8, b9⟩ := b
  refine ⟨b1.trans a1, b2.trans a2, b3.trans a3, b4.trans a4, b5.trans a5, b6.trans a6, b7.trans a7, bl.trans al,
    fun f => (b8 f).trans (a8 f), fun f => ?_⟩
  rw [b9 f, a9 f]

theorem told_quiet (nts : Feed → List Notice) (s : State) : s.quiet (told nts s) := by
  refine ⟨rfl, rfl, rfl, rfl, rfl, rfl, rfl, rfl, told_online nts s, fun f => ?_⟩
  rw [told_lane]
  split
  · exact handed_keeps _ _
  · rfl

theorem notifyIf_quiet (b : Bool) (f : Feed) (nt : Notice) (s : State) : s.quiet (notifyIf b f nt s) := by
  rw [notifyIf_told]
  exact told_quiet _ _

theorem notifyWhere_quiet (p : Feed → Bool) (nt : Notice) (s : State) : s.quiet (notifyWhere p nt s) := by
  rw [notifyWhere_told]
  exact told_quiet _ _

/-- A change of blocks that hold no clock, scene, image, conversation or port. -/
theorem blocks_quiet (s : State) (cvp : Cvp) (smu : Smu) (tgu : Tgu) (hac : Hac) (lmu : Lmu) (b : Bool) :
    s.quiet { s with cvp := cvp, smu := smu, tgu := tgu, hac := hac, lmu := lmu, stepped := b } :=
  ⟨rfl, rfl, rfl, rfl, rfl, rfl, rfl, rfl, fun _ => rfl, fun _ => rfl⟩

theorem changeTap_quiet (f : Feed) (i : Input) (g : Tap → Tap) (s : State) : s.quiet (changeTap f i g s) := by
  unfold changeTap
  exact quiet_trans (blocks_quiet s s.cvp s.smu _ s.hac s.lmu s.stepped) (notifyIf_quiet _ _ _ _)

theorem compensate_quiet (i : Input) (d : Int) (s : State) : s.quiet (compensate i d s) := by
  unfold compensate
  exact quiet_trans (quiet_trans (quiet_trans (changeTap_quiet _ _ _ _) (changeTap_quiet _ _ _ _))
    (changeTap_quiet _ _ _ _)) (changeTap_quiet _ _ _ _)

theorem effective_quiet (i : Input) (s : State) : s.quiet (effective i s) := by
  unfold effective
  split
  · split
    · unfold announceLive
      exact quiet_trans (quiet_trans (blocks_quiet s s.cvp s.smu s.tgu _ s.lmu s.stepped) (compensate_quiet _ _ _))
        (notifyWhere_quiet _ _ _)
    · exact quiet_refl s
  · exact quiet_refl s

theorem foldl_quiet {α : Type} (step : State → α → State) (h : ∀ (s : State) (a : α), s.quiet (step s a))
    (l : List α) (s : State) :
    s.quiet (l.foldl step s) := by
  induction l generalizing s with
  | nil => exact quiet_refl s
  | cons a l ih => exact quiet_trans (h s a) (ih _)

theorem missingConverter_quiet (g : Group) (s : State) : s.quiet (missingConverter g s) := by
  unfold missingConverter
  split
  · exact quiet_refl s
  · unfold converterOutcome
    exact quiet_trans (blocks_quiet s _ s.smu s.tgu s.hac s.lmu s.stepped) (notifyWhere_quiet _ _ _)

theorem settleEnds_quiet (s : State) : s.quiet (settleEnds s) :=
  blocks_quiet s s.cvp s.smu s.tgu (settleEnds s).hac s.lmu s.stepped

theorem mapsInForce_quiet (s : State) : s.quiet (mapsInForce s) :=
  blocks_quiet s s.cvp (mapsInForce s).smu s.tgu s.hac s.lmu s.stepped

theorem lawInEffect_quiet (s : State) : s.quiet (lawInEffect s) :=
  blocks_quiet s s.cvp s.smu (lawInEffect s).tgu s.hac s.lmu s.stepped

theorem stepTaps_quiet (s : State) : s.quiet (stepTaps s) :=
  blocks_quiet s s.cvp s.smu (stepTaps s).tgu s.hac s.lmu s.stepped

theorem missingConverters_quiet (s : State) : s.quiet (missingConverters s) :=
  foldl_quiet (fun t g => missingConverter g t) (fun t g => missingConverter_quiet g t) (List.finRange 6) s

theorem effectiveEvents_quiet (s : State) : s.quiet (effectiveEvents s) :=
  foldl_quiet (fun t i => effective i t) (fun t i => effective_quiet i t) inputs s

theorem beforeStep_quiet (s : State) : s.quiet (beforeStep s) :=
  quiet_trans (quiet_trans (quiet_trans (quiet_trans (settleEnds_quiet s) (mapsInForce_quiet _)) (lawInEffect_quiet _))
    (missingConverters_quiet _)) (effectiveEvents_quiet _)

theorem clipNotice_quiet (captured : Input → Bool) (i : Input) (s : State) : s.quiet (clipNotice captured i s) := by
  unfold clipNotice
  apply notifyWhere_quiet

theorem takeSamples_quiet (s : State) : s.quiet (takeSamples s) := by
  unfold takeSamples
  generalize hc : (fun i : Input => s.lmu.clips[i].captures (magnitude (s.sample i))) = captured
  exact quiet_trans (blocks_quiet s s.cvp s.smu s.tgu s.hac _ s.stepped)
    (foldl_quiet (fun t i => clipNotice captured i t) (fun t i => clipNotice_quiet captured i t) inputs _)

/-- Opening a frame leaves the clock, scenes, image, ports and conversations alone. -/
theorem openFrame_quiet (s : State) : s.quiet (openFrame s) := by
  unfold openFrame
  split
  · exact quiet_refl s
  · have t := quiet_trans (quiet_trans (beforeStep_quiet s) (stepTaps_quiet _)) (takeSamples_quiet _)
    generalize takeSamples (stepTaps (beforeStep s)) = w at t
    exact quiet_trans t (blocks_quiet w w.cvp w.smu w.tgu w.hac w.lmu true)

theorem periodEnd_quiet (f : Feed) (s : State) : s.quiet (periodEnd f s) := by
  have block : ∀ (ps : List (Input × Nat)) (t : State), t.quiet (meterBlock f ps t) := by
    intro ps t
    unfold meterBlock
    split
    · exact quiet_refl t
    · exact notifyIf_quiet _ _ _ _
  unfold periodEnd
  split
  · split
    · unfold meterBlocks
      exact quiet_trans (quiet_trans (quiet_trans (blocks_quiet s s.cvp s.smu s.tgu s.hac _ s.stepped) (block _ _))
        (block _ _)) (block _ _)
    · exact quiet_refl s
  · exact quiet_refl s

/-- What precedes a request leaves the clock, scenes, image, ports and conversations alone. -/
theorem beforeRequests_quiet (s : State) : s.quiet (beforeRequests s) := by
  unfold beforeRequests periodEnds
  exact quiet_trans (quiet_trans (quiet_trans (quiet_trans (openFrame_quiet s) (periodEnd_quiet _ _))
    (periodEnd_quiet _ _)) (periodEnd_quiet _ _)) (periodEnd_quiet _ _)

/-- The frame step is taken once in a frame. -/
theorem openFrame_stepped (s : State) : (openFrame s).stepped = true := by
  unfold openFrame
  split
  · assumption
  · rfl

end Sys2Proof.Machine
end

