-- ==== Sys2Proof/WellFormed.lean ====
section
/-! DEFINITION. Which commands the outside world can send: the limits the spec puts on their operands. -/

namespace Sys2Proof

/-- A request carries at most 59 parameter bytes (R139), and a request of an unknown kind carries no kind of the table. -/
def requestFits (i : Instr) : Bool :=
  match i.request with
  | none => true
  | some (_, _, _, ps) => decide (ps.length ≤ 59)

/-- Each frame that began on a link port brought at most the six bytes after its sync word (R128). -/
def upstreamFits : Instr → Bool
  | .upstreamFrame _ received _ => received.all fun bytes => decide (bytes.length ≤ 6)
  | _ => true

/-- The EEPROM gives at most the 1,739 bytes of the image (R162). -/
def eepromFits : Instr → Bool
  | .loadComplete (.found bytes) => decide (bytes.length ≤ 1739)
  | _ => true

/-- A save that stops has written at most the 1,730 section bytes and the eight header bytes beside the version (R166). -/
def saveStopFits : Instr → Bool
  | .saveComplete (.fail written) => decide (written ≤ 1738)
  | _ => true

/-- The kind byte of an unknown-kind request is none of the kind table's (R146). -/
def unknownKindFits : Instr → Bool
  | .unknownKindRequest _ _ kind _ => (ReqKind.ofByte kind).isNone
  | _ => true

/-- A command that can reach the part. -/
def Instr.wellFormed (i : Instr) : Bool :=
  requestFits i && upstreamFits i && eepromFits i && saveStopFits i && unknownKindFits i

end Sys2Proof
end

