-- ==== Sys2Proof/Laws/PerInstr.lean ====
section
/-! SUPPORT. One lemma per command about the family `KindOnWire`: a well-formed request fits in a message of at most 64 bytes,
and its kind byte is a request kind exactly when the command is not UNKNOWN_KIND_REQUEST (R139, R146). -/

set_option Elab.async false

namespace Sys2Proof.Laws

/-- The command stands for a request of a kind outside the kind table. -/
def KindOnWire.isUnknown : Instr → Bool
  | .unknownKindRequest _ _ _ _ => true
  | _ => false

/-- What the family states of a command. -/
def KindOnWire.Statement (i : Instr) : Prop :=
  i.wellFormed = true → ∀ f tag kind ps, i.request = some (f, tag, kind, ps) →
    ps.length + 5 ≤ 64 ∧ (ReqKind.ofByte kind).isNone = KindOnWire.isUnknown i

theorem KindOnWire.reset : KindOnWire.Statement .reset := by
  intro _ f t k ps e
  cases e

theorem KindOnWire.frameTick : KindOnWire.Statement .frameTick := by
  intro _ f t k ps e
  cases e

theorem KindOnWire.converterFrame (port : Group) (received : Option (List (Nat × Sample))) : KindOnWire.Statement (.converterFrame port received) := by
  intro _ f t k ps e
  cases e

theorem KindOnWire.upstreamFrame (port : Port) (received : List (List Byte)) (afterRound : Bool) : KindOnWire.Statement (.upstreamFrame port received afterRound) := by
  intro _ f t k ps e
  cases e

theorem KindOnWire.wordclockPresent : KindOnWire.Statement .wordclockPresent := by
  intro _ f t k ps e
  cases e

theorem KindOnWire.wordclockAbsent : KindOnWire.Statement .wordclockAbsent := by
  intro _ f t k ps e
  cases e

theorem KindOnWire.revertTimerExpiry : KindOnWire.Statement .revertTimerExpiry := by
  intro _ f t k ps e
  cases e

theorem KindOnWire.holdoverTimerExpiry : KindOnWire.Statement .holdoverTimerExpiry := by
  intro _ f t k ps e
  cases e

theorem KindOnWire.busSendOpportunity (bus : Group) : KindOnWire.Statement (.busSendOpportunity bus) := by
  intro _ f t k ps e
  cases e

theorem KindOnWire.effectiveEvent (input : Input) : KindOnWire.Statement (.effectiveEvent input) := by
  intro _ f t k ps e
  cases e

theorem KindOnWire.settleMuteEnd (input : Input) : KindOnWire.Statement (.settleMuteEnd input) := by
  intro _ f t k ps e
  cases e

theorem KindOnWire.sceneExecution : KindOnWire.Statement .sceneExecution := by
  intro _ f t k ps e
  cases e

theorem KindOnWire.meterPeriodEnd (feed : Feed) : KindOnWire.Statement (.meterPeriodEnd feed) := by
  intro _ f t k ps e
  cases e

theorem KindOnWire.pendingMapInForce (feed : Feed) : KindOnWire.Statement (.pendingMapInForce feed) := by
  intro _ f t k ps e
  cases e

theorem KindOnWire.pendingLawInEffect : KindOnWire.Statement .pendingLawInEffect := by
  intro _ f t k ps e
  cases e

theorem KindOnWire.loadComplete (read : EepromRead) : KindOnWire.Statement (.loadComplete read) := by
  intro _ f t k ps e
  cases e

theorem KindOnWire.saveComplete (ended : SaveEnd) : KindOnWire.Statement (.saveComplete ended) := by
  intro _ f t k ps e
  cases e

theorem KindOnWire.devStatus (feed : Feed) (tag : Byte) (params : List Byte) : KindOnWire.Statement (.devStatus feed tag params) := by
  intro h f t k ps e
  cases e
  simp only [Instr.wellFormed, requestFits, Instr.request, Bool.and_eq_true, decide_eq_true_eq] at h
  exact ⟨by omega, rfl⟩

theorem KindOnWire.devRestart (feed : Feed) (tag : Byte) (params : List Byte) : KindOnWire.Statement (.devRestart feed tag params) := by
  intro h f t k ps e
  cases e
  simp only [Instr.wellFormed, requestFits, Instr.request, Bool.and_eq_true, decide_eq_true_eq] at h
  exact ⟨by omega, rfl⟩

theorem KindOnWire.storeSave (feed : Feed) (tag : Byte) (params : List Byte) : KindOnWire.Statement (.storeSave feed tag params) := by
  intro h f t k ps e
  cases e
  simp only [Instr.wellFormed, requestFits, Instr.request, Bool.and_eq_true, decide_eq_true_eq] at h
  exact ⟨by omega, rfl⟩

theorem KindOnWire.clockSet (feed : Feed) (tag : Byte) (params : List Byte) : KindOnWire.Statement (.clockSet feed tag params) := by
  intro h f t k ps e
  cases e
  simp only [Instr.wellFormed, requestFits, Instr.request, Bool.and_eq_true, decide_eq_true_eq] at h
  exact ⟨by omega, rfl⟩

theorem KindOnWire.mapWindows (feed : Feed) (tag : Byte) (params : List Byte) : KindOnWire.Statement (.mapWindows feed tag params) := by
  intro h f t k ps e
  cases e
  simp only [Instr.wellFormed, requestFits, Instr.request, Bool.and_eq_true, decide_eq_true_eq] at h
  exact ⟨by omega, rfl⟩

theorem KindOnWire.mapGet (feed : Feed) (tag : Byte) (params : List Byte) : KindOnWire.Statement (.mapGet feed tag params) := by
  intro h f t k ps e
  cases e
  simp only [Instr.wellFormed, requestFits, Instr.request, Bool.and_eq_true, decide_eq_true_eq] at h
  exact ⟨by omega, rfl⟩

theorem KindOnWire.tapTrim (feed : Feed) (tag : Byte) (params : List Byte) : KindOnWire.Statement (.tapTrim feed tag params) := by
  intro h f t k ps e
  cases e
  simp only [Instr.wellFormed, requestFits, Instr.request, Bool.and_eq_true, decide_eq_true_eq] at h
  exact ⟨by omega, rfl⟩

theorem KindOnWire.tapMode (feed : Feed) (tag : Byte) (params : List Byte) : KindOnWire.Statement (.tapMode feed tag params) := by
  intro h f t k ps e
  cases e
  simp only [Instr.wellFormed, requestFits, Instr.request, Bool.and_eq_true, decide_eq_true_eq] at h
  exact ⟨by omega, rfl⟩

theorem KindOnWire.tapAnchor (feed : Feed) (tag : Byte) (params : List Byte) : KindOnWire.Statement (.tapAnchor feed tag params) := by
  intro h f t k ps e
  cases e
  simp only [Instr.wellFormed, requestFits, Instr.request, Bool.and_eq_true, decide_eq_true_eq] at h
  exact ⟨by omega, rfl⟩

theorem KindOnWire.tapMute (feed : Feed) (tag : Byte) (params : List Byte) : KindOnWire.Statement (.tapMute feed tag params) := by
  intro h f t k ps e
  cases e
  simp only [Instr.wellFormed, requestFits, Instr.request, Bool.and_eq_true, decide_eq_true_eq] at h
  exact ⟨by omega, rfl⟩

theorem KindOnWire.tapGet (feed : Feed) (tag : Byte) (params : List Byte) : KindOnWire.Statement (.tapGet feed tag params) := by
  intro h f t k ps e
  cases e
  simp only [Instr.wellFormed, requestFits, Instr.request, Bool.and_eq_true, decide_eq_true_eq] at h
  exact ⟨by omega, rfl⟩

theorem KindOnWire.feedGlide (feed : Feed) (tag : Byte) (params : List Byte) : KindOnWire.Statement (.feedGlide feed tag params) := by
  intro h f t k ps e
  cases e
  simp only [Instr.wellFormed, requestFits, Instr.request, Bool.and_eq_true, decide_eq_true_eq] at h
  exact ⟨by omega, rfl⟩

theorem KindOnWire.lawStage (feed : Feed) (tag : Byte) (params : List Byte) : KindOnWire.Statement (.lawStage feed tag params) := by
  intro h f t k ps e
  cases e
  simp only [Instr.wellFormed, requestFits, Instr.request, Bool.and_eq_true, decide_eq_true_eq] at h
  exact ⟨by omega, rfl⟩

theorem KindOnWire.lawApply (feed : Feed) (tag : Byte) (params : List Byte) : KindOnWire.Statement (.lawApply feed tag params) := by
  intro h f t k ps e
  cases e
  simp only [Instr.wellFormed, requestFits, Instr.request, Bool.and_eq_true, decide_eq_true_eq] at h
  exact ⟨by omega, rfl⟩

theorem KindOnWire.plawStage (feed : Feed) (tag : Byte) (params : List Byte) : KindOnWire.Statement (.plawStage feed tag params) := by
  intro h f t k ps e
  cases e
  simp only [Instr.wellFormed, requestFits, Instr.request, Bool.and_eq_true, decide_eq_true_eq] at h
  exact ⟨by omega, rfl⟩

theorem KindOnWire.plawApply (feed : Feed) (tag : Byte) (params : List Byte) : KindOnWire.Statement (.plawApply feed tag params) := by
  intro h f t k ps e
  cases e
  simp only [Instr.wellFormed, requestFits, Instr.request, Bool.and_eq_true, decide_eq_true_eq] at h
  exact ⟨by omega, rfl⟩

theorem KindOnWire.lawGet (feed : Feed) (tag : Byte) (params : List Byte) : KindOnWire.Statement (.lawGet feed tag params) := by
  intro h f t k ps e
  cases e
  simp only [Instr.wellFormed, requestFits, Instr.request, Bool.and_eq_true, decide_eq_true_eq] at h
  exact ⟨by omega, rfl⟩

theorem KindOnWire.haSet (feed : Feed) (tag : Byte) (params : List Byte) : KindOnWire.Statement (.haSet feed tag params) := by
  intro h f t k ps e
  cases e
  simp only [Instr.wellFormed, requestFits, Instr.request, Bool.and_eq_true, decide_eq_true_eq] at h
  exact ⟨by omega, rfl⟩

theorem KindOnWire.haNudge (feed : Feed) (tag : Byte) (params : List Byte) : KindOnWire.Statement (.haNudge feed tag params) := by
  intro h f t k ps e
  cases e
  simp only [Instr.wellFormed, requestFits, Instr.request, Bool.and_eq_true, decide_eq_true_eq] at h
  exact ⟨by omega, rfl⟩

theorem KindOnWire.haGet (feed : Feed) (tag : Byte) (params : List Byte) : KindOnWire.Statement (.haGet feed tag params) := by
  intro h f t k ps e
  cases e
  simp only [Instr.wellFormed, requestFits, Instr.request, Bool.and_eq_true, decide_eq_true_eq] at h
  exact ⟨by omega, rfl⟩

theorem KindOnWire.ownClaim (feed : Feed) (tag : Byte) (params : List Byte) : KindOnWire.Statement (.ownClaim feed tag params) := by
  intro h f t k ps e
  cases e
  simp only [Instr.wellFormed, requestFits, Instr.request, Bool.and_eq_true, decide_eq_true_eq] at h
  exact ⟨by omega, rfl⟩

theorem KindOnWire.ownRelease (feed : Feed) (tag : Byte) (params : List Byte) : KindOnWire.Statement (.ownRelease feed tag params) := by
  intro h f t k ps e
  cases e
  simp only [Instr.wellFormed, requestFits, Instr.request, Bool.and_eq_true, decide_eq_true_eq] at h
  exact ⟨by omega, rfl⟩

theorem KindOnWire.ownAssign (feed : Feed) (tag : Byte) (params : List Byte) : KindOnWire.Statement (.ownAssign feed tag params) := by
  intro h f t k ps e
  cases e
  simp only [Instr.wellFormed, requestFits, Instr.request, Bool.and_eq_true, decide_eq_true_eq] at h
  exact ⟨by omega, rfl⟩

theorem KindOnWire.supervisorSet (feed : Feed) (tag : Byte) (params : List Byte) : KindOnWire.Statement (.supervisorSet feed tag params) := by
  intro h f t k ps e
  cases e
  simp only [Instr.wellFormed, requestFits, Instr.request, Bool.and_eq_true, decide_eq_true_eq] at h
  exact ⟨by omega, rfl⟩

theorem KindOnWire.scnOpen (feed : Feed) (tag : Byte) (params : List Byte) : KindOnWire.Statement (.scnOpen feed tag params) := by
  intro h f t k ps e
  cases e
  simp only [Instr.wellFormed, requestFits, Instr.request, Bool.and_eq_true, decide_eq_true_eq] at h
  exact ⟨by omega, rfl⟩

theorem KindOnWire.scnAdd (feed : Feed) (tag : Byte) (params : List Byte) : KindOnWire.Statement (.scnAdd feed tag params) := by
  intro h f t k ps e
  cases e
  simp only [Instr.wellFormed, requestFits, Instr.request, Bool.and_eq_true, decide_eq_true_eq] at h
  exact ⟨by omega, rfl⟩

theorem KindOnWire.scnCommit (feed : Feed) (tag : Byte) (params : List Byte) : KindOnWire.Statement (.scnCommit feed tag params) := by
  intro h f t k ps e
  cases e
  simp only [Instr.wellFormed, requestFits, Instr.request, Bool.and_eq_true, decide_eq_true_eq] at h
  exact ⟨by omega, rfl⟩

theorem KindOnWire.scnCancel (feed : Feed) (tag : Byte) (params : List Byte) : KindOnWire.Statement (.scnCancel feed tag params) := by
  intro h f t k ps e
  cases e
  simp only [Instr.wellFormed, requestFits, Instr.request, Bool.and_eq_true, decide_eq_true_eq] at h
  exact ⟨by omega, rfl⟩

theorem KindOnWire.scnList (feed : Feed) (tag : Byte) (params : List Byte) : KindOnWire.Statement (.scnList feed tag params) := by
  intro h f t k ps e
  cases e
  simp only [Instr.wellFormed, requestFits, Instr.request, Bool.and_eq_true, decide_eq_true_eq] at h
  exact ⟨by omega, rfl⟩

theorem KindOnWire.mtrSubscribe (feed : Feed) (tag : Byte) (params : List Byte) : KindOnWire.Statement (.mtrSubscribe feed tag params) := by
  intro h f t k ps e
  cases e
  simp only [Instr.wellFormed, requestFits, Instr.request, Bool.and_eq_true, decide_eq_true_eq] at h
  exact ⟨by omega, rfl⟩

theorem KindOnWire.clipSet (feed : Feed) (tag : Byte) (params : List Byte) : KindOnWire.Statement (.clipSet feed tag params) := by
  intro h f t k ps e
  cases e
  simp only [Instr.wellFormed, requestFits, Instr.request, Bool.and_eq_true, decide_eq_true_eq] at h
  exact ⟨by omega, rfl⟩

theorem KindOnWire.clipAck (feed : Feed) (tag : Byte) (params : List Byte) : KindOnWire.Statement (.clipAck feed tag params) := by
  intro h f t k ps e
  cases e
  simp only [Instr.wellFormed, requestFits, Instr.request, Bool.and_eq_true, decide_eq_true_eq] at h
  exact ⟨by omega, rfl⟩

theorem KindOnWire.clipGet (feed : Feed) (tag : Byte) (params : List Byte) : KindOnWire.Statement (.clipGet feed tag params) := by
  intro h f t k ps e
  cases e
  simp only [Instr.wellFormed, requestFits, Instr.request, Bool.and_eq_true, decide_eq_true_eq] at h
  exact ⟨by omega, rfl⟩

theorem KindOnWire.unknownKindRequest (feed : Feed) (tag kind : Byte) (params : List Byte) : KindOnWire.Statement (.unknownKindRequest feed tag kind params) := by
  intro h f tag' kind' ps e
  cases e
  simp only [Instr.wellFormed, requestFits, Instr.request, unknownKindFits, Bool.and_eq_true, decide_eq_true_eq] at h
  exact ⟨by omega, h.2⟩

end Sys2Proof.Laws
end

