-- ==== Sys2Proof/Laws/Requests.lean ====
section
/-! SUPPORT. What the checks of a request let through, what the all-members check answers, and the execution of a request of
a known kind. -/

namespace Sys2Proof.Machine

/-- The byte of a kind names that kind. -/
theorem ofByte_code (k : ReqKind) : ReqKind.ofByte k.code = some k := by
  cases k <;> rfl

theorem execute_known (f : Feed) (tag : Byte) (k : ReqKind) (ps : List Byte) (s : State) :
    execute f { tag := tag, kind := k.code, params := ps } s = executeKind f ps k s := by
  unfold execute
  rw [ofByte_code]

/-- A request with malformed parameters is refused and changes nothing (R146). -/
theorem runRequest_malformed {α : Type} (kind : ReqKind) (form : α → Bool) (f : Feed) (body : α → State → Reply)
    (s : State) : runRequest kind none form f body s = (s, [Result.malformed.byte]) := rfl

/-- A request that passes checks 2 to 5 of R146 is carried out by its body. -/
theorem runRequest_passes {α : Type} (kind : ReqKind) (p : α) (form : α → Bool) (f : Feed) (body : α → State → Reply)
    (s : State) (ready : s.loading = false ∨ kind = .devStatus) (role : privileged kind = true → f = s.cle.supervisor)
    (set : form p = true → f = s.cle.supervisor) : runRequest kind (some p) form f body s = body p s := by
  unfold runRequest
  dsimp only
  have a : (s.loading && decide (kind ≠ .devStatus)) = false := by
    rcases ready with h | h
    · simp [h]
    · simp [h]
  have b : (privileged kind && decide (f ≠ s.cle.supervisor)) = false := by
    cases hp : privileged kind with
    | false => rfl
    | true => simp [role hp]
  have c : (form p && decide (f ≠ s.cle.supervisor)) = false := by
    cases hp : form p with
    | false => rfl
    | true => simp [set hp]
  rw [a, b, c]
  rfl

theorem onInputs_ok (f : Feed) (set : ChannelSet) (check : State → Input → Option Result)
    (body : List Input → State → Reply) (s : State) (is : List Input) (h : s.resolve f set (check s) = .ok is) :
    onInputs f set check body s = body is s := by
  unfold onInputs
  rw [h]

theorem onInputs_error (f : Feed) (set : ChannelSet) (check : State → Input → Option Result)
    (body : List Input → State → Reply) (s : State) (e : Result × Nat) (h : s.resolve f set (check s) = .error e) :
    onInputs f set check body s = (s, [e.1.byte, byte e.2]) := by
  unfold onInputs
  rw [h]
  rfl

/-- The inputs that the all-members check answers are distinct (R32) and pass the request's own check (R33). -/
theorem resolveFrom_sound (s : State) (f : Feed) (form : Bool) (check : Input → Option Result) (ms : List Nat) :
    ∀ (pos : Nat) (found is : List Input), s.resolveFrom f form check pos found ms = .ok is → found.Nodup →
      (∀ i ∈ found, check i = none) → is.Nodup ∧ ∀ i ∈ is, check i = none := by
  induction ms with
  | nil =>
    intro pos found is h nd ok
    simp only [State.resolveFrom, Except.ok.injEq] at h
    subst h
    exact ⟨nd, ok⟩
  | cons m ms ih =>
    intro pos found is h nd ok
    simp only [State.resolveFrom] at h
    split at h
    · cases h
    · next i _ =>
      split at h
      · exact ih _ _ _ h nd ok
      · next fresh =>
        split at h
        · cases h
        · next passes =>
          refine ih _ _ _ h ?_ ?_
          · rw [List.nodup_append]
            refine ⟨nd, List.nodup_singleton i, ?_⟩
            intro a ha b hb e
            rw [List.mem_singleton] at hb
            exact fresh (hb ▸ e ▸ ha)
          · intro j hj
            rw [List.mem_append, List.mem_singleton] at hj
            rcases hj with hj | hj
            · exact ok j hj
            · exact hj ▸ passes

theorem resolve_sound (s : State) (f : Feed) (set : ChannelSet) (check : Input → Option Result) (is : List Input)
    (h : s.resolve f set check = .ok is) : is.Nodup ∧ ∀ i ∈ is, check i = none :=
  resolveFrom_sound s f _ check _ 0 [] is h List.nodup_nil (fun _ hi => nomatch hi)

end Sys2Proof.Machine
end

