-- ==== Sys2Proof/Laws/Round.lean ====
section
/-! SUPPORT. The execution of a request leaves the round of the frame in progress alone, so that a grant takes just its feed off
the round (R145). -/

namespace Sys2Proof.Machine

/-- Two states with the same round to go, from the same pointer. -/
def State.sameRound (s t : State) : Prop := t.cle.left = s.cle.left ∧ t.cle.pointer = s.cle.pointer

theorem sameRound_refl (s : State) : s.sameRound s := ⟨rfl, rfl⟩

theorem sameRound_trans {s t u : State} (a : s.sameRound t) (b : t.sameRound u) : s.sameRound u :=
  ⟨b.1.trans a.1, b.2.trans a.2⟩

theorem quiet_sameRound {s t : State} (h : s.quiet t) : s.sameRound t := by
  obtain ⟨-, -, -, -, -, -, pointer, left, -, -⟩ := h
  exact ⟨left, pointer⟩

theorem sameRound_roundLeft {s t : State} (h : s.sameRound t) : t.roundLeft = s.roundLeft := by
  unfold State.roundLeft
  rw [h.1, h.2]

theorem foldl_sameRound {α : Type} (step : State → α → State) (h : ∀ (s : State) (a : α), s.sameRound (step s a))
    (l : List α) (s : State) : s.sameRound (l.foldl step s) := by
  induction l generalizing s with
  | nil => exact sameRound_refl s
  | cons a l ih => exact sameRound_trans (h s a) (ih _)

theorem notifyIf_sameRound (b : Bool) (f : Feed) (nt : Notice) (s : State) : s.sameRound (notifyIf b f nt s) :=
  quiet_sameRound (notifyIf_quiet b f nt s)

theorem notifyWhere_sameRound (p : Feed → Bool) (nt : Notice) (s : State) : s.sameRound (notifyWhere p nt s) :=
  quiet_sameRound (notifyWhere_quiet p nt s)

theorem changeTap_sameRound (f : Feed) (i : Input) (g : Tap → Tap) (s : State) : s.sameRound (changeTap f i g s) :=
  quiet_sameRound (changeTap_quiet f i g s)

theorem changeTaps_sameRound (f : Feed) (g : Int → Tap → Tap) (is : List Input) (s : State) :
    s.sameRound (changeTaps f g is s) :=
  foldl_sameRound _ (fun _ _ => changeTap_sameRound _ _ _ _) is s

/-! ### The body of a request -/

theorem runRequest_sameRound {α : Type} (kind : ReqKind) (parsed : Option α) (form : α → Bool) (f : Feed)
    (body : α → State → Reply) (s : State) (h : ∀ p, s.sameRound (body p s).1) :
    s.sameRound (runRequest kind parsed form f body s).1 := by
  unfold runRequest
  repeat' split
  all_goals first | exact sameRound_refl s | exact h _

theorem onInputs_sameRound (f : Feed) (set : ChannelSet) (check : State → Input → Option Result)
    (body : List Input → State → Reply) (s : State) (h : ∀ is, s.sameRound (body is s).1) :
    s.sameRound (onInputs f set check body s).1 := by
  unfold onInputs
  split
  · exact sameRound_refl s
  · exact h _

theorem setOwner_sameRound (new : Option Feed) (cause : OwnerCause) (i : Input) (s : State) :
    s.sameRound (setOwner new cause i s) := by
  unfold setOwner
  dsimp only
  split
  · exact sameRound_refl s
  · exact quiet_sameRound (quiet_trans (blocks_quiet s s.cvp s.smu s.tgu _ s.lmu s.stepped) (notifyWhere_quiet _ _ _))

theorem claimOne_sameRound (f : Feed) (i : Input) (s : State) : s.sameRound (claimOne f i s) := by
  unfold claimOne
  exact setOwner_sameRound _ _ _ _

theorem rebase_sameRound (i : Input) (d : Int) (s : State) : s.sameRound (rebase i d s) := by
  unfold rebase
  exact sameRound_trans (sameRound_trans (sameRound_trans (changeTap_sameRound _ _ _ _) (changeTap_sameRound _ _ _ _))
    (changeTap_sameRound _ _ _ _)) (changeTap_sameRound _ _ _ _)

theorem regain_sameRound (i : Input) (s : State) : s.sameRound (regain i s) := by
  unfold regain
  exact sameRound_trans (quiet_sameRound (blocks_quiet s s.cvp s.smu s.tgu _ s.lmu s.stepped)) (rebase_sameRound _ _ _)

theorem applyPlaw_sameRound (s : State) : s.sameRound (applyPlaw s) := by
  have step : ∀ t : State, t.sameRound (inputs.foldl (fun s i => regain i s) t) :=
    foldl_sameRound (fun s i => regain i s) (fun _ _ => regain_sameRound _ _) inputs
  unfold applyPlaw
  dsimp only
  refine sameRound_trans ?_ (notifyWhere_sameRound _ _ _)
  exact sameRound_trans (quiet_sameRound (blocks_quiet s s.cvp s.smu s.tgu _ s.lmu s.stepped)) (step _)

theorem runEntries_sameRound (f : Feed) (es : List SceneEntry) :
    ∀ (k : Nat) (s : State) (r : SceneResult), s.sameRound (runEntries f k es s r).1 := by
  induction es with
  | nil => exact fun _ s _ => sameRound_refl s
  | cons e es ih =>
    intro k s r
    unfold runEntries
    split
    · refine sameRound_trans ?_ (ih _ _ _)
      unfold SceneEntry.act
      split
      · exact ⟨rfl, rfl⟩
      · exact changeTap_sameRound _ _ _ _
      · exact changeTap_sameRound _ _ _ _
    · exact ih _ _ _

theorem runScene_sameRound (f : Feed) (es : List SceneEntry) (s : State) : s.sameRound (runScene f es s).1 :=
  runEntries_sameRound f es 0 s _

theorem executeScene_sameRound (f : Feed) (es : List SceneEntry) (s : State) :
    s.sameRound (executeScene f es s).1 := by
  unfold executeScene accept
  exact sameRound_trans (t := setOpenScene f none s) ⟨rfl, rfl⟩ (runScene_sameRound f es _)

theorem claimSeen_sameRound (f : Feed) (s : State) (i : Input) : s.sameRound (claimSeen f s i) := by
  unfold claimSeen
  split
  · exact notifyIf_sameRound _ _ _ _
  · exact sameRound_refl s

/-! ### Every request -/

theorem reqTapTrim_sameRound (f : Feed) (ps : List Byte) (s : State) : s.sameRound (reqTapTrim f ps s).1 := by
  unfold reqTapTrim
  exact runRequest_sameRound _ _ _ _ _ _ fun _ => onInputs_sameRound _ _ _ _ _ fun _ => changeTaps_sameRound _ _ _ _

theorem reqTapMode_sameRound (f : Feed) (ps : List Byte) (s : State) : s.sameRound (reqTapMode f ps s).1 := by
  unfold reqTapMode
  exact runRequest_sameRound _ _ _ _ _ _ fun _ => onInputs_sameRound _ _ _ _ _ fun _ => changeTaps_sameRound _ _ _ _

theorem reqTapAnchor_sameRound (f : Feed) (ps : List Byte) (s : State) : s.sameRound (reqTapAnchor f ps s).1 := by
  unfold reqTapAnchor
  exact runRequest_sameRound _ _ _ _ _ _ fun _ => onInputs_sameRound _ _ _ _ _ fun _ => changeTaps_sameRound _ _ _ _

theorem reqTapMute_sameRound (f : Feed) (ps : List Byte) (s : State) : s.sameRound (reqTapMute f ps s).1 := by
  unfold reqTapMute
  exact runRequest_sameRound _ _ _ _ _ _ fun _ => onInputs_sameRound _ _ _ _ _ fun _ => changeTaps_sameRound _ _ _ _

theorem reqTapGet_sameRound (f : Feed) (ps : List Byte) (s : State) : s.sameRound (reqTapGet f ps s).1 := by
  unfold reqTapGet
  exact runRequest_sameRound _ _ _ _ _ _ fun _ => onInputs_sameRound _ _ _ _ _ fun _ => ⟨rfl, rfl⟩

theorem reqHaGet_sameRound (f : Feed) (ps : List Byte) (s : State) : s.sameRound (reqHaGet f ps s).1 := by
  unfold reqHaGet
  exact runRequest_sameRound _ _ _ _ _ _ fun _ => onInputs_sameRound _ _ _ _ _ fun _ => ⟨rfl, rfl⟩

theorem reqClipGet_sameRound (f : Feed) (ps : List Byte) (s : State) : s.sameRound (reqClipGet f ps s).1 := by
  unfold reqClipGet
  exact runRequest_sameRound _ _ _ _ _ _ fun _ => onInputs_sameRound _ _ _ _ _ fun _ => ⟨rfl, rfl⟩

theorem reqClipSet_sameRound (f : Feed) (ps : List Byte) (s : State) : s.sameRound (reqClipSet f ps s).1 := by
  unfold reqClipSet
  exact runRequest_sameRound _ _ _ _ _ _ fun _ => onInputs_sameRound _ _ _ _ _ fun _ => ⟨rfl, rfl⟩

theorem reqClipAck_sameRound (f : Feed) (ps : List Byte) (s : State) : s.sameRound (reqClipAck f ps s).1 := by
  unfold reqClipAck
  exact runRequest_sameRound _ _ _ _ _ _ fun _ => onInputs_sameRound _ _ _ _ _ fun _ => ⟨rfl, rfl⟩

theorem reqHaSet_sameRound (f : Feed) (ps : List Byte) (s : State) : s.sameRound (reqHaSet f ps s).1 := by
  unfold reqHaSet
  exact runRequest_sameRound _ _ _ _ _ _ fun p => onInputs_sameRound _ _ _ _ _ fun is =>
    foldl_sameRound (fun s i => setHeadAmp (p.code.map codeOf) p.pad p.phantom i s) (fun _ _ => ⟨rfl, rfl⟩) is _

theorem reqHaNudge_sameRound (f : Feed) (ps : List Byte) (s : State) : s.sameRound (reqHaNudge f ps s).1 := by
  unfold reqHaNudge
  exact runRequest_sameRound _ _ _ _ _ _ fun p => onInputs_sameRound _ _ _ _ _ fun is =>
    foldl_sameRound (fun s i => nudgeHeadAmp p.2 i s) (fun _ _ => ⟨rfl, rfl⟩) is _

theorem reqOwnRelease_sameRound (f : Feed) (ps : List Byte) (s : State) : s.sameRound (reqOwnRelease f ps s).1 := by
  unfold reqOwnRelease
  exact runRequest_sameRound _ _ _ _ _ _ fun _ => onInputs_sameRound _ _ _ _ _ fun is =>
    foldl_sameRound _ (fun _ _ => setOwner_sameRound _ _ _ _) is _

theorem reqOwnAssign_sameRound (f : Feed) (ps : List Byte) (s : State) : s.sameRound (reqOwnAssign f ps s).1 := by
  unfold reqOwnAssign
  exact runRequest_sameRound _ _ _ _ _ _ fun _ => onInputs_sameRound _ _ _ _ _ fun is =>
    foldl_sameRound _ (fun _ _ => setOwner_sameRound _ _ _ _) is _

theorem reqOwnClaim_sameRound (f : Feed) (ps : List Byte) (s : State) : s.sameRound (reqOwnClaim f ps s).1 := by
  unfold reqOwnClaim
  refine runRequest_sameRound _ _ _ _ _ _ fun set => ?_
  dsimp only
  split
  · unfold refuseAt
    dsimp only
    split
    · exact foldl_sameRound _ (fun _ _ => claimSeen_sameRound _ _ _) _ _
    · exact sameRound_refl s
  · exact foldl_sameRound _ (fun _ _ => claimOne_sameRound _ _ _) _ _

theorem reqClockSet_sameRound (f : Feed) (ps : List Byte) (s : State) : s.sameRound (reqClockSet f ps s).1 := by
  unfold reqClockSet
  refine runRequest_sameRound _ _ _ _ _ _ fun p => ?_
  dsimp only
  split
  · exact sameRound_refl s
  · exact notifyWhere_sameRound _ _ _

theorem reqLawApply_sameRound (f : Feed) (ps : List Byte) (s : State) : s.sameRound (reqLawApply f ps s).1 := by
  unfold reqLawApply
  refine runRequest_sameRound _ _ _ _ _ _ fun p => ?_
  repeat' split
  · exact sameRound_refl s
  · exact sameRound_refl s
  · exact quiet_sameRound (quiet_trans (blocks_quiet s s.cvp s.smu _ s.hac s.lmu s.stepped) (notifyWhere_quiet _ _ _))

theorem reqPlawApply_sameRound (f : Feed) (ps : List Byte) (s : State) : s.sameRound (reqPlawApply f ps s).1 := by
  unfold reqPlawApply
  refine runRequest_sameRound _ _ _ _ _ _ fun p => ?_
  repeat' split
  · exact sameRound_refl s
  · exact sameRound_refl s
  · exact applyPlaw_sameRound s

theorem reqScnCommit_sameRound (f : Feed) (ps : List Byte) (s : State) : s.sameRound (reqScnCommit f ps s).1 := by
  unfold reqScnCommit
  refine runRequest_sameRound _ _ _ _ _ _ fun p => ?_
  repeat' split
  all_goals first
    | exact sameRound_refl s
    | exact executeScene_sameRound _ _ _

theorem reqScnAdd_sameRound (f : Feed) (ps : List Byte) (s : State) : s.sameRound (reqScnAdd f ps s).1 := by
  unfold reqScnAdd
  refine runRequest_sameRound _ _ _ _ _ _ fun p => ?_
  split
  · exact sameRound_refl s
  · refine onInputs_sameRound _ _ _ _ _ fun is => ?_
    dsimp only
    split <;> exact ⟨rfl, rfl⟩

theorem reqMtrSubscribe_sameRound (f : Feed) (ps : List Byte) (s : State) : s.sameRound (reqMtrSubscribe f ps s).1 := by
  unfold reqMtrSubscribe
  refine runRequest_sameRound _ _ _ _ _ _ fun p => ?_
  split
  · exact ⟨rfl, rfl⟩
  · exact onInputs_sameRound _ _ _ _ _ fun is => ⟨rfl, rfl⟩

theorem reqDevStatus_sameRound (f : Feed) (ps : List Byte) (s : State) : s.sameRound (reqDevStatus f ps s).1 := by
  unfold reqDevStatus
  exact runRequest_sameRound _ _ _ _ _ _ fun _ => ⟨rfl, rfl⟩

theorem reqMapGet_sameRound (f : Feed) (ps : List Byte) (s : State) : s.sameRound (reqMapGet f ps s).1 := by
  unfold reqMapGet
  exact runRequest_sameRound _ _ _ _ _ _ fun _ => ⟨rfl, rfl⟩

theorem reqFeedGlide_sameRound (f : Feed) (ps : List Byte) (s : State) : s.sameRound (reqFeedGlide f ps s).1 := by
  unfold reqFeedGlide
  exact runRequest_sameRound _ _ _ _ _ _ fun _ => ⟨rfl, rfl⟩

theorem reqScnList_sameRound (f : Feed) (ps : List Byte) (s : State) : s.sameRound (reqScnList f ps s).1 := by
  unfold reqScnList
  exact runRequest_sameRound _ _ _ _ _ _ fun _ => ⟨rfl, rfl⟩

theorem reqDevRestart_sameRound (f : Feed) (ps : List Byte) (s : State) : s.sameRound (reqDevRestart f ps s).1 := by
  unfold reqDevRestart
  refine runRequest_sameRound _ _ _ _ _ _ fun p => ?_
  repeat' split
  all_goals exact ⟨rfl, rfl⟩

theorem reqStoreSave_sameRound (f : Feed) (ps : List Byte) (s : State) : s.sameRound (reqStoreSave f ps s).1 := by
  unfold reqStoreSave
  refine runRequest_sameRound _ _ _ _ _ _ fun p => ?_
  repeat' split
  all_goals exact ⟨rfl, rfl⟩

theorem reqMapWindows_sameRound (f : Feed) (ps : List Byte) (s : State) : s.sameRound (reqMapWindows f ps s).1 := by
  unfold reqMapWindows
  refine runRequest_sameRound _ _ _ _ _ _ fun p => ?_
  repeat' split
  all_goals exact ⟨rfl, rfl⟩

theorem reqLawStage_sameRound (f : Feed) (ps : List Byte) (s : State) : s.sameRound (reqLawStage f ps s).1 := by
  unfold reqLawStage
  refine runRequest_sameRound _ _ _ _ _ _ fun p => ?_
  repeat' split
  all_goals exact ⟨rfl, rfl⟩

theorem reqPlawStage_sameRound (f : Feed) (ps : List Byte) (s : State) : s.sameRound (reqPlawStage f ps s).1 := by
  unfold reqPlawStage
  refine runRequest_sameRound _ _ _ _ _ _ fun p => ?_
  repeat' split
  all_goals exact ⟨rfl, rfl⟩

theorem reqLawGet_sameRound (f : Feed) (ps : List Byte) (s : State) : s.sameRound (reqLawGet f ps s).1 := by
  unfold reqLawGet
  refine runRequest_sameRound _ _ _ _ _ _ fun p => ?_
  repeat' split
  all_goals exact ⟨rfl, rfl⟩

theorem reqSupervisorSet_sameRound (f : Feed) (ps : List Byte) (s : State) : s.sameRound (reqSupervisorSet f ps s).1 := by
  unfold reqSupervisorSet
  refine runRequest_sameRound _ _ _ _ _ _ fun p => ?_
  repeat' split
  all_goals exact ⟨rfl, rfl⟩

theorem reqScnOpen_sameRound (f : Feed) (ps : List Byte) (s : State) : s.sameRound (reqScnOpen f ps s).1 := by
  unfold reqScnOpen
  refine runRequest_sameRound _ _ _ _ _ _ fun p => ?_
  repeat' split
  all_goals exact ⟨rfl, rfl⟩

theorem reqScnCancel_sameRound (f : Feed) (ps : List Byte) (s : State) : s.sameRound (reqScnCancel f ps s).1 := by
  unfold reqScnCancel
  refine runRequest_sameRound _ _ _ _ _ _ fun p => ?_
  repeat' split
  all_goals exact ⟨rfl, rfl⟩

theorem executeKind_sameRound (f : Feed) (ps : List Byte) (k : ReqKind) (s : State) :
    s.sameRound (executeKind f ps k s).1 := by
  cases k with
  | tapTrim => exact reqTapTrim_sameRound f ps s
  | tapMode => exact reqTapMode_sameRound f ps s
  | tapAnchor => exact reqTapAnchor_sameRound f ps s
  | tapMute => exact reqTapMute_sameRound f ps s
  | tapGet => exact reqTapGet_sameRound f ps s
  | haGet => exact reqHaGet_sameRound f ps s
  | clipGet => exact reqClipGet_sameRound f ps s
  | clipSet => exact reqClipSet_sameRound f ps s
  | clipAck => exact reqClipAck_sameRound f ps s
  | haSet => exact reqHaSet_sameRound f ps s
  | haNudge => exact reqHaNudge_sameRound f ps s
  | ownRelease => exact reqOwnRelease_sameRound f ps s
  | ownAssign => exact reqOwnAssign_sameRound f ps s
  | ownClaim => exact reqOwnClaim_sameRound f ps s
  | clockSet => exact reqClockSet_sameRound f ps s
  | lawApply => exact reqLawApply_sameRound f ps s
  | plawApply => exact reqPlawApply_sameRound f ps s
  | scnCommit => exact reqScnCommit_sameRound f ps s
  | scnAdd => exact reqScnAdd_sameRound f ps s
  | mtrSubscribe => exact reqMtrSubscribe_sameRound f ps s
  | devStatus => exact reqDevStatus_sameRound f ps s
  | mapGet => exact reqMapGet_sameRound f ps s
  | feedGlide => exact reqFeedGlide_sameRound f ps s
  | scnList => exact reqScnList_sameRound f ps s
  | devRestart => exact reqDevRestart_sameRound f ps s
  | storeSave => exact reqStoreSave_sameRound f ps s
  | mapWindows => exact reqMapWindows_sameRound f ps s
  | lawStage => exact reqLawStage_sameRound f ps s
  | plawStage => exact reqPlawStage_sameRound f ps s
  | lawGet => exact reqLawGet_sameRound f ps s
  | supervisorSet => exact reqSupervisorSet_sameRound f ps s
  | scnOpen => exact reqScnOpen_sameRound f ps s
  | scnCancel => exact reqScnCancel_sameRound f ps s

theorem execute_sameRound (f : Feed) (m : Message) (s : State) : s.sameRound (execute f m s).1 := by
  unfold execute
  split
  · exact sameRound_refl s
  · exact executeKind_sameRound _ _ _ _

/-! ### Grants -/

/-- A grant executes the request, appends one response, moves the pointer on and takes the feed as considered (R145, R147). -/
theorem grant_executes (f : Feed) (m : Message) (s : State) :
    grant f m s = answered f m.tag m.kind (execute f m s).2 (execute f m s).1 :=
  grant_answered f m s (sameRound_roundLeft (execute_sameRound f m s))

/-- A request that is granted on arrival (R145). -/
theorem submit_executes (f : Feed) (m : Message) (s : State) (h : s.serves f) :
    submit f m s = answered f m.tag m.kind (execute f m (reach f s)).2 (execute f m (reach f s)).1 := by
  rw [submit_served f m s h, grant_executes]

end Sys2Proof.Machine
end

