-- ==== Sys2Proof/Tests/Slice0.lean ====
section
/-! SUPPORT. Tests: ill-formed commands refused, the spec's worked examples, and for every statement with hypotheses a state
and operands that meet them. Expected values are the spec's own, or worked out by hand from its rules. -/

set_option Elab.async false

namespace Sys2Proof.Machine

/-! ### Ill-formed commands -/

theorem test_request_of_60_parameters_refused :
    (Instr.mapGet 0 1 (List.replicate 60 0)).wellFormed = false ∧
    (Instr.mapGet 0 1 (List.replicate 59 0)).wellFormed = true := by decide

theorem test_upstream_frame_of_7_bytes_refused :
    (Instr.upstreamFrame 0 [List.replicate 7 0] false).wellFormed = false ∧
    (Instr.upstreamFrame 0 [List.replicate 6 0] false).wellFormed = true := by decide

theorem test_eeprom_of_1740_bytes_refused :
    (Instr.loadComplete (.found (List.replicate 1740 0))).wellFormed = false ∧
    (Instr.loadComplete (.found (List.replicate 1739 0))).wellFormed = true := by decide +kernel

theorem test_save_stop_of_1739_bytes_refused :
    (Instr.saveComplete (.fail 1739)).wellFormed = false ∧ (Instr.saveComplete (.fail 1738)).wellFormed = true := by decide

theorem test_unknown_kind_of_the_table_refused :
    (Instr.unknownKindRequest 0 1 0x01 []).wellFormed = false ∧
    (Instr.unknownKindRequest 0 1 0x05 []).wellFormed = true := by decide

/-! ### The spec's worked values -/

/-- 09_the_control_lane.md, R140: the check value of "123456789". -/
theorem test_crc16_check_value : crc16 ([49, 50, 51, 52, 53, 54, 55, 56, 57] : List Byte) = 0x29B1#16 := by
  decide +kernel

/-- 08_link_ports_and_redundant_feeds.md: an idle upstream frame is zeros after its sync word. -/
theorem test_idle_upstream_frame_good : judgeUpstream [[0, 0, 0, 0, 0, 0]] = .good false [] := by decide +kernel

/-- 00_scope.md, "Frames and time": leads across the wrap of the frame counter. -/
theorem test_lead_across_wrap : lead 704 4294967000 = 1000 ∧ lead 4294967000 704 = -1000 := by decide

/-- 02_feeds_and_slot_maps.md, R20: INPUT, first 16, count 8, INTERLEAVED. -/
theorem test_interleaved_window :
    Window.expand (.input 16 8 .interleaved) =
      [.input 16, .input 20, .input 17, .input 21, .input 18, .input 22, .input 19, .input 23] := by decide +kernel

/-- R24: 47 + 2 INTERLEAVED is refused, 45 + 6 INTERLEAVED is reduced to 2, 40 + 20 STRAIGHT to 8. -/
theorem test_window_checks :
    checkWindow 0 47 2 1 = none ∧ checkWindow 0 45 6 1 = some (.input 45 2 .interleaved, true) ∧
    checkWindow 0 40 20 0 = some (.input 40 8 .straight, true) ∧ checkWindow 1 9 64 9 = some (.silence 64, false) ∧
    checkWindow 2 0 65 0 = none := by decide

/-- R60: rounding at T = −48, halves upward. -/
theorem test_rounding_at_minus_48 :
    outputValue builtinGlt 1 (-48) = 1 ∧ outputValue builtinGlt (-1) (-48) = 0 ∧
    outputValue builtinGlt (-3) (-48) = -1 ∧ outputValue builtinGlt (-8388608) (-48) = -4194304 := by decide +kernel

/-- R61: T = 192 is sixteen times, saturated. -/
theorem test_saturation_at_192 :
    outputValue builtinGlt 524287 192 = 8388592 ∧ outputValue builtinGlt 524288 192 = 8388607 ∧
    outputValue builtinGlt (-524289) 192 = -8388608 := by decide +kernel

/-- R154: the largest peak gives 184, silence 0, the smallest peak 1. -/
theorem test_meter_codes : meterCode 8388607 = 184 ∧ meterCode 0 = 0 ∧ meterCode 1 = 1 := by decide +kernel

/-- 12_worked_sequences.md, "A clamp and its recovery by glide". -/
theorem test_clamp_sequence :
    let t : Tap := { mode := .track 120, offset := -250, target := -250, current := -250, mute := false, limit := false }
    let high := t.jump 200 320
    let back := high.jump (-200) 120
    high = { t with target := -320, current := -320, limit := true } ∧ back = { t with current := -120 } ∧
      (back.glide 4).current = -124 := by decide +kernel

/-- 09_the_control_lane.md, "Preamp word": place 5, code 38, phantom. -/
theorem test_preamp_word :
    preampWord 5 { code := 38, pad := false, phantom := true } = 0b1011001100100000#16 := by decide

/-- 12_worked_sequences.md, "Control failover": a TRIM entry over a LIST of five slots is 10 parameter bytes, 15 in all. -/
theorem test_scene_add_envelope_length :
    (envelope { tag := 1, kind := 0x29, params := [1, 2, 5, 0, 1, 2, 3, 4, 0, 12] }).length = 15 := by decide +kernel

/-- R162: the signature, version and length of a saved image. -/
theorem test_image_header : (imageOf Settings.builtin.sections).take 7 = [0x50, 0x46, 0x53, 0x50, 1, 6, 0xC2] := by
  decide +kernel

/-! ### A part at work

A READY part at frame 600,000 (a multiple of W), locked to F0, which supervises; F0 to F2 ONLINE on their main ports, F3
OFFLINE; every feed maps inputs 0 to 47; inputs 0 to 23 owned by F0, the others by F1; every channel live at code 32. -/

def demoTap (f : Feed) (i : Input) : Tap :=
  if f = 1 ∧ i = 20 then
    { mode := .track 256, offset := -16, target := -16, current := -16, mute := false, limit := false }
  else if f = 2 ∧ i = 20 then
    { mode := .track 256, offset := -272, target := -272, current := -272, mute := false, limit := false }
  else Tap.reset

def demoAmp : HeadAmp := { code := 32, pad := false, phantom := false }

def demoChannel (i : Input) : Channel :=
  { Channel.reset with
    desired := demoAmp, live := demoAmp, gain := 256, settle := .absent, owner := some (if i.val < 24 then 0 else 1) }

def demo : State :=
  { State.reset with
    ftu := { Ftu.reset with frame := 600000, clock := .locked (.feed 0) }
    cvp := { ports := tab fun _ => { state := .running, goodRun := 0, judged := true }
             samples := tab fun i => BitVec.ofNat 24 (1000 * i.val) }
    smu := { maps := tab fun _ => { inForce := SlotMap.ofWindows .k48 defaultWindows, pending := none } }
    tgu := { Tgu.reset with taps := tab fun f => tab (demoTap f) }
    hac := { Hac.reset with channels := tab demoChannel }
    lnk :=
      { ports := tab fun p => { LinkPort.reset with state := if p.val < 6 ∧ p.val % 2 = 0 then .up 0 else .down }
        feeds := tab fun f => { FeedRecord.reset with control := if f = 3 then none else some .main } }
    sil := { Sil.reset with load := .ready }
    stepped := true }

/-- The state an outcome carries on with. -/
def after (c : Instr) (s : State) : State :=
  match exec c s with
  | .next t => t
  | _ => s

/-- The demo part with input 20 in flight to code 38 (12_worked_sequences.md, "A gain nudge"), effective now. -/
def demoInFlight : State :=
  { demo with hac := demo.hac.onChannel 20 fun c =>
      { c with desired := { demoAmp with code := 38 }
               inFlight := some { value := { demoAmp with code := 38 }, sent := 599987, effective := 600000 } } }

/-- The demo part with link port 6 one good frame from UP. -/
def demoRising : State :=
  { demo with lnk := demo.lnk.onPort 6 fun p => { p with state := .seek 15 } }

/-- The demo part with port 0, the control port of F0, one bad frame from DOWN, and port 1 in a given state, its outcome of
the frame taken or not. -/
def demoFailing (other : LinkState) (judged : Bool) : State :=
  { demo with lnk := (demo.lnk.onPort 0 fun p => { p with state := .up 7 }).onPort 1 fun p =>
      { p with state := other, judged := judged } }

/-- The demo part with an open scene of F0: one entry applied, one skipped, one applied. -/
def demoEntries : List SceneEntry :=
  [{ input := 3, value := .headAmp (some 20) none none }, { input := 40, value := .headAmp none (some true) none },
    { input := 41, value := .trim 12 }]

def demoScene : State := { demo with scu := { demo.scu with opened := put demo.scu.opened 0 (some demoEntries) } }

/-- The demo part with all staging marks set and one entry of each staging copy replaced. -/
def demoStaged (r : Fin 48) (m : Mantissa) (k : Fin 64) (e : LawEntry) : State :=
  { demo with
    tgu := { demo.tgu with staging := put demo.tgu.staging r m, marks := tab fun _ => true }
    hac := { demo.hac with staging := put demo.hac.staging k e, marks := tab fun _ => true } }

/-- The demo part with a lane of F0 replaced. -/
def demoLane (l : Lane) : State := { demo with cle := { demo.cle with lanes := put demo.cle.lanes 0 l } }

theorem test_demo_serves : demo.serves 0 ∧ demo.serves 1 ∧ ¬ demo.serves 3 := by
  refine ⟨⟨?_, ?_, ?_, ?_⟩, ⟨?_, ?_, ?_, ?_⟩, fun h => absurd h.1 ?_⟩ <;> decide +kernel

/-- The demo part once the round has passed F0, which has no request, and comes to F1. -/
def demoAtF1 : State := { demo with cle := { demo.cle with left := some [1, 2, 3] } }

theorem test_demo_ready :
    demo.sil.load = .ready ∧ demo.cle.supervisor = 0 ∧ reach 0 demo = demo ∧ reach 1 demo = demoAtF1 :=
  ⟨rfl, rfl, rfl, rfl⟩

/-- The hypotheses common to the statements about requests of F0. -/
theorem test_demo_request : demo.serves 0 ∧ demo.sil.load = .ready ∧ (0 : Feed) = demo.cle.supervisor :=
  ⟨test_demo_serves.1, rfl, rfl⟩

/-! ### The conditions that every step keeps, of the part at work -/

def Tap.soundDec (a : Int) (t : Tap) : Decidable (t.sound a) := by
  unfold Tap.sound inTrim
  cases t.mode <;> infer_instance

def tapsDec (s : State) : Decidable s.tapsSound := by
  unfold State.tapsSound
  exact @Nat.decidableForallFin _ _ fun f => @Nat.decidableForallFin _ _ fun i => Tap.soundDec _ _

theorem test_demo_taps : demo.tapsSound := @of_decide_eq_true _ (tapsDec demo) (by decide +kernel)

theorem test_demo_in_flight_taps : demoInFlight.tapsSound :=
  @of_decide_eq_true _ (tapsDec demoInFlight) (by decide +kernel)

theorem test_demo_queues : demo.queuesBounded := by
  refine ⟨fun f => ?_, by decide⟩
  unfold Lane.bounded
  revert f
  decide +kernel

theorem test_builtin_law_sound : lawSound builtinGlt := by
  unfold lawSound
  decide +kernel

theorem test_demo_laws : demo.lawsSound := ⟨test_builtin_law_sound, fun _ h => nomatch h⟩

theorem test_builtin_plaw_sound : plawSound builtinPlt := by
  unfold plawSound
  decide +kernel

theorem test_demo_gains : demo.gainsSound := by
  refine ⟨test_builtin_plaw_sound, ?_, ?_, ?_⟩ <;> decide +kernel

theorem test_demo_writes : demo.writesSound := by
  refine ⟨by decide +kernel, by decide +kernel, fun h => ?_⟩
  rcases h with h | ⟨j, h⟩ <;> cases h

theorem test_demo_scenes : demo.scenesSound := by
  have none : ∀ f : Feed, demo.openScene f = none := by decide +kernel
  refine ⟨fun f es h => ?_, by decide, fun _ h => absurd h List.not_mem_nil, List.Pairwise.nil, by decide⟩
  rw [none f] at h
  cases h

theorem test_demo_clock : demo.clockSound := by
  refine ⟨by decide, by decide, by decide, (fun h => nomatch h), ?_, ?_, rfl, ?_⟩ <;> decide +kernel

theorem test_demo_meters : demo.metersSound := by
  have none : ∀ f : Feed, demo.lmu.subscriptions[f] = none := by decide +kernel
  refine ⟨by unfold Clip.sound; decide +kernel, fun f u h => ?_⟩
  rw [none f] at h
  cases h

theorem test_demo_maps : demo.mapsSound := by
  have none : ∀ f : Feed, demo.smu.maps[f].pending = none := by decide +kernel
  intro f
  refine ⟨⟨?_, ?_, ?_⟩, fun p h => ?_⟩
  · revert f; decide +kernel
  · have windows : demo.smu.maps[f].inForce.windows = defaultWindows := by revert f; decide +kernel
    rw [windows]
    intro w h
    cases List.mem_singleton.mp h
    exact ⟨by decide, by decide, fun h => nomatch h⟩
  · revert f; decide +kernel
  · rw [none f] at h
    cases h

theorem test_demo_feeds : demo.feedsSound := by
  refine ⟨fun p => ?_, fun f => ?_⟩
  · have ports : demo.lnk.ports[p].state = .up 0 ∨ demo.lnk.ports[p].state = .down := by revert p; decide +kernel
    rcases ports with h | h <;> rw [h] <;> simp [LinkState.sound]
  · match f with
    | 0 | 1 | 2 => rfl
    | 3 => exact ⟨rfl, rfl, rfl, rfl, rfl⟩

/-! ### Single steps of the part at work -/

/-- The parameters of the last response a command gives feed `f`. -/
def reply (c : Instr) (s : State) (f : Feed) : List Byte :=
  match ((after c s).lane f).responses.getLast? with
  | some m => m.params
  | none => []

/-- 12_worked_sequences.md, "A gain nudge", frame 600,001. -/
theorem test_HA_NUDGE_queues :
    let t := after (.haNudge 0 1 [0, 20, 3]) demo
    reply (.haNudge 0 1 [0, 20, 3]) demo 0 = [0] ∧ (t.channel 20).desired.code = 35 ∧ (t.channel 20).live.code = 32 ∧
      t.hac.buses[(2 : Group)].queue = [{ channel := 4, value := { demoAmp with code := 35 } }] := by
  decide +kernel

/-- 12_worked_sequences.md, "A gain nudge", frame 600,004: S 600,004, E 600,017; the word for place 4. -/
theorem test_BUS_SEND_OPPORTUNITY_sends :
    let s := { demo with
      ftu := { demo.ftu with frame := 600004 }
      hac := demo.hac.change 20 { demoAmp with code := 38 } }
    let t := after (.busSendOpportunity 2) s
    (t.channel 20).inFlight = some { value := { demoAmp with code := 38 }, sent := 600004, effective := 600017 } ∧
      t.hac.buses[(2 : Group)].queue = [] ∧ t.hac.buses[(2 : Group)].word = some 0b1001001100000000 ∧
      (t.channel 20).settle = .absent := by
  decide +kernel

/-- 12_worked_sequences.md, "A gain nudge", frame 600,017: A 304, the tap of F1 at −64, a HEADAMP notice. -/
theorem test_EFFECTIVE_EVENT_compensates :
    let t := after (.effectiveEvent 20) demoInFlight
    (t.channel 20).gain = 304 ∧ (t.tap 1 20).current = -64 ∧ (t.tap 1 20).target = -64 ∧ (t.tap 0 20).current = 0 ∧
      (t.lane 2).notices = [.headAmp 20 { demoAmp with code := 38 } 304 600000] ∧ (t.lane 3).notices = [] := by
  decide +kernel

/-- A frame of the demo part: the counter, an output sample at T = 0 and one at T = −16 in F1's downstream frame. -/
theorem test_FRAME_TICK_sends_samples :
    let t := after .frameTick { demo with stepped := false }
    t.ftu.frame = 600001 ∧ (t.lnk.ports[(0 : Port)].sent.drop 24).take 3 = be 3 5000 ∧
      (t.lnk.ports[(2 : Port)].sent.drop 69).take 3 = be 3 15874 ∧ t.lnk.ports[(0 : Port)].sent.length = 158 := by
  decide +kernel

/-- 12_worked_sequences.md, "A scheduled scene across the frame-counter wrap": the three commits. -/
theorem test_SCN_COMMIT_three_commits :
    let s := { demoScene with
      ftu := { demo.ftu with frame := 4294960000 }, scu := { demoScene.scu with nextId := 9 } }
    reply (.scnCommit 0 1 (1 :: be 4 16780000)) s 0 = [7] ∧
      reply (.scnCommit 0 1 (1 :: be 4 4294959000)) s 0 = [0, 0, 2, 1, 1] ∧
      reply (.scnCommit 0 1 (1 :: be 4 2000)) s 0 = 0 :: 9 :: be 4 2000 ∧
      (after (.scnCommit 0 1 (1 :: be 4 2000)) s).scu.nextId = 10 := by
  decide +kernel

/-- 07_scenes.md, worked example: −400 is held as −320, code 70 as 63. -/
theorem test_SCN_ADD_limits :
    let s := nextFrame (after (.scnOpen 0 1 []) demo)
    reply (.scnAdd 0 2 [1, 1, 0, 4, 0xFE, 0x70]) s 0 = [1, 4, 4, 0] ∧
      (after (.scnAdd 0 2 [0, 0, 4, 1, 70]) s).openScene 0 =
        some [{ input := 4, value := .headAmp (some 63) none none }] := by
  decide +kernel

/-- 12_worked_sequences.md, "Owner link loss and takeover", frame 700,100: TAKEN, 2 changed, 2 taken. -/
theorem test_OWN_CLAIM_takes_over :
    let s := { demo with hac := { demo.hac with channels := tab fun i =>
      { demoChannel i with owner := if i.val < 4 then some 3 else none } } }
    reply (.ownClaim 1 1 [1, 2, 2]) s 1 = [2, 2, 2] ∧
      ((after (.ownClaim 1 1 [1, 2, 2]) s).channel 3).owner = some 1 ∧
      ((after (.ownClaim 1 1 [1, 2, 2]) s).channel 1).owner = some 3 := by
  decide +kernel

/-- 02_feeds_and_slot_maps.md, "A broadcast map at both rates": CLAMPED with 35 slots, or 32 at 96 kHz. -/
theorem test_MAP_WINDOWS_broadcast :
    let ws : List Byte := [5, 0, 0, 16, 0, 0, 16, 8, 1, 1, 0, 2, 0, 2, 0, 1, 0, 0, 40, 12, 0]
    reply (.mapWindows 2 1 ws) demo 2 = [1, 35] ∧
      reply (.mapWindows 2 1 ws) { demo with ftu := { demo.ftu with rate := .k96 } } 2 = [1, 32] := by
  decide +kernel

/-- 12_worked_sequences.md, "Control failover", frame 800,009: control moves to the reserve port. -/
theorem test_UPSTREAM_FRAME_moves_control :
    let s := demoFailing (.up 0) true
    let t := after (.upstreamFrame 0 [] false) { s with cle := s.cle.onLane 0 fun l =>
      { l with assembler := .collecting [14, 1, 0x29, 1, 1, 2, 5, 0] 7 } }
    t.lnk.feeds[(0 : Feed)].control = some .reserve ∧ (t.lane 0).assembler = .waitSom ∧
      t.lnk.ports[(0 : Port)].state = .down := by
  decide +kernel

/-- R5: the fourth good frame in a row takes a port from FAULT to RUNNING. -/
theorem test_CONVERTER_FRAME_runs :
    let words (n : Nat) : List (Nat × Sample) := (List.range n).map fun k => (k, 7)
    let s := { demo with cvp := { demo.cvp with ports := tab fun _ => { state := .fault, goodRun := 3, judged := false } } }
    (after (.converterFrame 4 (some (words 8))) s).cvp.ports[(4 : Group)].state = .running ∧
      (after (.converterFrame 4 (some (words 7))) s).cvp.ports[(4 : Group)] =
        { state := .fault, goodRun := 0, judged := true } := by
  decide +kernel

/-- R13, R161, R163: the power-on load of an EEPROM that does not answer locks to INTERNAL while no feed is ONLINE. -/
theorem test_LOAD_COMPLETE_without_image :
    let t := after (.loadComplete .noAck) State.reset
    t.sil.load = .complete .powerOn .invalid ∧ t.ftu.clock = .locked .internal ∧
      (after .frameTick t).sil.defaults = true ∧ (after .frameTick t).sil.load = .ready := by
  decide +kernel

/-- R45: an offset of −400 is limited to −320; R44: parameters without a value are MALFORMED. -/
theorem test_TAP_TRIM_limits :
    reply (.tapTrim 0 1 [0, 20, 0, 0xFE, 0x70]) demo 0 = [1] ∧
      ((after (.tapTrim 0 1 [0, 20, 0, 0xFE, 0x70]) demo).tap 0 20).target = -320 ∧
      reply (.tapTrim 0 1 [0, 20, 0]) demo 0 = [11] := by
  decide +kernel

/-- R79: a write that took effect in the frame of the opportunity still blocks its channel's queued entry; the next channel's
entry is sent. -/
theorem test_BUS_SEND_OPPORTUNITY_blocked_at_E :
    let s := { demoInFlight with hac :=
      (demoInFlight.hac.change 20 { demoAmp with code := 40 }).change 21 { demoAmp with code := 41 } }
    let t := after (.busSendOpportunity 2) (after (.effectiveEvent 20) s)
    (t.channel 20).live.code = 38 ∧ (t.channel 20).inFlight = none ∧
      t.hac.buses[(2 : Group)].queue = [{ channel := 4, value := { demoAmp with code := 40 } }] ∧
      (t.channel 21).inFlight.map (·.effective) = some 600013 := by
  decide +kernel

/-- R145: one request of a feed in a frame, in the pointer's order; the rest wait for the next frame's round. -/
theorem test_request_commands_keep_the_round :
    let s := after (.mapGet 0 3 []) (after (.mapGet 1 2 []) (after (.mapGet 1 1 []) demo))
    ((s.lane 1).responses.map (·.tag), (s.lane 1).requests.map (·.tag), (s.lane 0).requests.map (·.tag)) =
        ([1], [2], [3]) ∧ s.cle.pointer = 2 ∧
      ((round (beforeRequests (nextFrame s))).lane 0).responses.map (·.tag) = [3] ∧
      ((round (beforeRequests (nextFrame s))).lane 1).responses.map (·.tag) = [1, 2] := by
  decide +kernel

/-- R133: no move is seen between the fall of the control port and that of the other port; R130: the other port's good frame
delivers nothing in the frame of a move. -/
theorem test_UPSTREAM_FRAME_waits :
    let s := after (.upstreamFrame 0 [] false) (demoFailing (.up 7) false)
    let frame : List (List Byte) := [[0x14, 5, 1, 0x10, 0x80, 0x46]]
    s.lnk.feeds[(0 : Feed)].control = some .main ∧
      (after (.upstreamFrame 1 [] false) s).lnk.feeds[(0 : Feed)].control = none ∧
      (after (.upstreamFrame 1 frame false) s).lnk.feeds[(0 : Feed)].control = some .reserve ∧
      ((after (.upstreamFrame 1 frame false) s).lane 0).assembler = .waitSom := by
  decide +kernel

/-- 09_the_control_lane.md, "Worked sequence: notice queue overflow". -/
theorem test_notice_queue_overflow :
    let amp (i : Input) (x : FrameNo) : Notice := .headAmp i demoAmp 256 x
    let limit (x : FrameNo) : Notice := .limit 2 true 192 200 x
    let l : Lane := { Lane.reset with
      serialiser := .sending .notice [1]
      notices := amp 7 1 :: amp 7 2 :: limit 1 :: (List.range 13).map fun k => amp (Fin.ofNat 48 (k + 20)) 1 }
    let s := told (toFeed 0 [amp 7 9, limit 9]) (demoLane l)
    let t := told (toFeed 0 [.owner 7 none (some 1) .release 9, .clock .free 9]) s
    (s.lane 0).notices.take 3 = [amp 7 1, amp 7 9, limit 9] ∧ (s.lane 0).notices.length = 16 ∧
      s.lnk.feeds[(0 : Feed)].resync = false ∧ (t.lane 0).notices = (s.lane 0).notices ∧
      t.lnk.feeds[(0 : Feed)].resync = true := by
  decide +kernel

/-- R154, R156, R157: the sample of input 30, at 30,000, is captured and metered; F3, which is OFFLINE, is not told. -/
theorem test_samples_taken :
    let s := { demo with
      stepped := false
      lmu :=
        { clips := put demo.lmu.clips 30 { Clip.reset with mode := .cyclic, threshold := 30000, count := 255 }
          subscriptions := put demo.lmu.subscriptions 1
            (some { period := 1, ends := 600100, peaks := [(30, 29999), (31, 40000)] }) } }
    let t := openFrame s
    t.lmu.clips[(30 : Input)] =
        { Clip.reset with
          mode := .cyclic, threshold := 30000, state := .waitRearm, frame := 600000, code := 32, magnitude := 30000,
          count := 255 } ∧
      t.lmu.subscriptions[(1 : Feed)].map (·.peaks) = some [(30, 30000), (31, 40000)] ∧
      (t.lane 1).notices = [.clip 30 600000 32 false 30000 255] ∧ (t.lane 3).notices = [] := by
  decide +kernel

/-! ### The hypotheses of the statements -/

theorem witness_StepRunsFrontCommand :
    ({ demo with pending := [.frameTick, .reset] } : State).pending = .frameTick :: [.reset] ∧ demo.pending = [] :=
  ⟨rfl, rfl⟩

/-- RESET without a save under way, and with one. -/
theorem witness_ResetGivesPowerOnValues :
    demo.sil.saving = none ∧
    ({ demo with sil := { demo.sil with saving := some [7] } } : State).sil.saving = some [7] := ⟨rfl, rfl⟩

/-- A frame not opened yet; no load completes in it. -/
theorem witness_FrameTickCompletesFrame :
    ({ demo with stepped := false } : State).stepped = false ∧ ∀ kind j, demo.sil.load ≠ .complete kind j :=
  ⟨rfl, fun _ _ h => nomatch h⟩

/-- At the capacity of R22: 64 slots. -/
theorem witness_DownstreamFrameLayout :
    let s : State := { demo with smu := { maps := tab fun _ =>
      { inForce := SlotMap.ofWindows .k48 [.input 0 48 .interleaved, .silence 64], pending := none } } }
    (s.slotMap 3).slots.length = 64 := by decide +kernel

theorem witness_FrameStepGlidesTaps :
    State.reset.stepped = false ∧ ({ demo with stepped := false } : State).stepped = false := ⟨rfl, rfl⟩

theorem witness_OutputSampleArithmetic :
    (-320 : Int) ≤ -320 ∧ (-320 : Int) ≤ 192 ∧ (192 : Int) ≤ 192 ∧ builtinGlt[(0 : Fin 48)].toNat = 8388608 := by
  decide +kernel

theorem witness_OutputMagnitudeNeverFalls :
    lawSound builtinGlt ∧ (-320 : Int) ≤ -320 ∧ (-320 : Int) ≤ 192 ∧ (192 : Int) ≤ 192 :=
  ⟨test_builtin_law_sound, by decide, by decide, by decide⟩

/-- The control port falls while the other port is UP, or one good frame from it, or falls; the other port falls while the
control port may fall; and outcomes that do not wait, for want of a fall, of another outcome to come, or of its bearing. -/
theorem witness_UpstreamFrameDrivesPort :
    judgeUpstream [] = .bad ∧ (demoFailing (.up 0) false).lnk.feeds[feedOf 0].control = some (roleOf 0) ∧
    portOf (feedOf 0) (roleOf 0).other = 1 ∧ portOf (feedOf 1) (roleOf 1).other = 0 ∧
    (∀ other ∈ [LinkState.up 0, .up 7, .seek 15, .seek 14, .down],
      (demoFailing other false).lnk.ports[(0 : Port)].state = .up 7 ∧
      (demoFailing other false).lnk.ports[(1 : Port)].state = other ∧
      (demoFailing other false).lnk.ports[(1 : Port)].judged = false ∧
      (demoFailing other true).lnk.ports[(1 : Port)].judged = true) ∧
    (demoFailing (.up 7) false).lnk.ports[(0 : Port)].judged = false ∧
    (demoFailing (.up 7) false).lnk.feeds[feedOf 1].control ≠ some (roleOf 1) := by
  decide +kernel

/-- A frame with SOM and four bytes on the UP control port; a port in DOWN, in SEEK below 15 and in UP below 7. -/
theorem witness_ControlBytesReachAssembler :
    demo.lnk.ports[(0 : Port)].state = .up 0 ∧ (demo.linkAt 0 Role.main.other).held = false ∧
    crc8 [0x14, 5, 1, 0x10, 0x80] = 0x46 ∧ ((0x14 : Byte) &&& 7).toNat ≤ 4 ∧
    demo.lnk.feeds[(0 : Feed)].control = some .main ∧
    judgeUpstream [[0x14, 5, 1, 0x10, 0x80, 0x46]] ≠ .bad ∧ judgeUpstream [] = .bad ∧
    (∀ other ∈ [LinkState.down, .seek 14, .up 6],
      (demoFailing other false).lnk.ports[(1 : Port)].state = other ∧
      ((demoFailing other false).linkAt (feedOf 1) (roleOf 1).other).held = false) := by
  decide +kernel

/-- Deliveries to a lane: a lane collecting the last two of a message's bytes gets one more, the two that match, with padding,
and two that do not. -/
theorem witness_ControlBytesReachAssembler_deliver :
    let message : List Byte := envelope { tag := 9, kind := 0x01, params := [] }
    let l : Lane := { Lane.reset with assembler := .collecting (message.take 3) 2 }
    l.assembler = .collecting (message.take 3) 2 ∧ Lane.reset.assembler = .waitSom ∧
    ([message.getD 3 0] : List Byte).length < 2 ∧ 2 ≤ (message.drop 3 ++ [0, 0]).length ∧
    (message.drop 3 ++ [0, 0]).length ≤ 4 ∧ message.take 3 ++ (message.drop 3 ++ [0, 0]).take 2 = message ∧
    message.take 3 = [4, 9, 1] ∧ message.drop 3 = be 2 (crc16 [4, 9, 1]).toNat ∧
    ([0, 0] : List Byte) ≠ be 2 (crc16 [4, 9, 1]).toNat := by
  decide +kernel

/-- Rising: on F3, which is OFFLINE; on F0's reserve port beside its main port; on F0's main port after the reserve port in
the same frame. Falling: F0's main port, with the reserve port UP, or not; and F0's reserve port. -/
theorem witness_FeedRecordFollowsPorts :
    let both : State := { demoFailing (.up 0) true with
      lnk :=
        { (demoFailing (.up 0) true).lnk.onPort 0 fun p => { p with state := .seek 15 } with
          feeds := put demo.lnk.feeds 0 { control := some .reserve, resync := true, cameOnline := true } } }
    (demoRising.lnk.ports[(6 : Port)].state = .seek 15 ∧ demoRising.lnk.feeds[feedOf 6].control = none ∧
      judgeUpstream [[0, 0, 0, 0, 0, 0]] ≠ .bad ∧ (demoRising.linkAt (feedOf 6) (roleOf 6).other).held = false) ∧
    ((demoFailing (.seek 15) false).lnk.ports[(1 : Port)].state = .seek 15 ∧
      (demoFailing (.seek 15) false).lnk.feeds[feedOf 1].control ≠ none) ∧
    (both.lnk.ports[(0 : Port)].state = .seek 15 ∧
      both.lnk.feeds[feedOf 0] = { both.lnk.feeds[feedOf 0] with control := some .reserve, cameOnline := true } ∧
      roleOf 0 = .main ∧ (both.linkAt (feedOf 0) (roleOf 0).other).held = false) ∧
    judgeUpstream [] = .bad ∧ (demoFailing (.up 0) true).lnk.feeds[feedOf 0].control = some (roleOf 0) ∧
    ((demoFailing (.up 0) true).lnk.ports[(0 : Port)].state = .up 7 ∧
      ((demoFailing (.up 0) true).linkAt (feedOf 0) (roleOf 0).other).judged = true ∧
      ((demoFailing (.up 0) true).linkAt (feedOf 0) (roleOf 0).other).state = .up 0 ∧
      ((demoFailing (.up 0) true).linkAt (feedOf 0) (roleOf 0).other).held = false) ∧
    (∀ other ∈ [LinkState.down, .seek 14],
      ((demoFailing other false).linkAt (feedOf 0) (roleOf 0).other).state = other ∧
      ((demoFailing other false).linkAt (feedOf 0) (roleOf 0).other).held = false) ∧
    ((demoFailing (.up 7) false).lnk.ports[(1 : Port)].state = .up 7 ∧
      (demoFailing (.up 7) false).lnk.feeds[feedOf 1].control ≠ some (roleOf 1) ∧
      (demo.linkAt (feedOf 1) (roleOf 1).other).state = .up 0) := by
  decide +kernel

/-- The order of the two ports' outcomes: F0 of the demo part. -/
theorem witness_FeedRecordFollowsPorts_order :
    demo.feedsSound ∧ demo.lnk.feeds[(0 : Feed)].cameOnline = false ∧
    ∀ r : Role, (demo.linkAt 0 r).judged = false ∧ (demo.linkAt 0 r).held = false :=
  ⟨test_demo_feeds, rfl, fun r => by cases r <;> exact ⟨rfl, rfl⟩⟩

/-- 12_worked_sequences.md, "A gain nudge": ΔA = +48; the tap of F1 follows, the tap of F2 reaches −320 exactly, the tap of
F0 is in FOLLOW. -/
theorem witness_CompensationHoldsTotalGain :
    demoInFlight.tapsSound ∧
    (demoInFlight.channel 20).inFlight =
      some { value := { demoAmp with code := 38 }, sent := 599987, effective := 600000 } ∧
    0 ≤ lead demoInFlight.ftu.frame 600000 ∧
    exec (.effectiveEvent 20) demoInFlight = .next (after (.effectiveEvent 20) demoInFlight) ∧
    ((after (.effectiveEvent 20) demoInFlight).channel 20).gain - (demoInFlight.channel 20).gain = 48 ∧
    (∀ f : Feed, f = 1 ∨ f = 2 → (demoInFlight.tap f 20).tracks = true ∧ (demoInFlight.tap f 20).limit = false) ∧
    (demoInFlight.tap 2 20).current - 48 = -320 ∧ (demoInFlight.tap 2 20).target - 48 = -320 ∧
    (demoInFlight.tap 0 20).tracks = false := by
  refine ⟨test_demo_in_flight_taps, ?_, ?_, rfl, ?_, ?_, ?_, ?_, ?_⟩ <;> decide +kernel

theorem witness_SceneAppliesEntries :
    (demoEntries.Pairwise fun a b => a.sameKey b = false) ∧
    demoEntries[1]? = some { input := 40, value := .headAmp none (some true) none } ∧
    (demo.channel 40).owner ≠ some 0 ∧ (demo.channel 3).owner = some 0 := by
  decide +kernel

theorem witness_MeterPeriodEndReports :
    (2 ^ (1 - 1) ≤ 1 ∧ 1 < 2 ^ 1) ∧ (2 ^ (23 - 1) ≤ 8388607 ∧ 8388607 < 2 ^ 23) := by decide +kernel

/-- Of a load of either kind, from an image and from the built-in defaults. -/
theorem witness_FirstReadyFrameTakesSettings :
    ∀ kind ∈ [LoadKind.powerOn, .restart], ∀ j ∈ [Judgement.invalid, .valid Settings.builtin.sections],
      ({ demo with sil := { demo.sil with load := .complete kind j } } : State).sil.load = .complete kind j :=
  fun _ _ _ _ => rfl

/-- Section bytes of the built-in defaults, and bytes that are all 0 and all 255: gain law and preamp law pass and fail. -/
theorem witness_StoredImageGivesBackSettings_sections :
    Settings.builtin.sections.length = 1730 ∧ (List.replicate 1730 (0 : Byte)).length = 1730 ∧
    (tab fun r => BitVec.ofNat 24 (atBe Settings.builtin.sections (362 + 3 * r.val) 3) : Vector Mantissa 48) = builtinGlt ∧
    ¬ lawSound (tab fun _ => 0) ∧ plawSound (tab fun _ => 0) ∧ ¬ plawSound (tab fun _ => 65535) := by
  refine ⟨by decide +kernel, by decide +kernel, by decide +kernel, fun h => ?_, ⟨fun k => ?_, fun k j _ => ?_⟩, fun h => ?_⟩
  · exact absurd (h.1 0).1 (by decide)
  · simp
  · simp
  · exact absurd (h.1 0) (by decide)

theorem witness_StoredImageGivesBackSettings : Settings.builtin.sound := by
  refine ⟨by decide, by decide, by decide, by decide +kernel, by decide, by decide, by decide +kernel,
    test_builtin_law_sound, test_builtin_plaw_sound, fun f => ?_, ?_⟩
  · have windows : ∀ f : Feed, Settings.builtin.windows[f] = defaultWindows := by decide +kernel
    rw [windows f]
    exact ⟨by decide, fun w h => List.mem_singleton.mp h ▸ ⟨by decide, by decide, fun h => nomatch h⟩⟩
  · unfold inTrim
    decide +kernel

/-- R166: a save of 1,730 bytes of 7 that stops after two section bytes, and one that stops after the signature; byte 4 is 0. -/
theorem test_save_stops :
    let sections : List Byte := List.replicate 1730 7
    let early := stoppedImage 2 sections [9, 9, 9, 9, 1]
    let late := stoppedImage 1734 sections []
    early.take 12 = [9, 9, 9, 9, 0, 0, 0, 0, 0, 7, 7, 0] ∧ late.take 10 = [0x50, 0x46, 0x53, 0x50, 0, 0, 0, 0, 0, 7] ∧
    late.getD 1738 0 = 7 := by
  decide +kernel

theorem witness_SaveKeepsSnapshot :
    demo.serves 0 ∧ demo.sil.load = .ready ∧ (0 : Feed) = demo.cle.supervisor ∧
    (reach 0 demo).sil.saving = none ∧
    (reach 0 { demo with sil := { demo.sil with saving := some [] } }).sil.saving ≠ none :=
  ⟨test_demo_serves.1, rfl, rfl, rfl, by decide +kernel⟩

/-- An unknown kind, malformed parameters, a privileged kind from F1 and a set in INPUT form from F1; and a part that is
LOADING. -/
theorem witness_ChecksBeforeExecution :
    demo.serves 0 ∧ demo.serves 1 ∧
    (Instr.unknownKindRequest 0 1 0x05 []).request = some (0, 1, 0x05, []) ∧ ReqKind.ofByte 0x05 = none ∧
    (Instr.tapMute 0 1 [0, 20]).request = some (0, 1, 0x13, [0, 20]) ∧ malformed [0, 20] .tapMute = true ∧
    (Instr.lawApply 1 1 []).request = some (1, 1, 0x19, []) ∧ malformed [] .lawApply = false ∧
    privileged .lawApply = true ∧ (1 : Feed) ≠ (reach 1 demo).cle.supervisor ∧
    malformed [0x80, 20, 1] .tapMute = false ∧ privileged .tapMute = false ∧
    (channelSetOf [0x80, 20, 1] .tapMute).map (·.inputForm) = some true ∧
    ({ demo with sil := { demo.sil with load := .loading .restart } } : State).sil.load ≠ .ready := by
  refine ⟨test_demo_serves.1, test_demo_serves.2.1, rfl, rfl, rfl, rfl, rfl, rfl, rfl, ?_, rfl, rfl, rfl, ?_⟩ <;>
    decide

/-- A RANGE of slots 46 to 48: the third member is UNMAPPED. -/
theorem witness_AllMembersCheck :
    (List.replicate 16 (0 : Byte)).length ≤ 255 ∧
    (Instr.tapMute 0 1 [1, 46, 3, 1]).request = some (0, 1, 0x13, [1, 46, 3, 1]) ∧
    ReqKind.ofByte 0x13 = some .tapMute ∧ demo.serves 0 ∧ malformed [1, 46, 3, 1] .tapMute = false ∧
    demo.loading = false ∧ (0 : Feed) = demo.cle.supervisor ∧
    channelSetOf [1, 46, 3, 1] .tapMute = some { inputForm := false, single := false, members := [46, 47, 48] } ∧
    demo.resolve 0 { inputForm := false, single := false, members := [46, 47, 48] } (memberCheckOf demo 0 .tapMute) =
      .error (.unmapped, 2) ∧
    (demo.slotMap 0).slots[47]? = some (.input 47) ∧ (demo.slotMap 0).slots.length ≤ 48 ∧
    (SlotMap.ofWindows .k48 [.silence 1, .pattern 1]).slots = [.silence, .pattern] :=
  ⟨by decide, rfl, rfl, test_demo_serves.1, rfl, rfl, rfl, rfl, by decide +kernel, by decide +kernel, by decide +kernel,
    by decide⟩

/-- The feed OFFLINE; a request waiting; the queue full with and without room for a response; the round past the feed. -/
theorem witness_RequestsWaitOrOverflow :
    let m : Message := { tag := 9, kind := 0x09, params := [] }
    let waiting := demoLane { Lane.reset with requests := [m] }
    let full := demoLane { Lane.reset with requests := List.replicate 8 m, responses := List.replicate 7 m }
    let stuck := demoLane { Lane.reset with requests := List.replicate 8 m, responses := List.replicate 8 m }
    (Instr.mapGet 0 1 []).request = some (0, 1, 0x09, []) ∧ ¬ demo.serves 3 ∧ demo.online 3 = false ∧
    ¬ waiting.serves 0 ∧ waiting.online 0 = true ∧ ¬ full.serves 0 ∧ full.online 0 = true ∧ ¬ stuck.serves 0 ∧
    ¬ demoAtF1.serves 0 := by
  refine ⟨rfl, test_demo_serves.2.2, ?_, fun h => absurd h.2.1 ?_, ?_, fun h => absurd h.2.1 ?_, ?_,
    fun h => absurd h.2.1 ?_, fun h => absurd h.2.2.2 ?_⟩ <;> decide +kernel

/-- A round to begin, with no eligible feed and with a lone one; a round under way; a round at its end. -/
theorem witness_RoundGrantsEachFeedOnce :
    let m : Message := { tag := 9, kind := 0x09, params := [] }
    let s := demoLane { Lane.reset with requests := [m, m] }
    demo.roundLeft = 0 :: [1, 2, 3] ∧ demo.roundLeft.Nodup ∧ (∀ f : Feed, (demo.lane f).requests = []) ∧
    s.roundLeft = 0 :: [1, 2, 3] ∧ (s.lane 0).requests = m :: [m] ∧ (s.lane 0).responses.length < 8 ∧
    (∀ g : Feed, g ≠ 0 → (s.lane g).requests = []) ∧ demoAtF1.roundLeft = 1 :: [2, 3] ∧
    ({ demo with cle := { demo.cle with left := some [] } } : State).roundLeft = [] := by
  decide +kernel

/-- A response with a notice behind it; a notice alone; a message under way. -/
theorem witness_MessagesCrossTheLane :
    let m : Message := { tag := 9, kind := 0x08, params := List.replicate 59 7 }
    let l : Lane := { Lane.reset with responses := [m, m], notices := [.clock .free 5] }
    let quiet : Lane := { Lane.reset with notices := [.clock .free 5] }
    m.params.length ≤ 59 ∧ l.serialiser = .idle ∧ l.responses = m :: [m] ∧ quiet.serialiser = .idle ∧
    quiet.responses = [] ∧ quiet.notices = .clock .free 5 :: [] ∧
    ({ l with serialiser := .sending .notice [1, 2, 3, 4, 5] } : Lane).serialiser = .sending .notice [1, 2, 3, 4, 5] ∧
    (-32768 : Int) ≤ 32767 := by
  decide

theorem witness_DevStatusReportsAndClearsResync : demo.serves 0 ∧ demo.serves 1 :=
  ⟨test_demo_serves.1, test_demo_serves.2.1⟩

theorem witness_DevRestartEmptiesQueues : demo.serves 0 ∧ demo.sil.load = .ready ∧ (0 : Feed) = demo.cle.supervisor :=
  test_demo_request

/-- Lists of four codes: accepted; with a code above 5; with a repeated code; and the empty list. -/
theorem witness_ClockSetReplacesList :
    (demo.serves 0 ∧ demo.sil.load = .ready ∧ (0 : Feed) = demo.cle.supervisor) ∧
    ∀ codes ∈ ([[0, 1, 2, 5], [0, 1, 2, 6], [0, 1, 2, 0], []] : List (List Byte)), codes.length ≤ 4 :=
  ⟨test_demo_request, by decide⟩

/-- Eight windows at the bounds of R24; and a list whose second window is the first refused one. -/
theorem witness_MapWindowsPends :
    demo.serves 0 ∧ demo.sil.load = .ready ∧
    (List.length ([(0, 47, 255, 0), (0, 46, 4, 1), (0, 0, 48, 1), (1, 9, 64, 7), (2, 0, 1, 0), (0, 0, 1, 0), (0, 2, 2, 1),
      (2, 0, 64, 0)] : List (Byte × Byte × Byte × Byte)) ≤ 8) ∧
    ((checkWindow 0 47 255 0).isSome ∧ (checkWindow 0 46 4 1).isSome ∧ (checkWindow 0 0 48 1).isSome ∧
      (checkWindow 1 9 64 7).isSome ∧ (checkWindow 2 0 1 0).isSome ∧ (checkWindow 0 0 1 0).isSome) ∧
    (checkWindow 0 47 2 1 = none ∧ checkWindow 0 48 1 0 = none ∧ checkWindow 1 0 65 0 = none) :=
  ⟨test_demo_serves.1, rfl, by decide, by decide, by decide⟩

theorem witness_InterleavedWindowAlternates : 0 + 2 * 24 ≤ 48 ∧ 23 < 24 ∧ 46 + 2 * 1 ≤ 48 ∧ 47 + 1 ≤ 48 ∧ 0 < 1 := by decide

/-- A slot and an input of the supervising feed. -/
theorem witness_ReadsReportAndChangeNothing :
    (demo.serves 0 ∧ demo.sil.load = .ready ∧ (0 : Feed) = demo.cle.supervisor) ∧
    demo.translate 0 false (47 : Byte).toNat = .ok 47 ∧ demo.translate 0 true (47 : Byte).toNat = .ok 47 :=
  ⟨test_demo_request, by decide +kernel, by decide +kernel⟩

/-- A LIST of slots 5, 20 and 5 again. -/
def demoSet : ChannelSet := { inputForm := false, single := false, members := [5, 20, 5] }

theorem test_demo_set : (reach 1 demo).resolve 1 demoSet noCheck = .ok [5, 20] ∧ parseSet [2, 3, 5, 20, 5] = some (demoSet, []) := by
  decide +kernel

theorem witness_TapTrimMuteAndGlide :
    demo.serves 1 ∧ (reach 1 demo).sil.load = .ready ∧ demoSet.inputForm = false ∧
    (reach 1 demo).resolve 1 demoSet noCheck = .ok [5, 20] ∧
    (∀ kind ∈ [(0 : Byte), 1], parseSet [2, 3, 5, 20, 5, kind, 0x80, 0] = some (demoSet, [kind, 0x80, 0]) ∧ kind.toNat ≤ 1) ∧
    parseSet [2, 3, 5, 20, 5, 1] = some (demoSet, [1]) ∧ parseSet [2, 3, 5, 20, 5, 0] = some (demoSet, [0]) :=
  ⟨test_demo_serves.2.1, rfl, rfl, test_demo_set.1, by decide +kernel, by decide +kernel, by decide +kernel⟩

/-- Slots 5 (FOLLOW) and 20 (TRACK) for TAP_MODE; slot 20 alone for TAP_ANCHOR. -/
theorem witness_TapModeAndAnchorKeepLevels :
    demo.serves 1 ∧ (reach 1 demo).sil.load = .ready ∧ (reach 1 demo).tapsSound ∧
    (reach 1 demo).resolve 1 demoSet noCheck = .ok [5, 20] ∧ parseSet [2, 3, 5, 20, 5, 1] = some (demoSet, [1]) ∧
    parseSet [2, 3, 5, 20, 5, 0] = some (demoSet, [0]) ∧
    (reach 1 demo).resolve 1 { inputForm := false, single := true, members := [20] } noCheck = .ok [20] ∧
    parseSet [0, 20] = some ({ inputForm := false, single := true, members := [20] }, []) ∧
    ((reach 1 demo).tap 1 20).tracks = true ∧ ((reach 1 demo).tap 1 5).tracks = false :=
  ⟨test_demo_serves.2.1, rfl, test_demo_taps, test_demo_set.1, by decide +kernel, by decide +kernel, by decide +kernel,
    by decide +kernel, by decide +kernel, by decide +kernel⟩

theorem witness_StagingWritesOneBlock :
    (demo.serves 0 ∧ demo.sil.load = .ready ∧ (0 : Feed) = demo.cle.supervisor) ∧
    (List.replicate 36 (0xFF : Byte)).length = 36 ∧ (List.replicate 32 (0xFF : Byte)).length = 32 :=
  ⟨test_demo_request, by decide, by decide⟩

theorem test_demo_staged_request (r : Fin 48) (m : Mantissa) (k : Fin 64) (e : LawEntry) :
    (demoStaged r m k e).serves 0 ∧ (demoStaged r m k e).sil.load = .ready ∧
      (0 : Feed) = (demoStaged r m k e).cle.supervisor ∧ reach 0 (demoStaged r m k e) = demoStaged r m k e :=
  ⟨test_demo_serves.1, rfl, rfl, rfl⟩

/-- Marks missing; entry 7 too low; entry 7 below entry 6; entry 47 above twice entry 0; the built-in law itself. -/
theorem witness_LawApplyPendsStagedLaw :
    demo.tgu.marks[(0 : Fin 4)] = false ∧ (∀ b : Fin 4, (demoStaged 7 0 0 0).tgu.marks[b] = true) ∧
    ((demoStaged 7 4194303 0 0).tgu.staging[(7 : Fin 48)].toNat = 4194303 ∧
      (demoStaged 7 4194304 0 0).tgu.staging[(7 : Fin 48)].toNat = 4194304 ∧
      builtinGlt[(6 : Fin 48)].toNat = 9147842) ∧
    (∀ k : Fin 48, k < 7 → (demoStaged 7 0 0 0).tgu.staging[k] = builtinGlt[k]) ∧
    2 * (demoStaged 0 8200000 0 0).tgu.staging[(0 : Fin 48)].toNat <
      (demoStaged 0 8200000 0 0).tgu.staging[(47 : Fin 48)].toNat ∧
    (∀ r : Fin 48, (demoStaged 0 8388608 0 0).tgu.staging[r] = builtinGlt[r]) := by
  decide +kernel

/-- The law of the witness above whose entry 47 is above twice entry 0 passes the checks of single entries. -/
theorem test_demo_jump_law :
    ∀ r : Fin 48, 4194304 ≤ (demoStaged 0 8200000 0 0).tgu.staging[r].toNat ∧
      ∀ p : Fin 48, p.val + 1 = r.val →
        (demoStaged 0 8200000 0 0).tgu.staging[p].toNat ≤ (demoStaged 0 8200000 0 0).tgu.staging[r].toNat := by
  decide +kernel

/-- Marks missing; entry 7 above 511; entry 7 below entry 6; an accepted law with entry 32 raised from 256 to 260, which
moves no anchor out of its range. -/
theorem witness_PlawApplyKeepsLevels :
    demo.hac.marks[(0 : Fin 4)] = false ∧ (∀ b : Fin 4, (demoStaged 0 0 7 0).hac.marks[b] = true) ∧
    ((demoStaged 0 0 7 512).hac.staging[(7 : Fin 64)] = 512 ∧ (demoStaged 0 0 7 47).hac.staging[(7 : Fin 64)] = 47) ∧
    builtinPlt[(6 : Fin 64)].toNat = 48 ∧
    (∀ k : Fin 64, k < 7 → (demoStaged 0 0 7 0).hac.staging[k] = builtinPlt[k]) ∧
    (demoStaged 0 0 32 260).hac.staging[(32 : Fin 64)] = 260 ∧
    (∀ (f : Feed) (i : Input), (demo.tap f i).mode = .follow ∨ (demo.tap f i).mode = .track 256) ∧
    ((-2147483648 : Int) ≤ 256 + (260 - 256) ∧ (256 : Int) + (260 - 256) ≤ 2147483647) := by
  refine ⟨?_, ?_, ?_, ?_, ?_, ?_, ?_, ?_⟩ <;> decide +kernel

/-- The accepted preamp law of the witness above: entry 32 raised from 256 to 260. -/
theorem test_demo_staged_plaw_sound : plawSound (demoStaged 0 0 32 260).hac.staging := by
  unfold plawSound
  decide +kernel

theorem test_demo_staged_taps : (demoStaged 0 0 32 260).tapsSound :=
  @of_decide_eq_true _ (tapsDec _) (by decide +kernel)

/-- The demo part with all preamp marks set, entry 32 of the staging copy replaced, and the tap of F2 for input 20 at a limit,
its anchor `n` at an end of its range. -/
def demoFar (n target : Int) (e : LawEntry) : State :=
  { demoStaged 0 0 32 e with tgu :=
    (demoStaged 0 0 32 e).tgu.onTap 2 20 fun t => { t with mode := .track n, target := target, limit := true } }

/-- An anchor that leaves its range upward, and one that leaves it downward. -/
theorem witness_PlawApplyKeepsLevels_overflow :
    (∀ x ∈ [((2147483647 : Int), (192 : Int), (260 : LawEntry)), (-2147483648, -320, 250)],
      ((demoFar x.1 x.2.1 x.2.2).tap 2 20).mode = .track x.1 ∧
      ((demoFar x.1 x.2.1 x.2.2).hac.staging[(32 : Fin 64)] = x.2.2) ∧ (demoFar x.1 x.2.1 x.2.2).hac.plt[(32 : Fin 64)] = 256 ∧
      ((demoFar x.1 x.2.1 x.2.2).channel 20).live.code = 32 ∧ ((demoFar x.1 x.2.1 x.2.2).channel 20).gain = 256) ∧
    (demoFar 2147483647 192 260).gainsSound ∧ (demoFar (-2147483648) (-320) 250).gainsSound ∧
    (demoFar 2147483647 192 260).tapsSound ∧ (demoFar (-2147483648) (-320) 250).tapsSound ∧
    plawSound (demoFar (-2147483648) (-320) 250).hac.staging :=
  ⟨by decide +kernel, test_demo_gains, test_demo_gains, @of_decide_eq_true _ (tapsDec _) (by decide +kernel),
    @of_decide_eq_true _ (tapsDec _) (by decide +kernel), by unfold plawSound; decide +kernel⟩

theorem witness_HeadAmpRequestsChangeChannels :
    demo.serves 0 ∧ demo.sil.load = .ready ∧
    demo.resolve 0 demoSet (fun i => if (demo.channel i).owner = some 0 then none else some .notOwner) = .ok [5, 20] ∧
    parseSet [2, 3, 5, 20, 5, 7, 64, 1, 0] = some (demoSet, [7, 64, 1, 0]) ∧
    (∀ d ∈ [(0xC1 : Byte), 0x3F], -63 ≤ d.toInt ∧ d.toInt ≤ 63 ∧ parseSet [2, 3, 5, 20, 5, d] = some (demoSet, [d])) :=
  ⟨test_demo_serves.1, rfl, by decide +kernel, by decide +kernel, by decide +kernel⟩

/-- Input 30 belongs to F1, which is ONLINE; input 5 to F0. -/
theorem witness_OwnershipRequests :
    (demo.serves 0 ∧ demo.sil.load = .ready ∧ (0 : Feed) = demo.cle.supervisor) ∧
    parseSet [2, 3, 5, 20, 5] = some (demoSet, []) ∧
    demo.resolve 0 demoSet (fun i => if (demo.channel i).owner = some 0 then none else some .notOwner) = .ok [5, 20] ∧
    demo.resolve 0 demoSet (fun i => if (demo.channel i).owner = some 1 then some .owned else none) = .ok [5, 20] ∧
    parseSet [1, 22, 3] = some ({ inputForm := false, single := false, members := [22, 23, 24] }, []) ∧
    demo.resolve 0 { inputForm := false, single := false, members := [22, 23, 24] }
      (fun i => if (demo.channel i).owner = some 1 then some .owned else none) = .error (.owned, 2) ∧
    parseSet [2, 3, 5, 20, 5, 4] = some (demoSet, [4]) ∧ (4 : Byte).toNat ≤ 4 ∧
    demo.resolve 0 demoSet noCheck = .ok [5, 20] :=
  ⟨test_demo_request, by decide +kernel, by decide +kernel, by decide +kernel, by decide +kernel, by decide +kernel,
    by decide +kernel, by decide, by decide +kernel⟩

/-- A scene of 23 entries, which two more entries overflow and one more fills. -/
def demoFull : State :=
  { demo with scu := { demo.scu with
    opened := put demo.scu.opened 0
      (some ((List.range 23).map fun k => { input := Fin.ofNat 48 (k + 10), value := .mute true })) } }

theorem witness_SceneEditing :
    (demo.serves 0 ∧ demo.sil.load = .ready ∧ (0 : Feed) = demo.cle.supervisor) ∧ demo.openScene 0 = none ∧
    parseSet [2, 3, 5, 20, 5, 1] = some (demoSet, [1]) ∧ demo.resolve 0 demoSet noCheck = .ok [5, 20] ∧
    (demoFull.serves 0 ∧ demoFull.sil.load = .ready) ∧
    (demoFull.openScene 0).map (·.length) = some 23 ∧
    (demoFull.openScene 0).map (·.countP fun e => decide (e.input = 5 ∨ e.input = 20)) = some 1 ∧
    demoScene.openScene 0 = some demoEntries :=
  ⟨test_demo_request, by decide +kernel, by decide +kernel, by decide +kernel, ⟨test_demo_serves.1, rfl⟩,
    by decide +kernel, by decide +kernel, by decide +kernel⟩

theorem witness_SceneCommit :
    demoScene.serves 0 ∧ demoScene.sil.load = .ready ∧ demoScene.scu.nextId ≠ 0 ∧ demo.openScene 0 = none ∧
    (reach 0 demoScene).openScene 0 = some demoEntries ∧ demoEntries ≠ [] :=
  ⟨test_demo_serves.1, rfl, by decide, by decide +kernel, by decide +kernel, by decide⟩

theorem witness_SubscribeAndClipRequests :
    (demo.serves 0 ∧ demo.sil.load = .ready ∧ (0 : Feed) = demo.cle.supervisor) ∧
    parseSet [2, 3, 5, 20, 5] = some (demoSet, []) ∧ demo.resolve 0 demoSet noCheck = .ok [5, 20] ∧
    demo.resolve 0 demoSet (fun i =>
      if (demo.channel i).owner = some 0 ∨ (0 : Feed) = demo.cle.supervisor then none else some .notOwner) = .ok [5, 20] ∧
    parseSet [2, 3, 5, 20, 5, 2, 0xFF, 0xFF, 0xFF, 0, 0, 1] = some (demoSet, [2, 0xFF, 0xFF, 0xFF, 0, 0, 1]) ∧
    (2 : Byte).toNat ≤ 2 :=
  ⟨test_demo_request, by decide +kernel, by decide +kernel, by decide +kernel, by decide +kernel, by decide⟩

theorem witness_RequestsKeepToTheirFeed :
    (Instr.tapMute 0 1 [0, 20, 1]).request = some (0, 1, 0x13, [0, 20, 1]) ∧ demo.serves 0 ∧
    (0x13 : Byte) ≠ 0x1B ∧ (0x13 : Byte) ≠ 0x02 ∧ (0x13 : Byte) ≠ 0x26 ∧
    (demo.channel 30).owner = some 1 ∧ (1 : Feed) ≠ 0 ∧ demo.online 1 = true :=
  ⟨rfl, test_demo_serves.1, by decide, by decide, by decide, by decide +kernel, by decide, by decide +kernel⟩

theorem witness_LiveValuesChangeWhenDue :
    (Instr.effectiveEvent 20) ≠ .reset ∧
    exec (.effectiveEvent 20) demoInFlight = .next (after (.effectiveEvent 20) demoInFlight) ∧
    ((after (.effectiveEvent 20) demoInFlight).channel 20).live ≠ (demoInFlight.channel 20).live :=
  ⟨by decide, rfl, by decide +kernel⟩

theorem witness_DueEventsAreTaken :
    let s : State := { demo with stepped := false }
    s.stepped = false ∧ s.writesSound ∧ s.scenesSound ∧ s.metersSound ∧ s.clockSound :=
  ⟨rfl, test_demo_writes, test_demo_scenes, test_demo_meters, test_demo_clock⟩

/-- The demo part with a frame tick waiting: a step from a state that meets every kept condition. -/
def demoTick : State := { demo with pending := [.frameTick] }

theorem test_demo_tick_steps : step demoTick = .next (after .frameTick demo) := rfl

theorem witness_QueuesStayBounded :
    demoTick.queuesBounded ∧ step demoTick = .next (after .frameTick demo) := ⟨test_demo_queues, rfl⟩

theorem witness_TablesAndRecordsStaySound :
    step demoTick = .next (after .frameTick demo) ∧ demoTick.lawsSound ∧ demoTick.gainsSound ∧ demoTick.mapsSound ∧
      demoTick.metersSound := ⟨rfl, test_demo_laws, test_demo_gains, test_demo_maps, test_demo_meters⟩

theorem witness_TapsStaySound :
    demoTick.gainsSound ∧ demoTick.scenesSound ∧ demoTick.tapsSound ∧
      step demoTick = .next (after .frameTick demo) := ⟨test_demo_gains, test_demo_scenes, test_demo_taps, rfl⟩

theorem witness_WritesStaySound :
    demoTick.writesSound ∧ step demoTick = .next (after .frameTick demo) := ⟨test_demo_writes, rfl⟩

theorem witness_ScenesStaySound :
    demoTick.scenesSound ∧ step demoTick = .next (after .frameTick demo) := ⟨test_demo_scenes, rfl⟩

theorem witness_FeedsStaySound :
    demoTick.feedsSound ∧ step demoTick = .next (after .frameTick demo) := ⟨test_demo_feeds, rfl⟩

theorem witness_ClockStaysSound :
    demoTick.clockSound ∧ step demoTick = .next (after .frameTick demo) := ⟨test_demo_clock, rfl⟩

end Sys2Proof.Machine
end

section
/-! PROOFS. The sample clock (R8 to R16): the condition on the FTU alone, what each event of the FTU does to it, and the
statements on the list, the word clock and the timers. -/

namespace Sys2Proof.Machine

/-! ### The condition on the FTU -/

/-- The list holds one to four distinct sources (R9). -/
def listFits (sources : List ClockSource) : Prop := 1 ≤ sources.length ∧ sources.length ≤ 4 ∧ sources.Nodup

/-- The clock state, the timers and the list agree (R10 to R13), `a` being the availability of the sources and `booting` that
the power-on load runs. -/
def Ftu.agrees (a : ClockSource → Bool) (booting : Prop) (u : Ftu) : Prop :=
  (booting → u.clock = .free) ∧
  match u.clock with
  | .locked c =>
    c ∈ u.sources ∧ a c = true ∧ u.holdoverTimer = none ∧ u.revertTimer.map (·.1) = u.candidate a c
  | .holdover => u.holdoverTimer.isSome = true ∧ u.revertTimer = none ∧ ∀ c ∈ u.sources, a c = false
  | .free => u.holdoverTimer = none ∧ u.revertTimer = none ∧ (¬ booting → ∀ c ∈ u.sources, a c = false)

theorem clockSound_iff (s : State) :
    s.clockSound ↔ listFits s.ftu.sources ∧ s.ftu.agrees s.available (s.sil.load = .loading .powerOn) := by
  unfold State.clockSound listFits Ftu.agrees
  simp only [and_assoc] <;> rfl

/-! ### The highest source of a list -/

/-- Above the highest available source of the part of a list that lies above `c`, none is available. -/
theorem find?_takeWhile_above {a : ClockSource → Bool} {c d : ClockSource} {l : List ClockSource}
    (h : (l.takeWhile fun x => decide (x ≠ c)).find? a = some d) :
    (l.takeWhile fun x => decide (x ≠ d)).find? a = none := by
  induction l with
  | nil => rfl
  | cons x l ih =>
    by_cases xc : x = c
    · simp [xc] at h
    · by_cases xd : x = d
      · simp [xd]
      · cases ax : a x with
        | true => simp [xc, ax, xd] at h
        | false =>
          have below : (l.takeWhile fun y => decide (y ≠ c)).find? a = some d := by simpa [xc, ax] using h
          simpa [xd, ax] using ih below

/-- Above the highest available source of a list, none is available. -/
theorem find?_takeWhile_best {a : ClockSource → Bool} {d : ClockSource} {l : List ClockSource}
    (h : l.find? a = some d) : (l.takeWhile fun x => decide (x ≠ d)).find? a = none := by
  induction l with
  | nil => rfl
  | cons x l ih =>
    by_cases xd : x = d
    · simp [xd]
    · cases ax : a x with
      | true => simp [ax, xd] at h
      | false =>
        have below : l.find? a = some d := by simpa [ax] using h
        simpa [xd, ax] using ih below

/-- A revert candidate is listed and available, and none is above it (R11). -/
theorem candidate_spec {a : ClockSource → Bool} {c d : ClockSource} {u : Ftu} (h : u.candidate a c = some d) :
    d ∈ u.sources ∧ a d = true ∧ u.candidate a d = none :=
  ⟨(List.takeWhile_sublist _).subset (List.mem_of_find?_eq_some h), List.find?_some h, find?_takeWhile_above h⟩

/-- The highest listed available source is listed and available, and none is above it (R10). -/
theorem best_spec {a : ClockSource → Bool} {d : ClockSource} {u : Ftu} (h : u.best a = some d) :
    d ∈ u.sources ∧ a d = true ∧ u.candidate a d = none :=
  ⟨List.mem_of_find?_eq_some h, List.find?_some h, find?_takeWhile_best h⟩

theorem best_eq_none {a : ClockSource → Bool} {u : Ftu} (h : u.best a = none) : ∀ c ∈ u.sources, a c = false := by
  simpa [Ftu.best] using h

/-! ### What each event of the FTU leaves -/

section
variable {a : ClockSource → Bool} {booting : Prop} {u : Ftu}

/-- LOCKED to a listed available source above which none is available, with both timers stopped. -/
theorem agrees_of_top {d : ClockSource} (awake : ¬ booting) (clock : u.clock = .locked d) (listed : d ∈ u.sources)
    (up : a d = true) (top : u.candidate a d = none) (holdover : u.holdoverTimer = none)
    (revert : u.revertTimer = none) : u.agrees a booting := by
  refine ⟨fun b => absurd b awake, ?_⟩
  rw [clock]
  exact ⟨listed, up, holdover, by rw [revert, top]; rfl⟩

/-- The revert rule in LOCKED (R11). -/
theorem applyRevert_of_locked {c : ClockSource} (clock : u.clock = .locked c) :
    u.applyRevert a =
      match u.candidate a c with
      | none => { u with revertTimer := none }
      | some d =>
        if u.revertTimer.map (·.1) = some d then u
        else if u.revertDelay = 0 then { u with clock := .locked d, revertTimer := none }
        else { u with revertTimer := some (d, unitsAfter u.frame u.revertDelay.toNat) } := by
  unfold Ftu.applyRevert
  rw [clock] <;> rfl

/-- The revert rule, in LOCKED to a listed available source (R11). -/
theorem applyRevert_agrees {c : ClockSource} (awake : ¬ booting) (clock : u.clock = .locked c) (listed : c ∈ u.sources)
    (up : a c = true) (holdover : u.holdoverTimer = none) : (u.applyRevert a).agrees a booting := by
  rw [applyRevert_of_locked clock]
  cases cand : u.candidate a c with
  | none => exact agrees_of_top awake clock listed up cand holdover rfl
  | some d =>
    dsimp only
    obtain ⟨dl, du, top⟩ := candidate_spec cand
    have locked (t : Option (ClockSource × FrameNo)) (ht : t.map (·.1) = some d) :
        Ftu.agrees a booting { u with revertTimer := t } := by
      refine ⟨fun b => absurd b awake, ?_⟩
      dsimp only
      rw [clock]
      exact ⟨listed, up, holdover, ht.trans cand.symm⟩
    split
    · next run => exact locked u.revertTimer run
    · split
      · exact agrees_of_top awake rfl dl du top holdover rfl
      · exact locked (some (d, unitsAfter u.frame u.revertDelay.toNat)) rfl

/-- LOCKED without its source (R10, R13). -/
theorem leaveLock_agrees (awake : ¬ booting) (holdover : u.holdoverTimer = none) :
    (u.leaveLock a).agrees a booting := by
  unfold Ftu.leaveLock
  cases best : u.best a with
  | some d =>
    obtain ⟨dl, du, top⟩ := best_spec best
    exact agrees_of_top awake rfl dl du top holdover rfl
  | none =>
    have dead := best_eq_none best
    dsimp only
    split
    · exact ⟨fun _ => rfl, holdover, rfl, fun _ => dead⟩
    · exact ⟨fun b => absurd b awake, rfl, rfl, dead⟩

/-- The timers that `agrees` allows outside LOCKED, for an event that locks to `d`. -/
theorem agrees_of_unlocked {d : ClockSource} (awake : ¬ booting) (revert : u.revertTimer = none)
    (listed : d ∈ u.sources) (up : a d = true) (top : u.candidate a d = none) :
    Ftu.agrees a booting { u with clock := .locked d, holdoverTimer := none } :=
  agrees_of_top awake rfl listed up top rfl revert

/-- The timers of a clock that agrees with some list and some availability. -/
def Ftu.timersFit (u : Ftu) : Prop :=
  match u.clock with
  | .locked _ => u.holdoverTimer = none
  | .holdover => u.holdoverTimer.isSome = true ∧ u.revertTimer = none
  | .free => u.holdoverTimer = none ∧ u.revertTimer = none

theorem agrees_timersFit (h : u.agrees a booting) : u.timersFit := by
  unfold Ftu.timersFit
  obtain ⟨-, h⟩ := h
  cases clock : u.clock <;> rw [clock] at h
  · exact h.2.2.1
  · exact ⟨h.1, h.2.1⟩
  · exact ⟨h.1, h.2.1⟩

/-- The evaluation of the list, whatever the list and the availability were before (R13). -/
theorem evaluate_agrees (awake : ¬ booting) (h : u.timersFit) : (u.evaluate a).agrees a booting := by
  unfold Ftu.timersFit at h
  unfold Ftu.evaluate
  cases clock : u.clock with
  | locked c =>
    rw [clock] at h
    dsimp only
    split
    · next stays => exact applyRevert_agrees awake clock stays.1 stays.2 h
    · exact leaveLock_agrees awake h
  | holdover =>
    rw [clock] at h
    obtain ⟨runs, revert⟩ := h
    dsimp only
    cases best : u.best a with
    | some d =>
      obtain ⟨dl, du, top⟩ := best_spec best
      exact agrees_of_unlocked awake revert dl du top
    | none =>
      refine ⟨fun b => absurd b awake, ?_⟩
      rw [clock]
      exact ⟨runs, revert, best_eq_none best⟩
  | free =>
    rw [clock] at h
    obtain ⟨stopped, revert⟩ := h
    dsimp only
    cases best : u.best a with
    | some d =>
      obtain ⟨dl, du, top⟩ := best_spec best
      exact agrees_of_unlocked awake revert dl du top
    | none =>
      refine ⟨fun b => absurd b awake, ?_⟩
      rw [clock]
      exact ⟨stopped, revert, fun _ => best_eq_none best⟩

/-- Source `x` comes: it alone is newly available (R11, R12). -/
theorem sourceCame_agrees {b : ClockSource → Bool} {x : ClockSource} (awake : ¬ booting) (h : u.agrees b booting)
    (came : ∀ y, a y = true ↔ b y = true ∨ y = x) : (u.sourceCame a x).agrees a booting := by
  have others (dead : ∀ c ∈ u.sources, b c = false) : u.candidate a x = none := by
    unfold Ftu.candidate
    rw [List.find?_eq_none]
    intro y hy up
    have listed := (List.takeWhile_sublist _).subset hy
    have ne : y ≠ x := by simpa using List.mem_takeWhile_imp hy
    rcases (came y).1 up with bu | e
    · exact absurd bu (by simp [dead y listed])
    · exact ne e
  have up : a x = true := (came x).2 (.inr rfl)
  have fit := agrees_timersFit h
  unfold Ftu.timersFit at fit
  obtain ⟨boot, h⟩ := h
  unfold Ftu.sourceCame
  cases clock : u.clock with
  | locked c =>
    rw [clock] at h
    obtain ⟨listed, bc, holdover, -⟩ := h
    exact applyRevert_agrees awake clock listed ((came c).2 (.inl bc)) holdover
  | holdover =>
    rw [clock] at h
    obtain ⟨runs, revert, dead⟩ := h
    dsimp only
    split
    · next listed => exact agrees_of_unlocked awake revert listed up (others dead)
    · next absent =>
      refine ⟨fun b => absurd b awake, ?_⟩
      rw [clock]
      refine ⟨runs, revert, fun c hc => ?_⟩
      rw [Bool.eq_false_iff]
      intro ac
      rcases (came c).1 ac with bu | e
      · exact absurd bu (by simp [dead c hc])
      · exact absent (e ▸ hc)
  | free =>
    rw [clock] at h
    obtain ⟨stopped, revert, dead⟩ := h
    dsimp only
    split
    · next listed => exact agrees_of_unlocked awake revert listed up (others (dead awake))
    · next absent =>
      refine ⟨fun b => absurd b awake, ?_⟩
      rw [clock]
      refine ⟨stopped, revert, fun _ c hc => ?_⟩
      rw [Bool.eq_false_iff]
      intro ac
      rcases (came c).1 ac with bu | e
      · exact absurd bu (by simp [dead awake c hc])
      · exact absent (e ▸ hc)

/-- Source `x` goes: it alone is no longer available (R10, R11). -/
theorem sourceGone_agrees {b : ClockSource → Bool} {x : ClockSource} (awake : ¬ booting) (h : u.agrees b booting)
    (gone : ∀ y, a y = true ↔ b y = true ∧ y ≠ x) : (u.sourceGone a x).agrees a booting := by
  have stillDead (dead : ∀ c ∈ u.sources, b c = false) : ∀ c ∈ u.sources, a c = false := by
    intro c hc
    rw [Bool.eq_false_iff]
    intro ac
    exact absurd ((gone c).1 ac).1 (by simp [dead c hc])
  obtain ⟨boot, h⟩ := h
  unfold Ftu.sourceGone
  cases clock : u.clock with
  | locked c =>
    rw [clock] at h
    obtain ⟨listed, bc, holdover, -⟩ := h
    dsimp only
    split
    · exact leaveLock_agrees awake holdover
    · next ne => exact applyRevert_agrees awake clock listed ((gone c).2 ⟨bc, ne⟩) holdover
  | holdover =>
    rw [clock] at h
    obtain ⟨runs, revert, dead⟩ := h
    refine ⟨fun b => absurd b awake, ?_⟩
    rw [clock]
    exact ⟨runs, revert, stillDead dead⟩
  | free =>
    rw [clock] at h
    obtain ⟨stopped, revert, dead⟩ := h
    refine ⟨fun b => absurd b awake, ?_⟩
    rw [clock]
    exact ⟨stopped, revert, fun _ => stillDead (dead awake)⟩

/-- The expiry of the revert timer: its candidate is the highest listed available source above the present one (R11). -/
theorem revertExpiry_agrees (h : u.agrees a booting) : u.revertExpiry.agrees a booting := by
  unfold Ftu.revertExpiry
  split
  · next c d x clock timer =>
    split
    · obtain ⟨boot, fit⟩ := h
      rw [clock] at fit boot
      obtain ⟨-, -, holdover, cand⟩ := fit
      rw [timer] at cand
      obtain ⟨dl, du, top⟩ := candidate_spec cand.symm
      exact agrees_of_top (fun b => nomatch boot b) rfl dl du top holdover rfl
    · exact h
  · exact h

/-- The expiry of the holdover timer (R12). -/
theorem holdoverExpiry_agrees (h : u.agrees a booting) : u.holdoverExpiry.agrees a booting := by
  unfold Ftu.holdoverExpiry
  split
  · next x clock timer =>
    split
    · obtain ⟨boot, fit⟩ := h
      rw [clock] at fit
      obtain ⟨-, revert, dead⟩ := fit
      exact ⟨fun _ => rfl, rfl, revert, fun _ => dead⟩
    · exact h
  · exact h

end

/-! ### What no event of the FTU changes -/

/-- Everything but the clock state and the timers: what an event of the FTU leaves alone. -/
def Ftu.sameBut (u v : Ftu) : Prop :=
  v = { u with clock := v.clock, revertTimer := v.revertTimer, holdoverTimer := v.holdoverTimer }

section
variable (a : ClockSource → Bool) (x : ClockSource) (u : Ftu)

theorem applyRevert_sameBut : u.sameBut (u.applyRevert a) := by
  unfold Ftu.applyRevert
  repeat' split
  all_goals rfl

theorem leaveLock_sameBut : u.sameBut (u.leaveLock a) := by
  unfold Ftu.leaveLock
  repeat' split
  all_goals rfl

theorem sourceCame_sameBut : u.sameBut (u.sourceCame a x) := by
  unfold Ftu.sourceCame
  repeat' split
  · exact applyRevert_sameBut a u
  all_goals rfl

theorem sourceGone_sameBut : u.sameBut (u.sourceGone a x) := by
  unfold Ftu.sourceGone
  repeat' split
  · exact leaveLock_sameBut a u
  · exact applyRevert_sameBut a u
  · rfl

theorem evaluate_sameBut : u.sameBut (u.evaluate a) := by
  unfold Ftu.evaluate
  repeat' split
  · exact applyRevert_sameBut a u
  · exact leaveLock_sameBut a u
  all_goals rfl

theorem revertExpiry_sameBut : u.sameBut u.revertExpiry := by
  unfold Ftu.revertExpiry
  repeat' split
  all_goals rfl

theorem holdoverExpiry_sameBut : u.sameBut u.holdoverExpiry := by
  unfold Ftu.holdoverExpiry
  repeat' split
  all_goals rfl

end

/-- Settles O15. -/
theorem clockListEvaluation : Obligations.ClockListEvaluation := by
  intro u a
  refine ⟨fun c clock => ?_, ?_, ?_⟩
  · exact applyRevert_of_locked clock
  · rfl
  · unfold Ftu.evaluate
    cases clock : u.clock <;> rfl

end Sys2Proof.Machine
end

section
/-! PROOFS. The clock in the state of the part: which changes leave the clock condition alone, and what the events of the word
clock and of the timers do (R8 to R16). -/

namespace Sys2Proof.Machine

/-- Availability rests on the word clock and on the feed records alone (R8). -/
theorem available_congr {s t : State} (wordclock : t.ftu.wordclock = s.ftu.wordclock)
    (online : ∀ f, t.online f = s.online f) : t.available = s.available := by
  funext c
  cases c with
  | internal => rfl
  | wordclock => exact wordclock
  | feed k => exact online k

/-- The clock condition rests on the list, the clock state, the timers, the available sources and the power-on load. -/
theorem clockSound_of_same {s t : State} (h : s.clockSound)
    (ftu : t.ftu = { s.ftu with frame := t.ftu.frame, rate := t.ftu.rate }) (online : ∀ f, t.online f = s.online f)
    (load : t.sil.load = .loading .powerOn ↔ s.sil.load = .loading .powerOn) : t.clockSound := by
  rw [clockSound_iff] at h ⊢
  have e : t.available = s.available := available_congr (by rw [ftu]) online
  rw [ftu, e, propext load]
  exact h

theorem quiet_clockSound {s t : State} (q : s.quiet t) (h : s.clockSound) : t.clockSound := by
  obtain ⟨ftu, -, sil, -, -, -, -, -, online, -⟩ := q
  exact clockSound_of_same h (by rw [ftu]) online (by rw [sil])

/-! ### Events of the FTU -/

theorem clockEvent_told (g : Ftu → Ftu) (s : State) :
    clockEvent g s =
      told (toFeeds (fun _ => decide ((g s.ftu).clock ≠ s.ftu.clock)) (.clock (g s.ftu).clock s.ftu.frame))
        { s with ftu := g s.ftu } :=
  notifyWhere_told _ _ _

/-- A notice of no change is none. -/
theorem toFeeds_false (nt : Notice) : toFeeds (fun _ => false) nt = fun _ => [] := rfl

theorem clockEvent_id (g : Ftu → Ftu) (s : State) (h : g s.ftu = s.ftu) : clockEvent g s = s := by
  rw [clockEvent_told, h]
  simp only [ne_eq, not_true_eq_false, decide_false, toFeeds_false, told_nothing]

/-- An event of the FTU that gives it a sound list and an agreeing clock state. -/
theorem clockEvent_clockSound (g : Ftu → Ftu) (s : State) (list : listFits (g s.ftu).sources)
    (wordclock : (g s.ftu).wordclock = s.ftu.wordclock)
    (h : (g s.ftu).agrees s.available (s.sil.load = .loading .powerOn)) : (clockEvent g s).clockSound := by
  refine quiet_clockSound (s := { s with ftu := g s.ftu }) (notifyWhere_quiet _ _ _) ?_
  rw [clockSound_iff]
  refine ⟨list, ?_⟩
  have e : State.available { s with ftu := g s.ftu } = s.available := available_congr wordclock fun _ => rfl
  rw [e]
  exact h

/-- An event that keeps the list. -/
theorem clockEvent_keeps (g : Ftu → Ftu) (s : State) (list : listFits s.ftu.sources) (same : s.ftu.sameBut (g s.ftu))
    (h : (g s.ftu).agrees s.available (s.sil.load = .loading .powerOn)) : (clockEvent g s).clockSound :=
  clockEvent_clockSound g s (by rw [same]; exact list) (by rw [same]) h

theorem revertTimer_clockSound {s : State} (h : s.clockSound) : (revertTimer s).clockSound := by
  obtain ⟨list, h⟩ := (clockSound_iff s).1 h
  exact clockEvent_keeps _ s list (revertExpiry_sameBut _) (revertExpiry_agrees h)

theorem holdoverTimer_clockSound {s : State} (h : s.clockSound) : (holdoverTimer s).clockSound := by
  obtain ⟨list, h⟩ := (clockSound_iff s).1 h
  exact clockEvent_keeps _ s list (holdoverExpiry_sameBut _) (holdoverExpiry_agrees h)

theorem clockListens_iff (s : State) : s.clockListens = true ↔ ¬ s.sil.load = .loading .powerOn := by
  simp [State.clockListens]

/-- While the power-on load runs, the FTU agrees with any availability (R16). -/
theorem agrees_of_booting {a b : ClockSource → Bool} {booting : Prop} {u : Ftu} (h : u.agrees a booting)
    (running : booting) : u.agrees b booting := by
  obtain ⟨boot, h⟩ := h
  refine ⟨boot, ?_⟩
  rw [boot running] at h ⊢
  obtain ⟨holdover, revert, -⟩ := h
  exact ⟨holdover, revert, fun n => absurd running n⟩

/-- The word clock's presence enters the condition by availability alone. -/
theorem agrees_wordclock {a : ClockSource → Bool} {booting : Prop} {u : Ftu} (w : Bool) (h : u.agrees a booting) :
    Ftu.agrees a booting { u with wordclock := w } := h

/-- Source `x` is reported to have come (R11, R12): `u` is `s` with `x` available too. -/
theorem reportCame_clockSound {s u : State} {x : ClockSource} (h : s.clockSound)
    (ftu : u.ftu = { s.ftu with wordclock := u.ftu.wordclock }) (load : u.sil.load = s.sil.load)
    (came : ∀ y, u.available y = true ↔ s.available y = true ∨ y = x) : (reportCame x u).clockSound := by
  obtain ⟨list, h⟩ := (clockSound_iff s).1 h
  have old : u.ftu.agrees s.available (u.sil.load = .loading .powerOn) := by
    rw [ftu, load]
    exact agrees_wordclock _ h
  have listed : listFits u.ftu.sources := by
    rw [ftu]
    exact list
  unfold reportCame
  by_cases awake : u.clockListens = true
  · simp only [awake, if_true]
    exact clockEvent_keeps _ u listed (sourceCame_sameBut _ _ _)
      (sourceCame_agrees ((clockListens_iff u).1 awake) old came)
  · simp only [awake, Bool.false_eq_true, if_false]
    exact clockEvent_keeps _ u listed rfl
      (agrees_of_booting old (not_not.1 (mt (clockListens_iff u).2 awake)))

/-- Source `x` is reported to have gone (R10, R11): `u` is `s` without `x` available. -/
theorem reportGone_clockSound {s u : State} {x : ClockSource} (h : s.clockSound)
    (ftu : u.ftu = { s.ftu with wordclock := u.ftu.wordclock }) (load : u.sil.load = s.sil.load)
    (gone : ∀ y, u.available y = true ↔ s.available y = true ∧ y ≠ x) : (reportGone x u).clockSound := by
  obtain ⟨list, h⟩ := (clockSound_iff s).1 h
  have old : u.ftu.agrees s.available (u.sil.load = .loading .powerOn) := by
    rw [ftu, load]
    exact agrees_wordclock _ h
  have listed : listFits u.ftu.sources := by
    rw [ftu]
    exact list
  unfold reportGone
  by_cases awake : u.clockListens = true
  · simp only [awake, if_true]
    exact clockEvent_keeps _ u listed (sourceGone_sameBut _ _ _)
      (sourceGone_agrees ((clockListens_iff u).1 awake) old gone)
  · simp only [awake, Bool.false_eq_true, if_false]
    exact clockEvent_keeps _ u listed rfl
      (agrees_of_booting old (not_not.1 (mt (clockListens_iff u).2 awake)))

/-! ### The word clock -/

theorem available_withWordclock (s : State) (on : Bool) (c : ClockSource) :
    State.available { s with ftu := { s.ftu with wordclock := on } } c =
      if c = .wordclock then on else s.available c := by
  cases c <;> rfl

theorem wordclockPresent_clockSound {s : State} (h : s.clockSound) : (wordclockPresent s).clockSound := by
  unfold wordclockPresent
  split
  · exact h
  · next absent =>
    refine reportCame_clockSound h rfl rfl fun y => ?_
    rw [available_withWordclock]
    by_cases e : y = .wordclock <;> simp [e]

theorem wordclockAbsent_clockSound {s : State} (h : s.clockSound) : (wordclockAbsent s).clockSound := by
  unfold wordclockAbsent
  split
  · refine reportGone_clockSound h rfl rfl fun y => ?_
    rw [available_withWordclock]
    by_cases e : y = .wordclock <;> simp [e]
  · exact h

/-- An event of the word clock, as an event of the FTU of `s` (R8, R16). -/
theorem clockEvent_wordclock (g : Ftu → Ftu) (s : State) (on : Bool) :
    clockEvent g { s with ftu := { s.ftu with wordclock := on } } =
      clockEvent (fun u => g { u with wordclock := on }) s := by
  rw [clockEvent_told, clockEvent_told]

/-- A lock on the word clock is left when it goes, any other takes the revert rule, and outside LOCKED nothing changes. -/
theorem sourceGone_wordclock (a : ClockSource → Bool) (u : Ftu) :
    u.sourceGone a .wordclock =
      match u.clock with
      | .locked .wordclock => u.leaveLock a
      | .locked _ => u.applyRevert a
      | _ => u := by
  unfold Ftu.sourceGone
  split
  · next c clock => cases c <;> simp [clock]
  · next unlocked =>
    split
    · next c => exact absurd c (unlocked _)
    · next c => exact absurd c (unlocked _)
    · rfl

/-- Settles O16. -/
theorem clockEventsChangeSource : Obligations.ClockEventsChangeSource := by
  intro s after present absent avail
  have seen (on : Bool) : State.available { s with ftu := { s.ftu with wordclock := on } } = avail on :=
    funext fun c => available_withWordclock s on c
  have event (g : Ftu → Ftu) (u : Ftu) (h : g s.ftu = u) : clockEvent g s = after u := by
    rw [clockEvent_told, h]
  refine ⟨?_, ?_, ?_, ?_⟩
  · show Host.Outcome.next (wordclockPresent s) = _
    unfold wordclockPresent
    split
    · rfl
    · rw [reportCame, clockEvent_wordclock, seen]
      refine congrArg Host.Outcome.next (event _ _ ?_)
      by_cases boot : s.sil.load = .loading .powerOn
      · simp [State.clockListens, boot, present]
      · simp only [State.clockListens, ne_eq, boot, not_false_eq_true, decide_true, if_true, if_false]
        rfl
  · show Host.Outcome.next (wordclockAbsent s) = _
    unfold wordclockAbsent
    split
    · rw [reportGone, clockEvent_wordclock, seen]
      refine congrArg Host.Outcome.next (event _ _ ?_)
      by_cases boot : s.sil.load = .loading .powerOn
      · simp [State.clockListens, boot, absent]
      · simp only [State.clockListens, ne_eq, boot, not_false_eq_true, decide_true, if_true, if_false]
        exact sourceGone_wordclock _ _
    · rfl
  · refine congrArg Host.Outcome.next (event Ftu.revertExpiry _ ?_)
    unfold Ftu.revertExpiry
    simp only [due_iff] <;> rfl
  · refine congrArg Host.Outcome.next (event Ftu.holdoverExpiry _ ?_)
    unfold Ftu.holdoverExpiry
    simp only [due_iff] <;> rfl

end Sys2Proof.Machine
end

section
/-! PROOFS. Converter frames (R4, R5, R7). -/

namespace Sys2Proof.Machine

/-- What arrived is a good converter frame: eight words with the channel indices 0 to 7 in order (R4). -/
def goodConverter : Option (List (Nat × Sample)) → Bool
  | some words => decide (words.map (·.1) = [0, 1, 2, 3, 4, 5, 6, 7])
  | none => false

theorem judgeConverter_eq (received : Option (List (Nat × Sample))) :
    judgeConverter received = if goodConverter received then some ((received.getD []).map (·.2)) else none := by
  have order : List.range 8 = [0, 1, 2, 3, 4, 5, 6, 7] := rfl
  cases received with
  | none => rfl
  | some words => simp [judgeConverter, goodConverter, order]

/-- A converter port after an outcome (R5). -/
theorem converterPort_step (good : Bool) (p : ConverterPort) :
    p.step good =
      if good then
        if p.state = .running then { p with judged := true }
        else if 4 ≤ p.goodRun + 1 then { state := .running, goodRun := 0, judged := true }
        else { state := .fault, goodRun := p.goodRun + 1, judged := true }
      else { state := .fault, goodRun := 0, judged := true } := by
  obtain ⟨state, run, judged⟩ := p
  cases state <;> cases good <;> rfl

theorem carriesAny_iff (s : State) (f : Feed) (g : Group) :
    s.carriesAny f g = true ↔ ∃ j : Fin 8, s.carries f (inputAt g j) = true := by
  simp [State.carriesAny]

/-- The samples after an outcome: those of a good frame at the port's inputs, and 0 there otherwise (R4). -/
theorem setSamples_eq (g : Group) (received : Option (List (Nat × Sample))) (v : Vector Sample 48) :
    Cvp.setSamples g ((judgeConverter received).getD []) v = tab fun i =>
      if groupOf i = g then
        if goodConverter received then (((received.getD []).map (·.2)).getD (placeOf i).val 0) else 0
      else v[i] := by
  rw [judgeConverter_eq, Cvp.setSamples, mapAll_eq_tab]
  cases goodConverter received <;> rfl

/-- Settles O11. -/
theorem converterFrameDrivesPort : Obligations.ConverterFrameDrivesPort := by
  intro s g received good old new
  have good_eq : goodConverter received = good := by cases received <;> rfl
  have isSome : (judgeConverter received).isSome = good := by
    rw [judgeConverter_eq, good_eq]
    cases good <;> rfl
  have step : old.step (judgeConverter received).isSome = new := by rw [isSome, converterPort_step]
  have addressed (f : Feed) : (decide (new.state ≠ old.state) && s.carriesAny f g) =
      decide (new.state ≠ old.state ∧ ∃ j : Fin 8, s.carries f (inputAt g j) = true) := by
    rw [Bool.eq_iff_iff, Bool.and_eq_true, decide_eq_true_iff, decide_eq_true_iff, carriesAny_iff]
  show Host.Outcome.next (converterOutcome g (judgeConverter received) s) = _
  unfold converterOutcome
  dsimp only
  rw [notifyWhere_told, setSamples_eq, put_eq_tab, good_eq]
  simp only [show s.cvp.ports[g] = old from rfl, step, addressed]

end Sys2Proof.Machine
end

section
/-! PROOFS. Clock source codes and CLOCK_SET (R9, R14). -/

namespace Sys2Proof.Machine

/-! ### Clock source codes -/

/-- The source that a code of at most 5 names (R14). -/
def codedSource (c : Byte) : ClockSource :=
  if c = 0 then .internal else if c = 1 then .wordclock else .feed (Fin.ofNat 4 (c.toNat - 2))

theorem ofCode_eq (c : Byte) :
    ClockSource.ofCode c.toNat = if 5 < c.toNat then none else some (codedSource c) := by
  split
  · next h =>
    unfold ClockSource.ofCode
    split <;> first | omega | rfl
  · next h =>
    have e : c = BitVec.ofNat 8 c.toNat := by simp
    generalize c.toNat = k at e h
    subst e
    interval_cases k <;> rfl

theorem mapM_ofCode (codes : List Byte) :
    (codes.map (·.toNat)).mapM ClockSource.ofCode =
      if ∃ c ∈ codes, 5 < c.toNat then none else some (codes.map codedSource) := by
  induction codes with
  | nil => rfl
  | cons c codes ih =>
    rw [List.map_cons, List.mapM_cons, ofCode_eq, ih]
    by_cases hc : 5 < c.toNat
    · simp [hc]
    · by_cases hr : ∃ d ∈ codes, 5 < d.toNat
      · simp [hr]
      · simp [hc, hr]

/-- The list that codes name (R14). -/
theorem sourcesOf_codes (codes : List Byte) :
    sourcesOf (codes.map (·.toNat)) =
      if codes = [] ∨ (∃ c ∈ codes, 5 < c.toNat) ∨ ¬ codes.Nodup then none else some (codes.map codedSource) := by
  have nodup : (codes.map (·.toNat)).Nodup ↔ codes.Nodup :=
    List.nodup_map_iff fun a b h => BitVec.eq_of_toNat_eq h
  unfold sourcesOf
  simp only [nodup, List.map_eq_nil_iff, mapM_ofCode]
  by_cases listed : codes = [] ∨ ¬ codes.Nodup
  · rw [if_pos listed, if_pos (by tauto)]
  · rw [if_neg listed]
    by_cases large : ∃ c ∈ codes, 5 < c.toNat
    · rw [if_pos large, if_pos (.inr (.inl large))]
    · rw [if_neg large, if_neg]
      rintro (h | h | h)
      · exact listed (.inl h)
      · exact large h
      · exact listed (.inr h)

/-- Distinct codes of at most 5 name distinct sources. -/
theorem codedSource_injOn (c d : Byte) (hc : c.toNat ≤ 5) (hd : d.toNat ≤ 5) (h : codedSource c = codedSource d) :
    c = d := by
  have ec : c = BitVec.ofNat 8 c.toNat := by simp
  have ed : d = BitVec.ofNat 8 d.toNat := by simp
  generalize c.toNat = j at ec hc
  generalize d.toNat = k at ed hd
  subst ec
  subst ed
  revert h
  interval_cases j <;> interval_cases k <;> decide

/-- A list of codes that R14 takes is a sound list (R9). -/
theorem sourcesOf_listFits (codes : List Byte) (short : codes.length ≤ 4) (x : List ClockSource)
    (h : sourcesOf (codes.map (·.toNat)) = some x) : listFits x := by
  rw [sourcesOf_codes] at h
  split at h
  · cases h
  · next ok =>
    simp only [not_or, not_exists, not_and, not_lt, not_not] at ok
    obtain ⟨nonempty, small, nodup⟩ := ok
    cases h
    refine ⟨?_, by simpa using short, ?_⟩
    · rw [List.length_map]
      exact List.length_pos_iff.2 nonempty
    · exact nodup.map_on fun c hc d hd e => codedSource_injOn c d (small c hc) (small d hd) e

/-! ### The parameters of CLOCK_SET -/

/-- The optional timer lengths as bytes (R14). -/
def lengthBytes : Option (Byte × Byte × Byte) → List Byte
  | some (revert, hi, lo) => [revert, hi, lo]
  | none => []

theorem parseClockSet_eq (codes : List Byte) (lengths : Option (Byte × Byte × Byte)) (short : codes.length ≤ 4) :
    parseClockSet (BitVec.ofNat 8 codes.length :: codes ++ lengthBytes lengths) =
      some { codes := codes.map (·.toNat), lengths := lengths.map fun l => (l.1, l.2.1 ++ l.2.2) } := by
  have count : (BitVec.ofNat 8 codes.length).toNat = codes.length := by
    rw [BitVec.toNat_ofNat]
    omega
  have few : ¬ 4 < codes.length := by omega
  cases lengths with
  | none => simp [parseClockSet, lengthBytes, count, few]
  | some l => simp [parseClockSet, lengthBytes, count, few]

/-- What a parse of CLOCK_SET gives: the bytes of at most four codes. -/
theorem parseClockSet_codes {ps : List Byte} {p : ClockSetParams} (h : parseClockSet ps = some p) :
    ∃ codes : List Byte, codes.length ≤ 4 ∧ p.codes = codes.map (·.toNat) := by
  unfold parseClockSet at h
  split at h
  · cases h
  · next n rest =>
    split at h
    · cases h
    · next few =>
      split at h
      · next exact_ =>
        cases h
        exact ⟨rest, by omega, rfl⟩
      · split at h
        · cases h
          exact ⟨rest.take n.toNat, by rw [List.length_take]; omega, rfl⟩
        · cases h

/-! ### The request -/

/-- The new list and timer lengths of an accepted CLOCK_SET (R14). -/
theorem replaceList_eq (x : List ClockSource) (lengths : Option (Byte × Byte × Byte)) (u : Ftu) :
    u.replaceList x (lengths.map fun l => (l.1, l.2.1 ++ l.2.2)) =
      { u with
        sources := x
        revertDelay := match lengths with | some (revert, _, _) => revert | none => u.revertDelay
        holdoverLimit := match lengths with | some (_, hi, lo) => hi ++ lo | none => u.holdoverLimit } := by
  cases lengths <;> rfl

/-- Settles O36. -/
theorem clockSetReplacesList : Obligations.ClockSetReplacesList := by
  intro s f tag codes lengths short serves u ready supervises ps source listed new
  have parsed : parseClockSet ps =
      some { codes := codes.map (·.toNat), lengths := lengths.map fun l => (l.1, l.2.1 ++ l.2.2) } := by
    rw [← parseClockSet_eq codes lengths short]
    cases lengths <;> rfl
  have loaded : u.loading = false := by simp [State.loading, ready]
  have replaced : listed = u.ftu.replaceList (codes.map codedSource) (lengths.map fun l => (l.1, l.2.1 ++ l.2.2)) := by
    rw [replaceList_eq]
    rfl
  have executed : execute f { tag := tag, kind := ReqKind.code .clockSet, params := ps } u = reqClockSet f ps u :=
    execute_known f tag .clockSet ps u
  show Host.Outcome.next (submit f { tag := tag, kind := ReqKind.code .clockSet, params := ps } s) = _
  rw [submit_executes _ _ _ serves, show reach f s = u from rfl, executed, reqClockSet, parsed,
    runRequest_passes _ _ _ _ _ _ (.inl loaded) (fun _ => supervises) (fun h => absurd h Bool.false_ne_true)]
  dsimp only
  rw [sourcesOf_codes]
  by_cases refused : codes = [] ∨ (∃ c ∈ codes, 5 < c.toNat) ∨ ¬ codes.Nodup
  · rw [if_pos refused, if_pos refused]
    rfl
  · rw [if_neg refused, if_neg refused]
    dsimp only
    rw [setClock, clockEvent_told]
    rw [← replaced]
    rfl

end Sys2Proof.Machine
end

section
/-! PROOFS. What an executed request may change of the things that wait for a frame: most requests change none of them. -/

namespace Sys2Proof.Machine

/-- Two states with the same clock, load state, feeds ONLINE, and the same things waiting for a frame: writes and settle mutes,
maps, law, scenes and meter periods. -/
structure State.alike (s t : State) : Prop where
  ftu : t.ftu = s.ftu := by rfl
  stepped : t.stepped = s.stepped := by rfl
  pending : t.pending = s.pending := by rfl
  load : t.sil.load = s.sil.load := by rfl
  online : ∀ f, t.online f = s.online f := by intros; rfl
  inFlight : ∀ i, (t.channel i).inFlight = (s.channel i).inFlight := by intros; rfl
  settle : ∀ i, (t.channel i).settle = (s.channel i).settle := by intros; rfl
  delay : ∀ g : Group, t.hac.buses[g].delay = s.hac.buses[g].delay := by intros; rfl
  smu : t.smu = s.smu := by rfl
  law : t.tgu.pending = s.tgu.pending := by rfl
  scheduled : t.scu.scheduled = s.scu.scheduled := by rfl
  subscriptions : t.lmu.subscriptions = s.lmu.subscriptions := by rfl

theorem alike_refl (s : State) : s.alike s := {}

theorem alike_trans {s t u : State} (a : s.alike t) (b : t.alike u) : s.alike u where
  ftu := b.ftu.trans a.ftu
  stepped := b.stepped.trans a.stepped
  pending := b.pending.trans a.pending
  load := b.load.trans a.load
  online f := (b.online f).trans (a.online f)
  inFlight i := (b.inFlight i).trans (a.inFlight i)
  settle i := (b.settle i).trans (a.settle i)
  delay g := (b.delay g).trans (a.delay g)
  smu := b.smu.trans a.smu
  law := b.law.trans a.law
  scheduled := b.scheduled.trans a.scheduled
  subscriptions := b.subscriptions.trans a.subscriptions

theorem foldl_alike {α : Type} (step : State → α → State) (h : ∀ (s : State) (a : α), s.alike (step s a)) (l : List α)
    (s : State) : s.alike (l.foldl step s) := by
  induction l generalizing s with
  | nil => exact alike_refl s
  | cons a l ih => exact alike_trans (h s a) (ih _)

/-! ### The shared operations -/

/-- A read that an update of one entry leaves alone is the same at every entry. -/
theorem upd_read {α β : Type} {n : Nat} (v : Vector α n) (i : Fin n) (g : α → α) (p : α → β) (h : ∀ x, p (g x) = p x)
    (j : Fin n) : p (upd v i g)[j] = p v[j] := by
  rw [Fin.getElem_fin, upd_entry]
  split
  · exact h _
  · rfl

theorem told_alike (nts : Feed → List Notice) (s : State) : s.alike (told nts s) where
  online := told_online nts s

theorem notifyIf_alike (b : Bool) (f : Feed) (nt : Notice) (s : State) : s.alike (notifyIf b f nt s) := by
  rw [notifyIf_told]
  exact told_alike _ _

theorem notifyWhere_alike (p : Feed → Bool) (nt : Notice) (s : State) : s.alike (notifyWhere p nt s) := by
  rw [notifyWhere_told]
  exact told_alike _ _

theorem changeTap_alike (f : Feed) (i : Input) (g : Tap → Tap) (s : State) : s.alike (changeTap f i g s) :=
  alike_trans (t := { s with tgu := s.tgu.onTap f i fun _ => g (s.tap f i) }) {} (notifyIf_alike _ _ _ _)

theorem changeTaps_alike (f : Feed) (g : Int → Tap → Tap) (is : List Input) (s : State) :
    s.alike (changeTaps f g is s) :=
  foldl_alike _ (fun _ _ => changeTap_alike _ _ _ _) is s

theorem rebase_alike (i : Input) (d : Int) (s : State) : s.alike (rebase i d s) :=
  alike_trans (alike_trans (alike_trans (changeTap_alike _ _ _ _) (changeTap_alike _ _ _ _)) (changeTap_alike _ _ _ _))
    (changeTap_alike _ _ _ _)

/-- A change of a channel that leaves its write in flight and its settle mute alone. -/
theorem onChannel_alike (i : Input) (g : Channel → Channel) (s : State) (write : ∀ c, (g c).inFlight = c.inFlight)
    (settle : ∀ c, (g c).settle = c.settle) : s.alike { s with hac := s.hac.onChannel i g } where
  inFlight := upd_read _ i g Channel.inFlight write
  settle := upd_read _ i g Channel.settle settle

theorem setOwner_alike (new : Option Feed) (cause : OwnerCause) (i : Input) (s : State) :
    s.alike (setOwner new cause i s) := by
  unfold setOwner
  dsimp only
  split
  · exact alike_refl s
  · exact alike_trans (onChannel_alike i (fun c => { c with owner := new }) s (fun _ => rfl) fun _ => rfl)
      (notifyWhere_alike _ _ _)

theorem regain_alike (i : Input) (s : State) : s.alike (regain i s) := by
  unfold regain
  exact alike_trans
    (onChannel_alike i (fun c => { c with gain := s.hac.gainOf (s.channel i).live }) s (fun _ => rfl) fun _ => rfl)
    (rebase_alike _ _ _)

theorem applyPlaw_alike (s : State) : s.alike (applyPlaw s) := by
  unfold applyPlaw
  dsimp only
  refine alike_trans ?_ (notifyWhere_alike _ _ _)
  exact alike_trans (t := { s with hac := { s.hac with plt := s.hac.staging, marks := noMarks } }) {}
    (foldl_alike (fun s i => regain i s) (fun t i => regain_alike i t) inputs _)

theorem claimSeen_alike (f : Feed) (s : State) (i : Input) : s.alike (claimSeen f s i) := by
  unfold claimSeen
  split
  · exact notifyIf_alike _ _ _ _
  · exact alike_refl s

theorem resync_alike (f : Feed) (s : State) :
    s.alike { s with lnk := s.lnk.onFeed f fun r => { r with resync := false } } where
  online g := congrArg Option.isSome
    (upd_read s.lnk.feeds f (fun r => { r with resync := false }) FeedRecord.control (fun _ => rfl) g)

/-! ### The checks of a request -/

theorem runRequest_alike {α : Type} (kind : ReqKind) (parsed : Option α) (form : α → Bool) (f : Feed)
    (body : α → State → Reply) (s : State) (h : ∀ p, s.alike (body p s).1) :
    s.alike (runRequest kind parsed form f body s).1 := by
  unfold runRequest
  cases parsed with
  | none => exact alike_refl s
  | some p =>
    dsimp only
    repeat' split
    · exact alike_refl s
    · exact alike_refl s
    · exact alike_refl s
    · exact h p

theorem onInputs_alike (f : Feed) (set : ChannelSet) (check : State → Input → Option Result)
    (body : List Input → State → Reply) (s : State) (h : ∀ is, s.alike (body is s).1) :
    s.alike (onInputs f set check body s).1 := by
  unfold onInputs
  split
  · exact alike_refl s
  · exact h _

theorem accept_alike {s t : State} (r : Result) (fields : List Byte) (h : s.alike t) :
    s.alike (accept r fields t).1 := h

/-- A request that reads the state, or changes what waits for no frame. -/
def timeless : ReqKind → Bool
  | .haSet | .haNudge | .clockSet | .lawApply | .mapWindows | .mtrSubscribe | .devRestart | .scnCommit | .scnCancel => false
  | _ => true

/-- Such a request changes nothing that waits for a frame. -/
theorem executeKind_alike (f : Feed) (ps : List Byte) (k : ReqKind) (s : State) (h : timeless k = true) :
    s.alike (executeKind f ps k s).1 := by
  cases k with
  | haSet | haNudge | clockSet | lawApply | mapWindows | mtrSubscribe | devRestart | scnCommit | scnCancel => cases h
  | tapTrim | tapMode | tapAnchor | tapMute =>
    exact runRequest_alike _ _ _ _ _ _ fun _ => onInputs_alike _ _ _ _ _ fun _ =>
      accept_alike _ _ (changeTaps_alike _ _ _ _)
  | tapGet | haGet | clipGet | clipSet | clipAck =>
    exact runRequest_alike _ _ _ _ _ _ fun _ => onInputs_alike _ _ _ _ _ fun _ => {}
  | ownRelease | ownAssign =>
    exact runRequest_alike _ _ _ _ _ _ fun _ => onInputs_alike _ _ _ _ _ fun is =>
      accept_alike _ _ (foldl_alike _ (fun _ _ => setOwner_alike _ _ _ _) is _)
  | mapGet | feedGlide | scnList => exact runRequest_alike _ _ _ _ _ _ fun _ => {}
  | devStatus => exact runRequest_alike _ _ _ _ _ _ fun _ => resync_alike f s
  | ownClaim =>
    refine runRequest_alike _ _ _ _ _ _ fun set => ?_
    dsimp only
    split
    · unfold refuseAt
      dsimp only
      split
      · exact foldl_alike _ (fun _ _ => claimSeen_alike _ _ _) _ _
      · exact alike_refl s
    · exact accept_alike _ _ (foldl_alike _ (fun _ _ => setOwner_alike _ _ _ _) _ _)
  | plawApply =>
    refine runRequest_alike _ _ _ _ _ _ fun _ => ?_
    repeat' split
    · exact alike_refl s
    · exact alike_refl s
    · exact accept_alike _ _ (applyPlaw_alike s)
  | scnAdd =>
    refine runRequest_alike _ _ _ _ _ _ fun p => ?_
    split
    · exact alike_refl s
    · refine onInputs_alike _ _ _ _ _ fun is => ?_
      dsimp only
      split <;> exact {}
  | storeSave | lawStage | plawStage | lawGet | supervisorSet | scnOpen =>
    refine runRequest_alike _ _ _ _ _ _ fun p => ?_
    repeat' split
    all_goals exact {}

end Sys2Proof.Machine
end

section
/-! PROOFS. What a request, a scene or the arbiter's round may change in a frame: nothing that it brings in is due in that
frame (R2), and the clock condition stays. -/

namespace Sys2Proof.Machine

/-! ### Frame numbers a little ahead -/

theorem lead_swap {x n : FrameNo} (h : 0 ≤ lead x n) : lead n x = -lead x n := by
  unfold lead at *
  rw [BitVec.toInt_eq_toNat_cond, BitVec.toNat_sub] at h ⊢
  rw [BitVec.toInt_eq_toNat_cond, BitVec.toNat_sub]
  omega

/-- A frame number held one or more frames ahead is not due. -/
theorem lead_past (n : FrameNo) (k : Nat) (pos : 0 < k) (h : k < 2147483648) :
    lead n (n + BitVec.ofNat 32 k) < 0 := by
  have ahead := lead_add n k h
  rw [lead_swap (by omega), ahead]
  omega

theorem lead_next (n : FrameNo) : lead n (n + 1) < 0 := lead_past n 1 (by omega) (by omega)

theorem lead_unitsAfter (n : FrameNo) (k : Byte) (h : k ≠ 0) : lead n (unitsAfter n k.toNat) < 0 := by
  have pos : 0 < k.toNat := Nat.pos_of_ne_zero fun e => h (BitVec.eq_of_toNat_eq e)
  exact lead_past n _ (by omega) (by omega)

/-- Leads of at most 2^24 − 1 at a common frame compare two frame numbers. -/
theorem lead_sub {x y n : FrameNo} (hx : 0 ≤ lead x n ∧ lead x n ≤ 16777215) (hy : 0 ≤ lead y n ∧ lead y n ≤ 16777215) :
    lead x y = lead x n - lead y n := by
  simp only [lead, BitVec.toInt_eq_toNat_cond, BitVec.toNat_sub] at *
  omega

/-! ### What waits for a frame after `n` -/

/-- Nothing that waits is due at frame `n`, and every conversion delay K lies in its range (R2, R79). -/
structure State.aheadOf (n : FrameNo) (s : State) : Prop where
  write : ∀ i w, (s.channel i).inFlight = some w → lead n w.effective < 0
  settle : ∀ i x, (s.channel i).settle = .ends x → 0 ≤ lead x n
  map : ∀ (f : Feed) p, s.smu.maps[f].pending = some p → lead n p.start < 0
  law : ∀ p, s.tgu.pending = some p → lead n p.start < 0
  period : ∀ (f : Feed) u, s.lmu.subscriptions[f] = some u → lead n u.ends < 0
  delay : ∀ g : Group, s.hac.buses[g].delay ≤ 63

/-- The scheduled list at frame `n`: at most four scenes, none before its execution frame, in order of execution frame
(R113, R115). -/
def inTurn (n : FrameNo) (l : List Scheduled) : Prop :=
  l.length ≤ 4 ∧ (∀ x ∈ l, 0 ≤ lead x.frame n ∧ lead x.frame n ≤ 16777215) ∧
    l.Pairwise fun x y => lead x.frame n ≤ lead y.frame n

theorem inTurn_sublist {n : FrameNo} {l m : List Scheduled} (sub : l.Sublist m) (h : inTurn n m) : inTurn n l := by
  obtain ⟨short, ahead, order⟩ := h
  exact ⟨sub.length_le.trans short, fun x hx => ahead x (sub.subset hx), order.sublist sub⟩

theorem insertScene_length (x : Scheduled) (l : List Scheduled) : (insertScene x l).length = l.length + 1 := by
  induction l with
  | nil => rfl
  | cons y l ih =>
    unfold insertScene
    split <;> simp [ih]

theorem mem_insertScene {x y : Scheduled} {l : List Scheduled} : y ∈ insertScene x l ↔ y = x ∨ y ∈ l := by
  induction l with
  | nil => simp [insertScene]
  | cons z l ih =>
    unfold insertScene
    split
    · simp only [List.mem_cons, ih]
      tauto
    · simp only [List.mem_cons]

/-- A scene placed in a list in order leaves it in order (R113). -/
theorem insertScene_inTurn {n : FrameNo} {x : Scheduled} {l : List Scheduled} (room : l.length < 4)
    (ahead : 0 ≤ lead x.frame n ∧ lead x.frame n ≤ 16777215) (h : inTurn n l) : inTurn n (insertScene x l) := by
  obtain ⟨-, range, order⟩ := h
  refine ⟨by rw [insertScene_length]; omega, ?_, ?_⟩
  · intro y hy
    rcases mem_insertScene.1 hy with e | hy
    · exact e ▸ ahead
    · exact range y hy
  · clear room
    induction l with
    | nil => exact List.pairwise_singleton _ _
    | cons y l ih =>
      rw [List.pairwise_cons] at order
      obtain ⟨first, rest⟩ := order
      have py := range y List.mem_cons_self
      have compare := lead_sub ahead py
      unfold insertScene
      split
      · next earlier =>
        rw [notAfter_iff] at earlier
        rw [List.pairwise_cons]
        refine ⟨fun z hz => ?_, ih (fun z hz => range z (List.mem_cons_of_mem _ hz)) rest⟩
        rcases mem_insertScene.1 hz with e | hz
        · subst e
          omega
        · exact first z hz
      · next later =>
        rw [notAfter_iff] at later
        rw [List.pairwise_cons, List.pairwise_cons]
        refine ⟨fun z hz => ?_, first, rest⟩
        rcases List.mem_cons.1 hz with e | hz
        · subst e
          omega
        · have := first z hz
          omega

/-! ### Within a frame -/

/-- What follows in the frame in progress, after its frame step. -/
structure State.within (s t : State) : Prop where
  frame : t.ftu.frame = s.ftu.frame
  stepped : t.stepped = s.stepped
  pending : t.pending = s.pending
  load : t.sil.load = s.sil.load ∨ (s.sil.load = .ready ∧ t.sil.load = .loading .restart)
  clock : s.clockSound → t.clockSound
  ahead : s.aheadOf s.ftu.frame → t.aheadOf s.ftu.frame
  turn : inTurn s.ftu.frame s.scu.scheduled → inTurn s.ftu.frame t.scu.scheduled

theorem within_trans {s t u : State} (a : s.within t) (b : t.within u) : s.within u where
  frame := b.frame.trans a.frame
  stepped := b.stepped.trans a.stepped
  pending := b.pending.trans a.pending
  load := by
    rcases a.load with a | ⟨ar, a⟩
    · rw [← a]
      exact b.load
    · rcases b.load with b | ⟨br, -⟩
      · exact .inr ⟨ar, b.trans a⟩
      · rw [a] at br
        cases br
  clock h := b.clock (a.clock h)
  ahead h := a.frame ▸ b.ahead (a.frame.symm ▸ a.ahead h)
  turn h := a.frame ▸ b.turn (a.frame.symm ▸ a.turn h)

theorem alike_within {s t : State} (h : s.alike t) : s.within t where
  frame := by rw [h.ftu]
  stepped := h.stepped
  pending := h.pending
  load := .inl h.load
  clock c := clockSound_of_same c (by rw [h.ftu]) h.online (by rw [h.load])
  ahead a :=
    { write := fun i w e => a.write i w (h.inFlight i ▸ e)
      settle := fun i x e => a.settle i x (h.settle i ▸ e)
      map := fun f p e => a.map f p (h.smu ▸ e)
      law := fun p e => a.law p (h.law ▸ e)
      period := fun f u e => a.period f u (h.subscriptions ▸ e)
      delay := fun g => h.delay g ▸ a.delay g }
  turn a := h.scheduled ▸ a

theorem within_refl (s : State) : s.within s := alike_within (alike_refl s)

theorem foldl_within {α : Type} (step : State → α → State) (h : ∀ (s : State) (a : α), s.within (step s a)) (l : List α)
    (s : State) : s.within (l.foldl step s) := by
  induction l generalizing s with
  | nil => exact within_refl s
  | cons a l ih => exact within_trans (h s a) (ih _)

/-! ### Head-amp changes -/

theorem change_inFlight (h : Hac) (i : Input) (v : HeadAmp) (j : Input) :
    (h.change i v).channels[j].inFlight = h.channels[j].inFlight := by
  unfold Hac.change
  apply upd_read (p := Channel.inFlight)
  intro c
  rfl

theorem change_delay (h : Hac) (i : Input) (v : HeadAmp) (g : Group) :
    (h.change i v).buses[g].delay = h.buses[g].delay := by
  unfold Hac.change
  apply upd_read (p := PreampBus.delay)
  intro b
  rfl

/-- A change of the desired values leaves every settle mute, but that it may release a start-up hold (R83). -/
theorem change_settle (h : Hac) (i : Input) (v : HeadAmp) (j : Input) :
    (h.change i v).channels[j].settle = h.channels[j].settle ∨ (h.change i v).channels[j].settle = .absent := by
  unfold Hac.change
  dsimp only
  rw [Fin.getElem_fin, upd_entry]
  split
  · split
    · exact .inr rfl
    · exact .inl rfl
  · exact .inl rfl

theorem change_within (i : Input) (v : HeadAmp) (s : State) : s.within { s with hac := s.hac.change i v } where
  frame := rfl
  stepped := rfl
  pending := rfl
  load := .inl rfl
  clock h := h
  turn h := h
  ahead a :=
    { a with
      write := fun j w e => a.write j w ((change_inFlight s.hac i v j).symm.trans e)
      settle := fun j x e => by
        rcases change_settle s.hac i v j with same | absent
        · exact a.settle j x (same.symm.trans e)
        · exact nomatch absent.symm.trans e
      delay := fun g => (change_delay s.hac i v g).symm ▸ a.delay g }

/-! ### Scenes -/

theorem act_within (f : Feed) (e : SceneEntry) (s : State) : s.within (e.act f s) := by
  unfold SceneEntry.act
  split
  · exact change_within _ _ s
  · exact alike_within (changeTap_alike _ _ _ _)
  · exact alike_within (changeTap_alike _ _ _ _)

theorem runEntries_within (f : Feed) (es : List SceneEntry) :
    ∀ (k : Nat) (s : State) (r : SceneResult), s.within (runEntries f k es s r).1 := by
  induction es with
  | nil => exact fun _ s _ => within_refl s
  | cons e es ih =>
    intro k s r
    unfold runEntries
    split
    · exact within_trans (act_within f e s) (ih _ _ _)
    · exact ih _ _ _

theorem runScheduled_within (x : Scheduled) (s : State) : s.within (runScheduled x s) :=
  within_trans (runEntries_within x.feed x.entries 0 s _) (alike_within (notifyIf_alike _ _ _ _))

/-- A state with another scheduled list in turn. -/
theorem scheduled_within (s : State) (x : Scu) (h : inTurn s.ftu.frame s.scu.scheduled → inTurn s.ftu.frame x.scheduled) :
    s.within { s with scu := x } :=
  { alike_within (alike_refl s) with ahead := fun a => { a with }, turn := h }

theorem sceneDue_within (s : State) : s.within (sceneDue s) := by
  unfold sceneDue
  split
  · exact within_refl s
  · next x rest e =>
    split
    · refine within_trans (scheduled_within s _ fun h => ?_) (runScheduled_within x _)
      rw [e] at h
      exact inTurn_sublist (List.sublist_cons_self x rest) h
    · exact within_refl s

/-! ### Requests -/

theorem runRequest_within {α : Type} (kind : ReqKind) (parsed : Option α) (form : α → Bool) (f : Feed)
    (body : α → State → Reply) (s : State) (known : kind ≠ .devStatus)
    (h : ∀ p, parsed = some p → s.sil.load = .ready → s.within (body p s).1) :
    s.within (runRequest kind parsed form f body s).1 := by
  unfold runRequest
  cases parsed with
  | none => exact within_refl s
  | some p =>
    dsimp only
    repeat' split
    · exact within_refl s
    · exact within_refl s
    · exact within_refl s
    · next ready _ _ =>
      refine h p rfl ?_
      simpa [State.loading, known] using ready

theorem onInputs_within (f : Feed) (set : ChannelSet) (check : State → Input → Option Result)
    (body : List Input → State → Reply) (s : State) (h : ∀ is, s.within (body is s).1) :
    s.within (onInputs f set check body s).1 := by
  unfold onInputs
  split
  · exact within_refl s
  · exact h _

theorem accept_within {s t : State} (r : Result) (fields : List Byte) (h : s.within t) :
    s.within (accept r fields t).1 := h

theorem reqHaSet_within (f : Feed) (ps : List Byte) (s : State) : s.within (reqHaSet f ps s).1 :=
  runRequest_within _ _ _ _ _ _ (by decide) fun p _ _ => onInputs_within _ _ _ _ _ fun is =>
    foldl_within (fun s i => setHeadAmp (p.code.map codeOf) p.pad p.phantom i s) (fun t i => change_within i _ t) is s

theorem reqHaNudge_within (f : Feed) (ps : List Byte) (s : State) : s.within (reqHaNudge f ps s).1 :=
  runRequest_within _ _ _ _ _ _ (by decide) fun p _ _ => onInputs_within _ _ _ _ _ fun is =>
    foldl_within (fun s i => nudgeHeadAmp p.2 i s) (fun t i => change_within i _ t) is s

/-- A new list, evaluated at once, gives a sound clock (R13, R14). -/
theorem setClock_clockSound {x : List ClockSource} (lengths : Option (Byte × BitVec 16)) {s : State} (list : listFits x)
    (awake : s.sil.load ≠ .loading .powerOn) (h : s.clockSound) : (setClock x lengths s).clockSound := by
  obtain ⟨-, h⟩ := (clockSound_iff s).1 h
  have same := evaluate_sameBut s.available (s.ftu.replaceList x lengths)
  have fit := agrees_timersFit h
  refine clockEvent_clockSound _ s ?_ ?_ (evaluate_agrees awake (show Ftu.timersFit _ from fit))
  · rw [same]
    exact list
  · rw [same]
    rfl

theorem setClock_within {x : List ClockSource} (lengths : Option (Byte × BitVec 16)) {s : State} (list : listFits x)
    (awake : s.sil.load ≠ .loading .powerOn) : s.within (setClock x lengths s) where
  frame := by
    have same := evaluate_sameBut s.available (s.ftu.replaceList x lengths)
    show (Ftu.evaluate s.available (s.ftu.replaceList x lengths)).frame = _
    rw [same]
    rfl
  stepped := rfl
  pending := rfl
  load := .inl rfl
  clock := setClock_clockSound lengths list awake
  ahead a := { a with }
  turn h := h

theorem reqClockSet_within (f : Feed) (ps : List Byte) (s : State) : s.within (reqClockSet f ps s).1 := by
  refine runRequest_within _ _ _ _ _ _ (by decide) fun p parsed ready => ?_
  obtain ⟨codes, short, e⟩ := parseClockSet_codes parsed
  dsimp only
  split
  · exact within_refl s
  · next x taken =>
    rw [e] at taken
    exact setClock_within p.lengths (sourcesOf_listFits codes short x taken) (by rw [ready]; decide)

/-- A gain law pending from the next frame on (R67). -/
theorem lawPending_within (s : State) (table : Vector Mantissa 48) (marks : Vector Bool 4) :
    s.within { s with tgu := { s.tgu with
      pending := some { table := table, start := s.ftu.frame + 1 }, marks := marks } } :=
  { alike_within (alike_refl s) with
    ahead := fun a => { a with law := fun p e => by cases e; exact lead_next _ } }

theorem reqLawApply_within (f : Feed) (ps : List Byte) (s : State) : s.within (reqLawApply f ps s).1 := by
  refine runRequest_within _ _ _ _ _ _ (by decide) fun p _ _ => ?_
  repeat' split
  · exact within_refl s
  · exact within_refl s
  · exact within_trans (lawPending_within s s.tgu.staging noMarks)
      (accept_within _ _ (alike_within (notifyWhere_alike _ _ _)))

theorem acceptWindows_within (f : Feed) (ws : List Window) (s : State) : s.within (acceptWindows f ws s) :=
  { alike_within (alike_refl s) with
    ahead := fun a =>
      { a with
        map := fun g p e => by
          simp only [acceptWindows, Fin.getElem_fin, upd_entry] at e
          split at e
          · cases e
            exact lead_next _
          · exact a.map g p e } }

theorem reqMapWindows_within (f : Feed) (ps : List Byte) (s : State) : s.within (reqMapWindows f ps s).1 := by
  refine runRequest_within _ _ _ _ _ _ (by decide) fun p _ _ => ?_
  split
  · exact within_refl s
  · exact acceptWindows_within _ _ s

/-- A subscription whose period ends after the frame in progress. -/
theorem setSubscription_within (f : Feed) (u : Option Subscription) (s : State)
    (h : ∀ v, u = some v → lead s.ftu.frame v.ends < 0) : s.within (setSubscription f u s) :=
  { alike_within (alike_refl s) with
    ahead := fun a =>
      { a with
        period := fun g v e => by
          simp only [setSubscription, Fin.getElem_fin, put_entry] at e
          split at e
          · exact h v e
          · exact a.period g v e } }

theorem periodOf_ne_zero (b : Byte) : periodOf b ≠ 0 := by
  unfold periodOf
  split
  · decide
  · assumption

theorem reqMtrSubscribe_within (f : Feed) (ps : List Byte) (s : State) : s.within (reqMtrSubscribe f ps s).1 := by
  refine runRequest_within _ _ _ _ _ _ (by decide) fun p _ _ => ?_
  split
  · exact setSubscription_within f none s fun v e => nomatch e
  · refine onInputs_within _ _ _ _ _ fun is => setSubscription_within f _ s fun v e => ?_
    cases e
    exact lead_unitsAfter _ _ (periodOf_ne_zero p.1)

theorem restart_within (s : State) (ready : s.sil.load = .ready) : s.within (restart s) where
  frame := rfl
  stepped := rfl
  pending := rfl
  load := .inr ⟨ready, rfl⟩
  clock h := clockSound_of_same h rfl (fun _ => rfl) (by simp [restart, ready])
  ahead a := { a with period := fun f u e => by simp [restart] at e }
  turn _ := ⟨Nat.zero_le 4, fun x h => absurd h List.not_mem_nil, List.Pairwise.nil⟩

theorem reqDevRestart_within (f : Feed) (ps : List Byte) (s : State) : s.within (reqDevRestart f ps s).1 := by
  refine runRequest_within _ _ _ _ _ _ (by decide) fun p _ ready => ?_
  split
  · exact within_refl s
  · exact restart_within s ready

theorem executeScene_within (f : Feed) (es : List SceneEntry) (s : State) : s.within (executeScene f es s).1 :=
  within_trans (scheduled_within s { s.scu with opened := put s.scu.opened f none } fun h => h)
    (runEntries_within f es 0 _ _)

theorem reqScnCommit_within (f : Feed) (ps : List Byte) (s : State) : s.within (reqScnCommit f ps s).1 := by
  refine runRequest_within _ _ _ _ _ _ (by decide) fun mode _ _ => ?_
  split
  · exact within_refl s
  · exact within_refl s
  · next e es _ =>
    split
    · exact executeScene_within f (e :: es) s
    · next x _ =>
      split
      · exact executeScene_within f (e :: es) s
      · next later =>
        split
        · exact within_refl s
        · next near =>
          split
          · exact within_refl s
          · next room =>
            have ahead : 0 ≤ lead x s.ftu.frame ∧ lead x s.ftu.frame ≤ 16777215 := by omega
            exact scheduled_within s _ fun h => insertScene_inTurn (by omega) ahead h

theorem reqScnCancel_within (f : Feed) (ps : List Byte) (s : State) : s.within (reqScnCancel f ps s).1 := by
  refine runRequest_within _ _ _ _ _ _ (by decide) fun mode _ _ => ?_
  split
  · split
    · exact within_refl s
    · exact scheduled_within s _ fun h => h
  · split
    · exact scheduled_within s _ fun h => inTurn_sublist List.filter_sublist h
    · exact within_refl s

theorem executeKind_within (f : Feed) (ps : List Byte) (k : ReqKind) (s : State) :
    s.within (executeKind f ps k s).1 := by
  by_cases h : timeless k = true
  · exact alike_within (executeKind_alike f ps k s h)
  · cases k with
    | haSet => exact reqHaSet_within f ps s
    | haNudge => exact reqHaNudge_within f ps s
    | clockSet => exact reqClockSet_within f ps s
    | lawApply => exact reqLawApply_within f ps s
    | mapWindows => exact reqMapWindows_within f ps s
    | mtrSubscribe => exact reqMtrSubscribe_within f ps s
    | devRestart => exact reqDevRestart_within f ps s
    | scnCommit => exact reqScnCommit_within f ps s
    | scnCancel => exact reqScnCancel_within f ps s
    | _ => exact absurd rfl h

theorem execute_within (f : Feed) (m : Message) (s : State) : s.within (execute f m s).1 := by
  unfold execute
  split
  · exact within_refl s
  · exact executeKind_within _ _ _ _

/-! ### The round -/

theorem grant_within (f : Feed) (m : Message) (s : State) : s.within (grant f m s) :=
  within_trans (execute_within f m s) (alike_within {})

theorem consider_within (f : Feed) (s : State) : s.within (consider f s) := by
  unfold consider
  split
  · exact alike_within {}
  · split
    · exact within_trans (t := popRequest f s) (alike_within {}) (grant_within _ _ _)
    · exact alike_within {}

theorem round_within (s : State) : s.within (round s) :=
  foldl_within _ (fun t f => consider_within f t) _ s

theorem roundUpTo_within (f : Feed) (s : State) : s.within (roundUpTo f s) :=
  foldl_within _ (fun t g => consider_within g t) _ s

end Sys2Proof.Machine
end

section
/-! PROOFS. What follows the round in a frame, and the clock condition kept by every step (R9 to R13). -/

namespace Sys2Proof.Machine

/-- A change of the clock, of the conversations and of the feeds that brings in nothing to wait for. -/
theorem blocks_within {s t : State} (frame : t.ftu.frame = s.ftu.frame) (stepped : t.stepped = s.stepped)
    (pending : t.pending = s.pending) (sil : t.sil = s.sil) (hac : t.hac = s.hac) (smu : t.smu = s.smu)
    (tgu : t.tgu = s.tgu) (scheduled : t.scu.scheduled = s.scu.scheduled)
    (subscriptions : ∀ f : Feed, t.lmu.subscriptions[f] = s.lmu.subscriptions[f] ∨ t.lmu.subscriptions[f] = none)
    (clock : s.clockSound → t.clockSound) : s.within t where
  frame := frame
  stepped := stepped
  pending := pending
  load := .inl (by rw [sil])
  clock := clock
  turn h := scheduled ▸ h
  ahead a :=
    { write := fun i w e => a.write i w (by rwa [State.channel, hac] at e)
      settle := fun i x e => a.settle i x (by rwa [State.channel, hac] at e)
      map := fun f p e => a.map f p (smu ▸ e)
      law := fun p e => a.law p (tgu ▸ e)
      period := fun f u e => by
        rcases subscriptions f with same | gone
        · exact a.period f u (same.symm.trans e)
        · exact nomatch gone.symm.trans e
      delay := fun g => hac ▸ a.delay g }

/-! ### Timers -/

theorem clockEvent_frame (g : Ftu → Ftu) (s : State) (same : s.ftu.sameBut (g s.ftu)) :
    (clockEvent g s).ftu.frame = s.ftu.frame := by
  show (g s.ftu).frame = _
  rw [same]

theorem revertTimer_within (s : State) : s.within (revertTimer s) :=
  blocks_within (clockEvent_frame _ s (revertExpiry_sameBut _)) (revertTimer_stepped s) (revertTimer_pending s)
    (revertTimer_sil s) (revertTimer_hac s) (revertTimer_smu s) (revertTimer_tgu s) (by rw [revertTimer_scu])
    (fun f => .inl (by rw [revertTimer_lmu])) revertTimer_clockSound

theorem holdoverTimer_within (s : State) : s.within (holdoverTimer s) :=
  blocks_within (clockEvent_frame _ s (holdoverExpiry_sameBut _)) (holdoverTimer_stepped s) (holdoverTimer_pending s)
    (holdoverTimer_sil s) (holdoverTimer_hac s) (holdoverTimer_smu s) (holdoverTimer_tgu s) (by rw [holdoverTimer_scu])
    (fun f => .inl (by rw [holdoverTimer_lmu])) holdoverTimer_clockSound

/-! ### Feeds coming and going -/

theorem reportCame_frame (x : ClockSource) (s : State) : (reportCame x s).ftu.frame = s.ftu.frame := by
  refine clockEvent_frame _ s ?_
  split
  · exact sourceCame_sameBut _ _ _
  · rfl

theorem reportGone_frame (x : ClockSource) (s : State) : (reportGone x s).ftu.frame = s.ftu.frame := by
  refine clockEvent_frame _ s ?_
  split
  · exact sourceGone_sameBut _ _ _
  · rfl

/-- A new record of feed `f` makes its source available exactly when it has a control port (R8, R131). -/
theorem available_onFeed {s t : State} {f : Feed} {g : FeedRecord → FeedRecord}
    (wordclock : t.ftu.wordclock = s.ftu.wordclock) (lnk : t.lnk = s.lnk.onFeed f g) (y : ClockSource) :
    t.available y = if y = .feed f then (g s.lnk.feeds[f]).control.isSome else s.available y := by
  cases y with
  | internal => rfl
  | wordclock => exact wordclock
  | feed k =>
    show t.lnk.feeds[k].control.isSome = _
    rw [lnk]
    show (upd s.lnk.feeds f g)[k].control.isSome = _
    rw [Fin.getElem_fin, upd_entry]
    by_cases e : k = f
    · subst e
      simp
    · have ne : ¬ f.val = k.val := fun h => e (Fin.ext h.symm)
      simp [e, ne, State.available, State.online]

theorem available_came {s t : State} {f : Feed} {g : FeedRecord → FeedRecord}
    (wordclock : t.ftu.wordclock = s.ftu.wordclock) (lnk : t.lnk = s.lnk.onFeed f g)
    (on : (g s.lnk.feeds[f]).control.isSome = true) (y : ClockSource) :
    t.available y = true ↔ s.available y = true ∨ y = .feed f := by
  rw [available_onFeed wordclock lnk, on]
  by_cases e : y = .feed f <;> simp [e]

theorem available_gone {s t : State} {f : Feed} {g : FeedRecord → FeedRecord}
    (wordclock : t.ftu.wordclock = s.ftu.wordclock) (lnk : t.lnk = s.lnk.onFeed f g)
    (off : (g s.lnk.feeds[f]).control.isSome = false) (y : ClockSource) :
    t.available y = true ↔ s.available y = true ∧ y ≠ .feed f := by
  rw [available_onFeed wordclock lnk, off]
  by_cases e : y = .feed f <;> simp [e]

theorem goOnline_within (f : Feed) (r : Role) (s : State) : s.within (goOnline f r s) :=
  blocks_within (reportCame_frame _ _) (goOnline_stepped f r s) (goOnline_pending f r s) (goOnline_sil f r s)
    (goOnline_hac f r s) (goOnline_smu f r s) (goOnline_tgu f r s) (by rw [goOnline_scu])
    (fun g => .inl (by rw [goOnline_lmu])) fun h =>
      reportCame_clockSound h rfl rfl (available_came rfl rfl rfl)

theorem goOffline_within (f : Feed) (s : State) : s.within (goOffline f s) :=
  blocks_within (reportGone_frame _ _) (goOffline_stepped f s) (goOffline_pending f s) (goOffline_sil f s)
    (goOffline_hac f s) (goOffline_smu f s) (goOffline_tgu f s) rfl
    (fun g => by
      show (put s.lmu.subscriptions f none)[g] = _ ∨ (put s.lmu.subscriptions f none)[g] = none
      rw [Fin.getElem_fin, put_entry]
      split
      · exact .inr rfl
      · exact .inl rfl)
    fun h => reportGone_clockSound h rfl rfl (available_gone rfl rfl rfl)

theorem moveControl_within (f : Feed) (r : Role) (s : State) (on : s.online f = true) : s.within (moveControl f r s) :=
  alike_within
    { online := fun g => by
        show (upd s.lnk.feeds f _)[g].control.isSome = _
        rw [Fin.getElem_fin, upd_entry]
        split
        · next e =>
          obtain rfl := Fin.ext e
          exact on.symm
        · rfl }

theorem portUp_within (f : Feed) (r : Role) (s : State) : s.within (portUp f r s) := by
  unfold portUp
  split
  · exact goOnline_within f r s
  · next c up =>
    split
    · exact moveControl_within f .main s (by rw [State.online, up]; rfl)
    · exact within_refl s

theorem portDown_within (f : Feed) (r : Role) (s : State) : s.within (portDown f r s) := by
  unfold portDown
  split
  · next up =>
    split
    · exact moveControl_within f r.other s (by rw [State.online, up]; rfl)
    · exact goOffline_within f s
  · exact within_refl s

theorem takeOutcome_within (f : Feed) (r : Role) (good : Bool) (s : State) : s.within (takeOutcome f r good s) := by
  unfold takeOutcome
  dsimp only
  split
  · exact within_trans (alike_within {}) (portUp_within _ _ _)
  · split
    · exact within_trans (alike_within {}) (portDown_within _ _ _)
    · exact alike_within {}

theorem takeHeld_within (f : Feed) (r : Role) (s : State) : s.within (takeHeld f r s) := by
  unfold takeHeld
  split
  · exact takeOutcome_within f r false s
  · exact within_refl s

theorem portOutcome_within (f : Feed) (r : Role) (late : Bool) (o : UpOutcome) (s : State) :
    s.within (portOutcome f r late o s) := by
  unfold portOutcome
  split
  · next som bytes =>
    exact within_trans (t := deliverBytes f r late som bytes s) (alike_within {})
      (within_trans (takeOutcome_within _ _ _ _) (takeHeld_within _ _ _))
  · split
    · exact alike_within {}
    · exact within_trans (takeOutcome_within _ _ _ _) (takeHeld_within _ _ _)

theorem missingLink_within (p : Port) (s : State) : s.within (missingLink p s) := by
  unfold missingLink
  split
  · exact within_refl s
  · exact portOutcome_within _ _ _ _ s

/-! ### Send opportunities -/

/-- The frames from `n` to the effective frame of a word that leaves at `n` (R80). -/
theorem effective_frame (n : FrameNo) (k : Nat) : n + 1 + BitVec.ofNat 32 k = n + BitVec.ofNat 32 (k + 1) := by
  show n + BitVec.ofNat 32 1 + BitVec.ofNat 32 k = _
  rw [BitVec.add_assoc, ← BitVec.ofNat_add, Nat.add_comm]

/-- A settle mute ends at most 65,280 frames after the effective frame (R82). -/
theorem settleLength_le (h : Hac) (v w : HeadAmp) (l : Nat) (e : h.settleLength v w = some l) : l ≤ 65280 := by
  have := h.padSettle.isLt
  have := h.phantomSettle.isLt
  unfold Hac.settleLength at e
  repeat' split at e
  all_goals (cases e <;> omega)

/-- After a send in frame `n`, a settle mute ends at frame `n` or later (R82, R83). -/
theorem afterSend_ends (n : FrameNo) (k : Nat) (hk : k ≤ 63) (length : Option Nat) (hl : ∀ l, length = some l → l ≤ 65280)
    (m : SettleMute) (hm : ∀ x, m = .ends x → 0 ≤ lead x n) (x : FrameNo)
    (e : SettleMute.afterSend (n + 1 + BitVec.ofNat 32 k) length m = .ends x) : 0 ≤ lead x n := by
  have later (l : Nat) (h : l ≤ 65280) : 0 ≤ lead (n + 1 + BitVec.ofNat 32 k + BitVec.ofNat 32 l) n := by
    rw [effective_frame, BitVec.add_assoc, ← BitVec.ofNat_add, lead_add n _ (by omega)]
    exact Int.natCast_nonneg _
  have len : length.getD 0 ≤ 65280 := by
    cases length with
    | none => exact Nat.zero_le _
    | some l => exact hl l rfl
  unfold SettleMute.afterSend at e
  split at e
  · cases e
    exact later _ len
  · exact hm x e
  · cases e
    exact later _ (hl _ rfl)
  · split at e
    · cases e
      exact later _ (hl _ rfl)
    · exact hm x e

theorem send_delay (b : Group) (n : FrameNo) (e : QueueEntry) (h : Hac) (g : Group) :
    (h.send b n e).buses[g].delay = h.buses[g].delay := by
  unfold Hac.send
  apply upd_read (p := PreampBus.delay)
  intro u
  rfl

/-- A send leaves nothing due at its frame: its effective frame and its settle mute lie after it (R80, R82). -/
theorem send_within (b : Group) (e : QueueEntry) (s : State) :
    s.within { s with hac := s.hac.send b s.ftu.frame e } where
  frame := rfl
  stepped := rfl
  pending := rfl
  load := .inl rfl
  clock h := h
  turn h := h
  ahead a :=
    { a with
      write := fun i w ew => by
        have later := lead_past s.ftu.frame (s.hac.buses[b].delay + 1) (by omega) (by have := a.delay b; omega)
        rw [← effective_frame] at later
        unfold State.channel Hac.send at ew
        dsimp only at ew
        rw [Fin.getElem_fin, upd_entry] at ew
        split at ew
        · cases ew
          exact later
        · exact a.write i w ew
      settle := fun i x ex => by
        unfold State.channel Hac.send at ex
        dsimp only at ex
        rw [Fin.getElem_fin, upd_entry] at ex
        split at ex
        · exact afterSend_ends _ _ (a.delay b) _ (fun l => settleLength_le _ _ _ l) _ (a.settle i) x ex
        · exact a.settle i x ex
      delay := fun g => by
        show (s.hac.send b s.ftu.frame e).buses[g].delay ≤ 63
        rw [send_delay]
        exact a.delay g }

theorem busOpportunity_within (b : Group) (s : State) : s.within (busOpportunity b s) := by
  unfold busOpportunity Hac.opportunity
  split
  · have used : s.within { s with hac := s.hac.onBus b fun u => { u with taken := true } } :=
      alike_within { delay := upd_read _ b _ PreampBus.delay fun _ => rfl }
    dsimp only
    split
    · exact within_trans used (send_within b _ _)
    · exact used
  · exact within_refl s

/-! ### The rest of the frame -/

theorem lateArrivals_within (s : State) : s.within (lateArrivals s) := alike_within {}

theorem missingLinks_within (s : State) : s.within (missingLinks s) :=
  foldl_within _ (fun t p => missingLink_within p t) _ s

theorem scenesDue_within (s : State) : s.within (scenesDue s) :=
  within_trans (within_trans (within_trans (sceneDue_within s) (sceneDue_within _)) (sceneDue_within _))
    (sceneDue_within _)

theorem busOpportunities_within (s : State) : s.within (busOpportunities s) :=
  foldl_within _ (fun t b => busOpportunity_within b t) _ s

theorem afterRound_within (s : State) : s.within (afterRound s) :=
  within_trans (lateArrivals_within s) (within_trans (missingLinks_within _) (within_trans (revertTimer_within _)
    (within_trans (holdoverTimer_within _) (within_trans (scenesDue_within _) (busOpportunities_within _)))))

/-- Everything of a frame after its frame step, samples and period ends. -/
theorem frameEvents_within (s : State) : (beforeRequests s).within (frameEvents s) :=
  within_trans (round_within _) (afterRound_within _)

/-! ### The clock condition kept by every command -/

theorem becomeReady_clockSound {s : State} (h : s.clockSound) : (becomeReady s).clockSound := by
  unfold becomeReady
  split
  · next kind j complete => exact clockSound_of_same h rfl (fun _ => rfl) (by simp [takeSettings, complete])
  · exact h

theorem nextFrame_clockSound {s : State} (h : s.clockSound) : (nextFrame s).clockSound :=
  clockSound_of_same h rfl (fun f => by simp [State.online, nextFrame]) Iff.rfl

theorem transmit_clockSound {s : State} (h : s.clockSound) : (transmit s).clockSound :=
  clockSound_of_same h rfl (fun _ => rfl) Iff.rfl

theorem tick_clockSound {s : State} (h : s.clockSound) : (tick s).clockSound := by
  have events := (frameEvents_within s).clock (quiet_clockSound (beforeRequests_quiet s) h)
  exact becomeReady_clockSound (nextFrame_clockSound (transmit_clockSound events))

theorem converterOutcome_quiet (g : Group) (x : Option (List Sample)) (s : State) :
    s.quiet (converterOutcome g x s) := by
  unfold converterOutcome
  exact quiet_trans (blocks_quiet s _ s.smu s.tgu s.hac s.lmu s.stepped) (notifyWhere_quiet _ _ _)

theorem settleEnd_quiet (i : Input) (s : State) : s.quiet (settleEnd i s) :=
  blocks_quiet s s.cvp s.smu s.tgu (settleEnd i s).hac s.lmu s.stepped

theorem mapInForce_quiet (f : Feed) (s : State) : s.quiet (mapInForce f s) :=
  blocks_quiet s s.cvp (mapInForce f s).smu s.tgu s.hac s.lmu s.stepped

theorem submit_clockSound (f : Feed) (m : Message) {s : State} (h : s.clockSound) : (submit f m s).clockSound := by
  unfold submit
  split
  · split
    · have reached := (roundUpTo_within f _).clock (quiet_clockSound (beforeRequests_quiet s) h)
      exact (grant_within f m _).clock reached
    · exact clockSound_of_same h rfl (fun _ => rfl) Iff.rfl
  · exact h

theorem builtinSources_nodup : builtinSources.Nodup := by decide

/-- Whatever the image's bytes, the list it gives is sound (R9, R16). -/
theorem sectionSources_listFits (b : List Byte) : listFits (sectionSources b) := by
  have builtin : listFits builtinSources := ⟨by decide, by decide, by decide⟩
  unfold sectionSources
  dsimp only
  split
  · exact builtin
  · next few =>
    cases e : sourcesOf (((b.drop 3).take (at8 b 2).toNat).map (·.toNat)) with
    | none => exact builtin
    | some x => exact sourcesOf_listFits _ (by rw [List.length_take]; omega) x e

theorem settings_listFits (j : Judgement) : listFits j.settings.sources := by
  cases j with
  | valid sections => exact sectionSources_listFits sections
  | invalid => exact ⟨by decide, by decide, by decide⟩

/-- The end of a read: the power-on load evaluates the list of the image, with the clock FREE until then (R13, R16). -/
theorem completeLoad_clockSound (r : EepromRead) {s : State} (h : s.clockSound) : (completeLoad r s).clockSound := by
  unfold completeLoad
  split
  · next kind load =>
    cases kind with
    | restart => exact clockSound_of_same h rfl (fun _ => rfl) (by simp [load])
    | powerOn =>
      obtain ⟨-, h⟩ := (clockSound_iff s).1 h
      have fit := agrees_timersFit h
      have same (a : ClockSource → Bool) (x : Settings) :=
        evaluate_sameBut a (s.ftu.replaceList x.sources (some (x.revertDelay, x.holdoverLimit)))
      rw [clockSound_iff]
      refine ⟨?_, ?_⟩
      · show listFits (Ftu.evaluate _ _).sources
        rw [same]
        exact settings_listFits _
      · have agrees (a : ClockSource → Bool) (x : Settings) (booting : Prop) (awake : ¬ booting) :=
          evaluate_agrees (a := a) awake
            (show Ftu.timersFit (s.ftu.replaceList x.sources (some (x.revertDelay, x.holdoverLimit))) from fit)
        have e : State.available (loadClock (judgeRead s.sil.eeprom r).settings { s with sil :=
            { s.sil with
              load := .complete .powerOn (judgeRead s.sil.eeprom r), eeprom := EepromRead.bytes s.sil.eeprom r } }) =
            s.available := by
          refine available_congr ?_ fun _ => rfl
          show (Ftu.evaluate _ _).wordclock = _
          rw [same]
          rfl
        rw [e]
        exact agrees _ _ _ (fun c => nomatch c)
  · exact h

theorem completeSave_clockSound (x : SaveEnd) {s : State} (h : s.clockSound) : (completeSave x s).clockSound := by
  unfold completeSave
  split
  · exact h
  · next sections _ =>
    refine quiet_clockSound (notifyIf_quiet _ _ _ _) ?_
    exact clockSound_of_same h rfl (fun _ => rfl) Iff.rfl

theorem powerOn_clockSound (s : State) : (powerOn s).clockSound :=
  ⟨Nat.le_add_left 1 1, Nat.le_add_right 2 2, builtinSources_nodup, fun _ => rfl, rfl, rfl, fun h => absurd rfl h⟩

/-- A request command hands its request to `submit`. -/
theorem exec_request {c : Instr} {f : Feed} {tag kind : Byte} {ps : List Byte}
    (h : c.request = some (f, tag, kind, ps)) (s : State) :
    exec c s = .next (submit f { tag := tag, kind := kind, params := ps } s) := by
  cases c <;> cases h <;> rfl

theorem next_clockSound {s t : State} (h : s.clockSound)
    (e : (Host.Outcome.next s : Host.Outcome State Fault Refusal) = .next t) : t.clockSound := by
  cases e
  exact h

theorem exec_clockSound (c : Instr) {s t : State} (h : s.clockSound) (e : exec c s = .next t) : t.clockSound := by
  cases req : c.request with
  | some r =>
    obtain ⟨f, tag, kind, ps⟩ := r
    rw [exec_request req] at e
    exact next_clockSound (submit_clockSound f _ h) e
  | none =>
    have opened := quiet_clockSound (openFrame_quiet s) h
    cases c with
    | reset => exact next_clockSound (powerOn_clockSound s) e
    | frameTick => exact next_clockSound (tick_clockSound h) e
    | converterFrame g x => exact next_clockSound (quiet_clockSound (converterOutcome_quiet g _ s) h) e
    | upstreamFrame p x late => exact next_clockSound ((portOutcome_within _ _ late (judgeUpstream x) s).clock h) e
    | wordclockPresent => exact next_clockSound (wordclockPresent_clockSound h) e
    | wordclockAbsent => exact next_clockSound (wordclockAbsent_clockSound h) e
    | revertTimerExpiry => exact next_clockSound (revertTimer_clockSound h) e
    | holdoverTimerExpiry => exact next_clockSound (holdoverTimer_clockSound h) e
    | busSendOpportunity b => exact next_clockSound ((busOpportunity_within b _).clock opened) e
    | effectiveEvent i => exact next_clockSound (quiet_clockSound (effective_quiet i s) h) e
    | settleMuteEnd i => exact next_clockSound (quiet_clockSound (settleEnd_quiet i s) h) e
    | sceneExecution => exact next_clockSound ((sceneDue_within _).clock opened) e
    | meterPeriodEnd f => exact next_clockSound (quiet_clockSound (periodEnd_quiet f _) opened) e
    | pendingMapInForce f => exact next_clockSound (quiet_clockSound (mapInForce_quiet f s) h) e
    | pendingLawInEffect => exact next_clockSound (quiet_clockSound (lawInEffect_quiet s) h) e
    | loadComplete x => exact next_clockSound (completeLoad_clockSound x h) e
    | saveComplete x => exact next_clockSound (completeSave_clockSound x h) e
    | _ => cases req

/-- Settles O60: a step takes the command at the front of the queue, and every command keeps the condition. -/
theorem clockStaysSound : Obligations.ClockStaysSound := by
  intro s t h e
  unfold step at e
  split at e
  · cases e
    exact h
  · next c rest _ => exact exec_clockSound c (s := { s with pending := rest }) h e

end Sys2Proof.Machine
end

section
/-! PROOFS. FRAME_TICK as the commands of the events it takes, and what it moves besides them (R1, R2, R4, R124, R128, R145,
R148). -/

namespace Sys2Proof.Machine

/-! ### Commands one after another -/

theorem runAll_append (a b : List Instr) (s : State) : runAll (a ++ b) s = runAll b (runAll a s) :=
  List.foldl_append

theorem runAll_single {c : Instr} {s t : State} (h : exec c s = .next t) : runAll [c] s = t := by
  simp [runAll, h]

/-- Commands of one form are the fold of what they do. -/
theorem runAll_map {α : Type} {c : α → Instr} {g : α → State → State} (h : ∀ a s, exec (c a) s = .next (g a s))
    (l : List α) (s : State) : runAll (l.map c) s = l.foldl (fun x a => g a x) s := by
  simp [runAll, List.foldl_map, h]

theorem openFrame_of_stepped {s : State} (h : s.stepped = true) : openFrame s = s := if_pos h

/-- Commands that would open the frame, in a frame that is open. -/
theorem runAll_opened {α : Type} {c : α → Instr} {g : α → State → State}
    (h : ∀ a s, exec (c a) s = .next (g a (openFrame s))) (keeps : ∀ a s, (g a s).stepped = s.stepped) (l : List α)
    {s : State} (stepped : s.stepped = true) : runAll (l.map c) s = l.foldl (fun x a => g a x) s := by
  induction l generalizing s with
  | nil => rfl
  | cons a l ih =>
    have first : runAll [c a] s = g a s := runAll_single (by rw [h, openFrame_of_stepped stepped])
    rw [List.map_cons, ← List.singleton_append, runAll_append, first, List.foldl_cons]
    exact ih ((keeps a s).trans stepped)

/-! ### Before the frame step -/

/-- Updates of distinct entries one after another, entry by entry. -/
theorem foldl_upd_entry {α : Type} {n : Nat} (g : Fin n → α → α) (l : List (Fin n)) (nodup : l.Nodup) (v : Vector α n)
    (j : Fin n) : (l.foldl (fun v i => upd v i (g i)) v)[j] = if j ∈ l then g j v[j] else v[j] := by
  induction l generalizing v with
  | nil => rfl
  | cons i l ih =>
    obtain ⟨fresh, nodup⟩ := List.nodup_cons.1 nodup
    rw [List.foldl_cons, ih nodup, Fin.getElem_fin, upd_entry]
    by_cases e : j = i
    · subst e
      simp [fresh]
    · have ne : ¬ i.val = j.val := fun h => e (Fin.ext h.symm)
      simp [e, ne]

/-- Updates of all entries one after another are one update of all. -/
theorem foldl_upd_all {α : Type} {n : Nat} (g : Fin n → α → α) (v : Vector α n) :
    (List.finRange n).foldl (fun v i => upd v i (g i)) v = mapAll g v :=
  entries_ext fun j => by
    rw [foldl_upd_entry g _ (List.nodup_finRange n) v j]
    simp

theorem foldl_settleEnd (l : List Input) (s : State) :
    l.foldl (fun x i => settleEnd i x) s =
      { s with hac := { s.hac with
        channels := l.foldl (fun v i => upd v i fun c => c.endSettle s.ftu.frame) s.hac.channels } } := by
  induction l generalizing s with
  | nil => rfl
  | cons i l ih => rw [List.foldl_cons, ih, List.foldl_cons]; rfl

/-- The settle mute ends of all channels at once are those of each (R83). -/
theorem settleEnds_eq (s : State) : settleEnds s = (List.finRange 48).foldl (fun x i => settleEnd i x) s := by
  rw [foldl_settleEnd, foldl_upd_all (n := 48) fun _ (c : Channel) => c.endSettle s.ftu.frame]
  rfl

theorem foldl_mapInForce (l : List Feed) (s : State) :
    l.foldl (fun x f => mapInForce f x) s =
      { s with smu := { s.smu with
        maps := l.foldl (fun v f => upd v f fun m => m.advance s.ftu.frame) s.smu.maps } } := by
  induction l generalizing s with
  | nil => rfl
  | cons i l ih => rw [List.foldl_cons, ih, List.foldl_cons]; rfl

/-- The pending maps of all feeds at once are those of each (R25). -/
theorem mapsInForce_eq (s : State) : mapsInForce s = (List.finRange 4).foldl (fun x f => mapInForce f x) s := by
  rw [foldl_mapInForce, foldl_upd_all (n := 4) fun _ (m : FeedMap) => m.advance s.ftu.frame]
  rfl

/-- The events before the frame step, as commands (R2, R4). -/
theorem beforeStep_runAll (s : State) :
    beforeStep s =
      (List.finRange 48).foldl (fun x i => runAll [.effectiveEvent i] x)
        ((List.finRange 6).foldl (fun x g => if x.cvp.ports[g].judged then x else runAll [.converterFrame g none] x)
          (runAll ((List.finRange 48).map Instr.settleMuteEnd ++ (List.finRange 4).map Instr.pendingMapInForce ++
            [.pendingLawInEffect]) s)) := by
  have due : runAll ((List.finRange 48).map Instr.settleMuteEnd ++ (List.finRange 4).map Instr.pendingMapInForce ++
      [.pendingLawInEffect]) s = lawInEffect (mapsInForce (settleEnds s)) := by
    rw [runAll_append, runAll_append, runAll_map (g := settleEnd) fun _ _ => rfl, ← settleEnds_eq,
      runAll_map (g := mapInForce) fun _ _ => rfl, ← mapsInForce_eq]
    exact runAll_single rfl
  rw [due]
  rfl

/-! ### Before the round -/

theorem meterBlock_alike (f : Feed) (peaks : List (Input × Nat)) (s : State) : s.alike (meterBlock f peaks s) := by
  unfold meterBlock
  split
  · exact alike_refl s
  · exact notifyIf_alike _ _ _ _

theorem meterBlocks_alike (f : Feed) (peaks : List (Input × Nat)) (s : State) : s.alike (meterBlocks f peaks s) :=
  alike_trans (alike_trans (meterBlock_alike _ _ _) (meterBlock_alike _ _ _)) (meterBlock_alike _ _ _)

theorem periodEnd_stepped (f : Feed) (s : State) : (periodEnd f s).stepped = s.stepped := by
  unfold periodEnd
  split
  · split
    · rw [(meterBlocks_alike _ _ _).stepped]
    · rfl
  · rfl

/-- The period ends, as commands (R154). -/
theorem beforeRequests_runAll (s : State) :
    beforeRequests s =
      runAll [.meterPeriodEnd 0, .meterPeriodEnd 1, .meterPeriodEnd 2, .meterPeriodEnd 3] (openFrame s) :=
  (runAll_opened (c := Instr.meterPeriodEnd) (g := periodEnd) (fun _ _ => rfl) periodEnd_stepped [0, 1, 2, 3]
    (openFrame_stepped s)).symm

theorem beforeRequests_stepped (s : State) : (beforeRequests s).stepped = true := by
  unfold beforeRequests periodEnds
  simp only [periodEnd_stepped, openFrame_stepped]

/-! ### After the round -/

/-- What a request that waited for the round does to its lane (R144, R145). -/
theorem arriveLate_eq (l : Lane) :
    l.arriveLate =
      match l.arriving with
      | none => l
      | some m =>
        if l.requests.length < 8 then { l with arriving := none, requests := l.requests ++ [m] }
        else if l.responses.length < 8 then
          { l with arriving := none, responses := l.responses ++ [{ m with params := [10] }] }
        else { l with arriving := none } := by
  unfold Lane.arriveLate Lane.arrive
  cases l.arriving with
  | none => rfl
  | some m =>
    dsimp only
    split
    · rfl
    · split <;> rfl

/-- The ports that received nothing, as commands (R128). -/
theorem missingLinks_runAll (s : State) :
    missingLinks s =
      (List.finRange 8).foldl (fun x p => if x.lnk.ports[p].judged then x else runAll [.upstreamFrame p [] false] x) s :=
  rfl

/-- The timers, the due scenes and the send opportunities, as commands of an open frame. -/
theorem afterLinks_runAll {s : State} (stepped : s.stepped = true) :
    busOpportunities (scenesDue (holdoverTimer (revertTimer s))) =
      runAll ([.revertTimerExpiry, .holdoverTimerExpiry] ++ List.replicate 4 .sceneExecution ++
        (List.finRange 6).map Instr.busSendOpportunity) s := by
  have timers : runAll [.revertTimerExpiry, .holdoverTimerExpiry] s = holdoverTimer (revertTimer s) := rfl
  have open1 : (holdoverTimer (revertTimer s)).stepped = true := by
    rw [holdoverTimer_stepped, revertTimer_stepped, stepped]
  have scenes : runAll (List.replicate 4 .sceneExecution) (holdoverTimer (revertTimer s)) =
      scenesDue (holdoverTimer (revertTimer s)) :=
    runAll_opened (c := fun _ : Unit => Instr.sceneExecution) (g := fun _ => sceneDue) (fun _ _ => rfl)
      (fun _ x => (sceneDue_within x).stepped) (List.replicate 4 ()) open1
  rw [runAll_append, runAll_append, timers, scenes]
  exact (runAll_opened (g := busOpportunity) (fun _ _ => rfl) (fun b x => (busOpportunity_within b x).stepped) _
    ((scenesDue_within _).stepped.trans open1)).symm

/-- The requests that waited for the round join their queues (R144, R145). -/
theorem lateArrivals_eq (v : State) :
    lateArrivals v = { v with cle := { v.cle with lanes := tab fun f => (v.lane f).arriveLate } } := rfl

/-- All the events after the round, as commands (R2, R128, R145). -/
theorem afterRound_runAll {v : State} (stepped : v.stepped = true) :
    afterRound v =
      runAll ([.revertTimerExpiry, .holdoverTimerExpiry] ++ List.replicate 4 .sceneExecution ++
          (List.finRange 6).map Instr.busSendOpportunity)
        ((List.finRange 8).foldl (fun x p => if x.lnk.ports[p].judged then x else runAll [.upstreamFrame p [] false] x)
          (lateArrivals v)) := by
  rw [← missingLinks_runAll]
  exact afterLinks_runAll (((missingLinks_within _).stepped.trans (lateArrivals_within v).stepped).trans stepped)

/-! ### The end of the frame -/

/-- Unless a load has just completed, the end of the frame changes nothing of the settings (R161). -/
theorem becomeReady_cases (s : State) :
    ((∀ kind j, s.sil.load ≠ .complete kind j) ∧ becomeReady s = s) ∨
      ∃ kind j, s.sil.load = .complete kind j ∧ becomeReady s = takeSettings kind j s := by
  unfold becomeReady
  split
  · next kind j e => exact .inr ⟨kind, j, e, rfl⟩
  · next no => exact .inl ⟨no, rfl⟩

theorem loadedHac_landed (kind : LoadKind) (x : Settings) (h : Hac) : (loadedHac kind x h).landed = h.landed := by
  cases kind <;> rfl

theorem loadedHac_taken (kind : LoadKind) (x : Settings) (h : Hac) (g : Group) :
    (loadedHac kind x h).buses[g].taken = h.buses[g].taken := by
  cases kind <;> simp [loadedHac, loadDesired, loadChannels, loadHac]

/-- What the end of the frame keeps, whether or not a load has just completed (R161). -/
theorem becomeReady_keeps (s : State) :
    (becomeReady s).ftu = { s.ftu with rate := (becomeReady s).ftu.rate } ∧ (becomeReady s).lnk = s.lnk ∧
      (becomeReady s).cle = { s.cle with supervisor := (becomeReady s).cle.supervisor } ∧
      (becomeReady s).cvp = s.cvp ∧ (becomeReady s).scu = s.scu ∧
      (becomeReady s).lmu.subscriptions = s.lmu.subscriptions ∧ (becomeReady s).stepped = s.stepped ∧
      (becomeReady s).pending = s.pending ∧ (becomeReady s).hac.landed = s.hac.landed ∧
      ∀ g : Group, (becomeReady s).hac.buses[g].taken = s.hac.buses[g].taken := by
  rcases becomeReady_cases s with ⟨-, e⟩ | ⟨kind, j, -, e⟩
  · rw [e]
    exact ⟨rfl, rfl, rfl, rfl, rfl, rfl, rfl, rfl, rfl, fun _ => rfl⟩
  · rw [e]
    exact ⟨rfl, rfl, rfl, rfl, rfl, rfl, rfl, rfl, loadedHac_landed _ _ _, loadedHac_taken _ _ _⟩

/-- Settles O3. -/
theorem frameTickCompletesFrame : Obligations.FrameTickCompletesFrame := by
  refine ⟨fun s _ => beforeStep_runAll s, fun s => ⟨beforeRequests_runAll s, ?_⟩⟩
  intro v joined late
  have within := frameEvents_within s
  obtain ⟨ftu, -, sil, pending, -⟩ := beforeRequests_quiet s
  refine ⟨?_, tick s, rfl, ?_⟩
  · have stepped : v.stepped = true := (round_within _).stepped.trans (beforeRequests_stepped s)
    rw [show frameEvents s = afterRound v from rfl]
    clear_value v
    rw [afterRound_runAll stepped, lateArrivals_eq]
    simp only [arriveLate_eq] <;> rfl
  · intro w
    have frame : w.ftu.frame = s.ftu.frame := by rw [within.frame, ftu]
    have waiting : w.pending = s.pending := by rw [within.pending, pending]
    have load : (∀ kind j, s.sil.load ≠ .complete kind j) → ∀ kind j, w.sil.load ≠ .complete kind j := by
      intro none kind j c
      rcases within.load with same | ⟨-, restart⟩
      · exact none kind j (by rw [← sil, ← same, c])
      · exact nomatch restart.symm.trans c
    rw [show tick s = becomeReady (nextFrame (transmit w)) from rfl]
    clear_value w
    clear within v joined late
    obtain ⟨kftu, klnk, kcle, kcvp, kscu, ksub, kstep, kpend, kland, ktaken⟩ :=
      becomeReady_keeps (nextFrame (transmit w))
    refine ⟨?_, fun p => ?_, fun f => ?_, ?_, fun g => ?_, ?_, kscu, ksub, kstep, kpend.trans waiting, fun i => ?_,
      fun g => ?_, fun none => ?_⟩
    · rw [← frame]
      exact kftu
    · rw [klnk]
      simp [nextFrame, transmit]
    · rw [klnk]
      simp [nextFrame, transmit]
    · exact kcle
    · rw [kcvp]
      simp [nextFrame, transmit]
    · rw [kcvp]
      rfl
    · rw [kland]
      simp [nextFrame]
    · rw [ktaken]
      simp [nextFrame]
    · rcases becomeReady_cases (nextFrame (transmit w)) with ⟨-, e⟩ | ⟨kind, j, c, -⟩
      · rw [e]
        exact ⟨rfl, rfl, rfl, rfl, rfl, rfl, rfl⟩
      · exact absurd c (load none kind j)

end Sys2Proof.Machine
end

section
/-! PROOFS. After FRAME_TICK nothing that was due in its frame waits any more (R2). -/

namespace Sys2Proof.Machine

theorem lead_eq_zero {x n : FrameNo} (h : lead x n = 0) : x = n := by
  apply BitVec.eq_of_toNat_eq
  simp only [lead, BitVec.toInt_eq_toNat_cond, BitVec.toNat_sub] at h
  omega

/-- A frame number that is not past and is due is the present one (R2). -/
theorem eq_of_due {x n : FrameNo} (ahead : 0 ≤ lead x n) (h : due x n = true) : x = n := by
  rw [due_iff, lead_swap ahead] at h
  exact lead_eq_zero (by omega)

theorem not_due {x n : FrameNo} (h : ¬ due x n = true) : lead n x < 0 := by
  rw [due_iff] at h
  omega

theorem foldl_read {α β : Type} (step : State → α → State) (p : State → β) (h : ∀ s a, p (step s a) = p s) (l : List α)
    (s : State) : p (l.foldl step s) = p s := by
  induction l generalizing s with
  | nil => rfl
  | cons a l ih => exact (ih _).trans (h s a)

/-! ### Writes -/

theorem announceLive_alike (i : Input) (d : Int) (s : State) : s.alike (announceLive i d s) :=
  alike_trans
    (alike_trans (alike_trans (alike_trans (changeTap_alike _ _ _ _) (changeTap_alike _ _ _ _)) (changeTap_alike _ _ _ _))
      (changeTap_alike _ _ _ _))
    (notifyWhere_alike _ _ _)

/-- An effective event: nothing in flight is due, or what is due becomes live (R84). -/
theorem effective_cases (i : Input) (s : State) :
    (effective i s = s ∧ ∀ w, (s.channel i).inFlight = some w → lead s.ftu.frame w.effective < 0) ∨
      ∃ v, State.alike { s with hac := s.hac.makeLive s.ftu.frame i v } (effective i s) := by
  unfold effective
  cases flight : (s.channel i).inFlight with
  | none => exact .inl ⟨rfl, fun w e => nomatch e⟩
  | some w =>
    dsimp only
    split
    · exact .inr ⟨w.value, announceLive_alike _ _ _⟩
    · next early =>
      refine .inl ⟨rfl, fun v e => ?_⟩
      cases e
      exact not_due early

theorem makeLive_inFlight (n : FrameNo) (i j : Input) (v : HeadAmp) (h : Hac) :
    (h.makeLive n i v).channels[j].inFlight = if j = i then none else h.channels[j].inFlight := by
  unfold Hac.makeLive
  rw [Fin.getElem_fin, upd_entry]
  by_cases e : j = i
  · subst e
    simp
  · have ne : ¬ i.val = j.val := fun h => e (Fin.ext h.symm)
    simp [e, ne]

theorem makeLive_settle (n : FrameNo) (i j : Input) (v : HeadAmp) (h : Hac) :
    (h.makeLive n i v).channels[j].settle = h.channels[j].settle := by
  unfold Hac.makeLive
  apply upd_read (p := Channel.settle)
  intro c
  rfl

/-- What the events up to the period ends leave alone: what waits, but for the writes and the meter periods. -/
structure State.near (s t : State) : Prop where
  ftu : t.ftu = s.ftu := by rfl
  settle : ∀ i, (t.channel i).settle = (s.channel i).settle := by intros; rfl
  delay : ∀ g : Group, t.hac.buses[g].delay = s.hac.buses[g].delay := by intros; rfl
  smu : t.smu = s.smu := by rfl
  law : t.tgu.pending = s.tgu.pending := by rfl
  scheduled : t.scu.scheduled = s.scu.scheduled := by rfl

theorem near_trans {s t u : State} (a : s.near t) (b : t.near u) : s.near u where
  ftu := b.ftu.trans a.ftu
  settle i := (b.settle i).trans (a.settle i)
  delay g := (b.delay g).trans (a.delay g)
  smu := b.smu.trans a.smu
  law := b.law.trans a.law
  scheduled := b.scheduled.trans a.scheduled

theorem alike_near {s t : State} (h : s.alike t) : s.near t :=
  ⟨h.ftu, h.settle, h.delay, h.smu, h.law, h.scheduled⟩

theorem makeLive_near (i : Input) (v : HeadAmp) (s : State) :
    s.near { s with hac := s.hac.makeLive s.ftu.frame i v } where
  settle j := makeLive_settle _ i j v s.hac

theorem effective_near (i : Input) (s : State) : s.near (effective i s) := by
  rcases effective_cases i s with ⟨same, -⟩ | ⟨v, live⟩
  · rw [same]
    exact {}
  · exact near_trans (makeLive_near i v s) (alike_near live)

theorem effective_subscriptions (i : Input) (s : State) : (effective i s).lmu.subscriptions = s.lmu.subscriptions := by
  rcases effective_cases i s with ⟨same, -⟩ | ⟨v, live⟩
  · rw [same]
  · exact live.subscriptions

/-- The write in flight of channel `j`, if there is one, is not due. -/
def State.writeAhead (s : State) (j : Input) : Prop :=
  ∀ w, (s.channel j).inFlight = some w → lead s.ftu.frame w.effective < 0

/-- An effective event leaves no write of its channel due, and makes none due. -/
theorem effective_writeAhead (i j : Input) (s : State) (h : j = i ∨ s.writeAhead j) : (effective i s).writeAhead j := by
  intro w e
  rw [(effective_near i s).ftu]
  rcases effective_cases i s with ⟨same, ahead⟩ | ⟨v, live⟩
  · rw [same] at e
    rcases h with rfl | h
    · exact ahead w e
    · exact h w e
  · have flight := (live.inFlight j).trans (makeLive_inFlight s.ftu.frame i j v s.hac)
    rw [flight] at e
    rcases h with rfl | h
    · rw [if_pos rfl] at e
      cases e
    · split at e
      · cases e
      · exact h w e

theorem foldl_effective_writeAhead (l : List Input) (s : State) (j : Input) (h : j ∈ l ∨ s.writeAhead j) :
    (l.foldl (fun x i => effective i x) s).writeAhead j := by
  induction l generalizing s with
  | nil =>
    rcases h with h | h
    · cases h
    · exact h
  | cons i l ih =>
    rw [List.foldl_cons]
    apply ih
    by_cases listed : j ∈ l
    · exact .inl listed
    · refine .inr (effective_writeAhead i j s ?_)
      rcases h with h | h
      · rcases List.mem_cons.1 h with e | h
        · exact .inl e
        · exact absurd h listed
      · exact .inr h

/-- After the effective events of a frame no write is due (R84). -/
theorem effectiveEvents_writeAhead (s : State) (j : Input) : (effectiveEvents s).writeAhead j :=
  foldl_effective_writeAhead inputs s j (.inl (List.mem_finRange j))

theorem foldl_near {α : Type} (step : State → α → State) (h : ∀ (s : State) (a : α), s.near (step s a)) (l : List α) (s : State) :
    s.near (l.foldl step s) := by
  induction l generalizing s with
  | nil => exact {}
  | cons a l ih => exact near_trans (h s a) (ih _)

theorem effectiveEvents_near (s : State) : s.near (effectiveEvents s) :=
  foldl_near (fun t i => effective i t) (fun t i => effective_near i t) inputs s

theorem effectiveEvents_subscriptions (s : State) : (effectiveEvents s).lmu.subscriptions = s.lmu.subscriptions := by
  unfold effectiveEvents
  exact foldl_read (fun t i => effective i t) (fun t => t.lmu.subscriptions) (fun t i => effective_subscriptions i t) inputs s

/-! ### Before the frame step -/

theorem converterOutcome_alike (g : Group) (x : Option (List Sample)) (s : State) : s.alike (converterOutcome g x s) := by
  unfold converterOutcome
  dsimp only
  rw [notifyWhere_told]
  exact alike_trans {} (told_alike _ _)

theorem missingConverters_alike (s : State) : s.alike (missingConverters s) := by
  refine foldl_alike (fun t g => missingConverter g t) (fun t g => ?_) (List.finRange 6) s
  unfold missingConverter
  split
  · exact alike_refl t
  · exact converterOutcome_alike _ _ _

/-- After its settle mute ends, no settle mute has ended before the frame in progress (R83). -/
theorem endSettle_ahead {n : FrameNo} {c : Channel} {x : FrameNo} (h : (c.endSettle n).settle = .ends x) :
    0 ≤ lead x n := by
  unfold Channel.endSettle at h
  split at h
  · next y e =>
    split at h
    · next later =>
      rw [e] at h
      cases h
      exact (notAfter_iff n x).1 later
    · cases h
  · next other => exact absurd h (other x)

/-- A map still pending in a frame is in force from a later one on (R25). -/
theorem advance_map_ahead {n : FrameNo} {m : FeedMap} {p : PendingMap} (h : (m.advance n).pending = some p) :
    lead n p.start < 0 := by
  unfold FeedMap.advance at h
  split at h
  · next q e =>
    split at h
    · cases h
    · next early =>
      rw [e] at h
      cases h
      exact not_due early
  · next e =>
    rw [e] at h
    cases h

/-- A gain law still pending in a frame takes effect in a later one (R67). -/
theorem advance_law_ahead {n : FrameNo} {u : Tgu} {p : PendingLaw} (h : (u.advance n).pending = some p) :
    lead n p.start < 0 := by
  unfold Tgu.advance at h
  split at h
  · next q e =>
    split at h
    · cases h
    · next early =>
      rw [e] at h
      cases h
      exact not_due early
  · next e =>
    rw [e] at h
    cases h

/-! ### Samples and period ends -/

theorem clipNotice_alike (captured : Input → Bool) (i : Input) (s : State) : s.alike (clipNotice captured i s) := by
  unfold clipNotice
  exact notifyWhere_alike _ _ _

/-- The subscriptions replaced. -/
def State.withSubscriptions (s : State) (x : Vector (Option Subscription) 4) : State :=
  { s with lmu := { s.lmu with subscriptions := x } }

theorem withSubscriptions_near (s : State) (x : Vector (Option Subscription) 4) : s.near (s.withSubscriptions x) := {}

/-- Every accumulator of the part takes the samples of the frame (R154). -/
def State.sampledSubscriptions (s : State) : Vector (Option Subscription) 4 :=
  mapAll (fun _ u => u.map (Subscription.take fun i => magnitude (s.sample i))) s.lmu.subscriptions

/-- The samples change no more of what waits than the accumulators (R154). -/
theorem takeSamples_alike (s : State) : (s.withSubscriptions s.sampledSubscriptions).alike (takeSamples s) := by
  unfold takeSamples
  generalize (fun i : Input => s.lmu.clips[i].captures (magnitude (s.sample i))) = captured
  exact alike_trans (t := { s with lmu := { subscriptions := s.sampledSubscriptions, clips := tab s.testedClip } }) {}
    (foldl_alike (fun t i => clipNotice captured i t) (fun t i => clipNotice_alike captured i t) inputs _)

theorem takeSamples_near (s : State) : s.near (takeSamples s) :=
  near_trans (withSubscriptions_near s _) (alike_near (takeSamples_alike s))

theorem stepTaps_alike (s : State) : s.alike (stepTaps s) := {}

/-- A subscription whose period is due in frame `n` starts its next one (R154). -/
def Subscription.renewed (n : FrameNo) (u : Subscription) : Subscription := if due u.ends n then u.restart else u

/-- A period end: the due subscription starts its next period, and no other changes (R154). -/
theorem periodEnd_alike (f : Feed) (s : State) :
    (s.withSubscriptions (put s.lmu.subscriptions f (s.lmu.subscriptions[f].map (·.renewed s.ftu.frame)))).alike
      (periodEnd f s) := by
  have kept (x : Option Subscription) (h : x = s.lmu.subscriptions[f]) :
      (s.withSubscriptions (put s.lmu.subscriptions f x)).alike s := by
    have e : put s.lmu.subscriptions f x = s.lmu.subscriptions := upd_same _ f _ h
    rw [e]
    exact alike_refl s
  unfold periodEnd
  cases sub : s.lmu.subscriptions[f] with
  | none => exact kept _ sub.symm
  | some u =>
    rw [Option.map_some, Subscription.renewed]
    dsimp only
    split
    · exact meterBlocks_alike f u.peaks (s.withSubscriptions (put s.lmu.subscriptions f (some u.restart)))
    · exact kept _ sub.symm

theorem periodEnd_near (f : Feed) (s : State) : s.near (periodEnd f s) :=
  near_trans (withSubscriptions_near s _) (alike_near (periodEnd_alike f s))

theorem periodEnd_subscription (f g : Feed) (s : State) :
    (periodEnd f s).lmu.subscriptions[g] =
      if g = f then s.lmu.subscriptions[f].map (·.renewed s.ftu.frame) else s.lmu.subscriptions[g] := by
  rw [(periodEnd_alike f s).subscriptions, State.withSubscriptions, put_eq_tab, Fin.getElem_fin, tab_entry]

theorem periodEnds_near (s : State) : s.near (periodEnds s) :=
  near_trans (near_trans (near_trans (periodEnd_near _ _) (periodEnd_near _ _)) (periodEnd_near _ _))
    (periodEnd_near _ _)

theorem periodEnd_inFlight (f : Feed) (s : State) (i : Input) :
    ((periodEnd f s).channel i).inFlight = (s.channel i).inFlight :=
  (periodEnd_alike f s).inFlight i

theorem periodEnds_inFlight (s : State) (i : Input) :
    ((periodEnds s).channel i).inFlight = (s.channel i).inFlight := by
  simp only [periodEnds, periodEnd_inFlight]

/-- Every subscription whose period is due starts its next one. -/
theorem periodEnds_subscription (s : State) (f : Feed) :
    (periodEnds s).lmu.subscriptions[f] = s.lmu.subscriptions[f].map (·.renewed s.ftu.frame) := by
  unfold periodEnds
  simp only [periodEnd_subscription, (periodEnd_near _ _).ftu]
  fin_cases f <;> rfl

/-- A period that ends in the frame starts again, to end one period later (R154). -/
theorem renewed_ahead {n : FrameNo} {u : Subscription} (period : u.period ≠ 0) (ahead : 0 ≤ lead u.ends n) :
    lead n (u.renewed n).ends < 0 := by
  unfold Subscription.renewed
  split
  · next now =>
    show lead n (unitsAfter u.ends u.period.toNat) < 0
    rw [eq_of_due ahead now]
    exact lead_unitsAfter n u.period period
  · next later => exact not_due later

/-! ### Up to the requests -/

/-- A state whose frame step has been taken. -/
def State.opened (s : State) : State := { s with stepped := true }

theorem opened_near (s : State) : s.near s.opened := {}

theorem openFrame_eq (s : State) (h : s.stepped = false) :
    openFrame s = (takeSamples (stepTaps (beforeStep s))).opened := by
  unfold openFrame
  rw [h]
  rfl

theorem openFrame_near (s : State) (h : s.stepped = false) : (beforeStep s).near (openFrame s) := by
  rw [openFrame_eq s h]
  exact near_trans (near_trans (alike_near (stepTaps_alike _)) (takeSamples_near _)) (opened_near _)

theorem beforeStep_near (s : State) : (lawInEffect (mapsInForce (settleEnds s))).near (beforeStep s) :=
  near_trans (alike_near (missingConverters_alike _)) (effectiveEvents_near _)

theorem beforeStep_writeAhead (s : State) (j : Input) : (beforeStep s).writeAhead j := by
  unfold beforeStep
  exact effectiveEvents_writeAhead _ j

theorem beforeRequests_near (s : State) (h : s.stepped = false) :
    (lawInEffect (mapsInForce (settleEnds s))).near (beforeRequests s) :=
  near_trans (beforeStep_near s) (near_trans (openFrame_near s h) (periodEnds_near _))

theorem openFrame_inFlight (s : State) (h : s.stepped = false) (i : Input) :
    ((openFrame s).channel i).inFlight = ((beforeStep s).channel i).inFlight := by
  have opened (t : State) : (t.opened.channel i).inFlight = (t.channel i).inFlight := rfl
  rw [openFrame_eq s h, opened, (takeSamples_alike _).inFlight]
  generalize beforeStep s = t
  rfl

theorem beforeStep_subscriptions (s : State) : (beforeStep s).lmu.subscriptions = s.lmu.subscriptions := by
  unfold beforeStep
  rw [effectiveEvents_subscriptions, (missingConverters_alike _).subscriptions, lawInEffect_lmu, mapsInForce_lmu,
    settleEnds_lmu]

theorem takeSamples_subscription (t : State) (f : Feed) :
    (takeSamples (stepTaps t)).opened.lmu.subscriptions[f] =
      t.lmu.subscriptions[f].map (Subscription.take fun i => magnitude ((stepTaps t).sample i)) := by
  rw [State.opened, (takeSamples_alike _).subscriptions, State.withSubscriptions, State.sampledSubscriptions,
    Fin.getElem_fin, mapAll_entry, stepTaps_lmu]
  rfl

theorem openFrame_subscription (s : State) (h : s.stepped = false) (f : Feed) :
    ∃ mag, (openFrame s).lmu.subscriptions[f] = s.lmu.subscriptions[f].map (Subscription.take mag) := by
  rw [openFrame_eq s h, ← beforeStep_subscriptions s]
  generalize beforeStep s = t
  exact ⟨_, takeSamples_subscription t f⟩

/-- When the requests of a frame come, nothing that was due in it waits, but for scenes and timers (R2). -/
theorem beforeRequests_ahead {s : State} (h : s.stepped = false) (writes : s.writesSound) (meters : s.metersSound) :
    (beforeRequests s).aheadOf s.ftu.frame := by
  have near := beforeRequests_near s h
  obtain ⟨buses, -, -⟩ := writes
  obtain ⟨-, subs⟩ := meters
  refine ⟨fun i w e => ?_, fun i x e => ?_, fun f p e => ?_, fun p e => ?_, fun f u e => ?_, fun g => ?_⟩
  · have flight : ((beforeRequests s).channel i).inFlight = ((beforeStep s).channel i).inFlight :=
      (periodEnds_inFlight _ i).trans (openFrame_inFlight s h i)
    have frame : (beforeStep s).ftu = s.ftu := (beforeStep_near s).ftu
    rw [← frame]
    exact beforeStep_writeAhead s i w (flight.symm.trans e)
  · have settle : ((beforeRequests s).channel i).settle = ((s.channel i).endSettle s.ftu.frame).settle := by
      rw [near.settle i]
      simp [State.channel, lawInEffect, mapsInForce, settleEnds]
    exact endSettle_ahead (settle.symm.trans e)
  · rw [near.smu] at e
    simp only [lawInEffect, mapsInForce, settleEnds, Fin.getElem_fin, mapAll_entry] at e
    exact advance_map_ahead e
  · rw [near.law] at e
    exact advance_law_ahead e
  · obtain ⟨mag, opened⟩ := openFrame_subscription s h f
    have frame : (openFrame s).ftu = s.ftu := ((openFrame_near s h).ftu).trans (beforeStep_near s).ftu
    rw [beforeRequests, periodEnds_subscription, opened, frame] at e
    cases sub : s.lmu.subscriptions[f] with
    | none =>
      rw [sub] at e
      cases e
    | some v =>
      rw [sub] at e
      obtain ⟨period, -, -, -, -, ahead, -⟩ := subs f v sub
      cases e
      exact renewed_ahead (u := v.take mag) period ahead
  · rw [near.delay]
    exact (buses g).2.2.1

/-! ### Timers -/

/-- After its expiry the revert timer is not due (R11). -/
theorem revertExpiry_ahead {a : ClockSource → Bool} {booting : Prop} {u : Ftu} (h : u.agrees a booting)
    {d : ClockSource} {x : FrameNo} (e : u.revertExpiry.revertTimer = some (d, x)) : lead u.frame x < 0 := by
  unfold Ftu.revertExpiry at e
  split at e
  · next c y z clock timer =>
    split at e
    · cases e
    · next later =>
      rw [timer] at e
      cases e
      exact not_due later
  · next off =>
    obtain ⟨-, h⟩ := h
    cases clock : u.clock with
    | locked c => exact absurd e (off c d x clock)
    | holdover =>
      rw [clock] at h
      rw [h.2.1] at e
      cases e
    | free =>
      rw [clock] at h
      rw [h.2.1] at e
      cases e

/-- After its expiry the holdover timer is not due (R12). -/
theorem holdoverExpiry_ahead {a : ClockSource → Bool} {booting : Prop} {u : Ftu} (h : u.agrees a booting)
    {x : FrameNo} (e : u.holdoverExpiry.holdoverTimer = some x) : lead u.frame x < 0 := by
  unfold Ftu.holdoverExpiry at e
  split at e
  · next y clock timer =>
    split at e
    · cases e
    · next later =>
      rw [timer] at e
      cases e
      exact not_due later
  · next off =>
    obtain ⟨-, h⟩ := h
    cases clock : u.clock with
    | locked c =>
      rw [clock] at h
      rw [h.2.2.1] at e
      cases e
    | holdover => exact absurd e (off x clock)
    | free =>
      rw [clock] at h
      rw [h.1] at e
      cases e

theorem holdoverExpiry_revertTimer (u : Ftu) : u.holdoverExpiry.revertTimer = u.revertTimer := by
  unfold Ftu.holdoverExpiry
  repeat' split
  all_goals rfl

/-- Neither timer is due at frame `n`. -/
def Ftu.timersAhead (n : FrameNo) (u : Ftu) : Prop :=
  (∀ d x, u.revertTimer = some (d, x) → lead n x < 0) ∧ ∀ x, u.holdoverTimer = some x → lead n x < 0

theorem timers_ahead {s : State} (h : s.clockSound) :
    (holdoverTimer (revertTimer s)).ftu.timersAhead s.ftu.frame := by
  have reverted := revertTimer_clockSound h
  have frame := (revertTimer_within s).frame
  obtain ⟨-, agrees⟩ := (clockSound_iff s).1 h
  obtain ⟨-, after⟩ := (clockSound_iff _).1 reverted
  refine ⟨fun d x e => ?_, fun x e => ?_⟩
  · exact revertExpiry_ahead agrees ((holdoverExpiry_revertTimer _).symm.trans e)
  · rw [← frame]
    exact holdoverExpiry_ahead after e

/-! ### Scenes -/

/-- A scheduled list whose first scene is taken when it is due. -/
def dropDue (n : FrameNo) : List Scheduled → List Scheduled
  | [] => []
  | x :: rest => if due x.frame n then rest else x :: rest

/-- Of a list in turn, no scene is due once as many have been taken as it holds, or the first is not due (R116). -/
theorem dropDue_none_due {n : FrameNo} (k : Nat) (l : List Scheduled) (h : inTurn n l) (few : l.length ≤ k) :
    ∀ x ∈ (dropDue n)^[k] l, lead n x.frame < 0 := by
  induction k generalizing l with
  | zero =>
    have empty : l = [] := List.eq_nil_of_length_eq_zero (Nat.le_zero.1 few)
    subst empty
    exact fun x hx => absurd hx List.not_mem_nil
  | succ k ih =>
    cases l with
    | nil => exact ih [] h (Nat.zero_le k)
    | cons y l =>
      by_cases now : due y.frame n = true
      · have first : dropDue n (y :: l) = l := if_pos now
        rw [Function.iterate_succ_apply, first]
        exact ih l (inTurn_sublist (List.sublist_cons_self y l) h) (Nat.le_of_succ_le_succ few)
      · have fixed : dropDue n (y :: l) = y :: l := if_neg now
        rw [Function.iterate_fixed fixed]
        obtain ⟨-, range, order⟩ := h
        have later := not_due now
        rw [lead_swap (range y List.mem_cons_self).1] at later
        intro x hx
        rw [lead_swap (range x hx).1]
        rcases List.mem_cons.1 hx with e | hx
        · rw [e]
          omega
        · have := (List.pairwise_cons.1 order).1 x hx
          omega

theorem act_reads (f : Feed) (e : SceneEntry) (s : State) : (e.act f s).ftu = s.ftu ∧ (e.act f s).scu = s.scu := by
  unfold SceneEntry.act
  split
  · exact ⟨rfl, rfl⟩
  · exact ⟨changeTap_ftu _ _ _ _, changeTap_scu _ _ _ _⟩
  · exact ⟨changeTap_ftu _ _ _ _, changeTap_scu _ _ _ _⟩

theorem runEntries_reads (f : Feed) (es : List SceneEntry) : ∀ (k : Nat) (s : State) (r : SceneResult),
    (runEntries f k es s r).1.ftu = s.ftu ∧ (runEntries f k es s r).1.scu = s.scu := by
  induction es with
  | nil => exact fun _ s _ => ⟨rfl, rfl⟩
  | cons e es ih =>
    intro k s r
    unfold runEntries
    split
    · obtain ⟨ftu, scu⟩ := act_reads f e s
      obtain ⟨ftu', scu'⟩ := ih (k + 1) (e.act f s) { r with applied := r.applied + 1 }
      exact ⟨ftu'.trans ftu, scu'.trans scu⟩
    · exact ih _ _ _

theorem runScheduled_reads (x : Scheduled) (s : State) :
    (runScheduled x s).ftu = s.ftu ∧ (runScheduled x s).scu = s.scu := by
  unfold runScheduled
  dsimp only
  rw [notifyIf_ftu, notifyIf_scu]
  exact runEntries_reads x.feed x.entries 0 s _

theorem sceneDue_ftu (s : State) : (sceneDue s).ftu = s.ftu := by
  unfold sceneDue
  split
  · rfl
  · split
    · exact (runScheduled_reads _ _).1
    · rfl

theorem sceneDue_scheduled (s : State) : (sceneDue s).scu.scheduled = dropDue s.ftu.frame s.scu.scheduled := by
  unfold sceneDue
  cases e : s.scu.scheduled with
  | nil => exact e
  | cons x rest =>
    dsimp only [dropDue]
    split
    · rw [(runScheduled_reads _ _).2]
    · exact e

theorem scenesDue_ftu (s : State) : (scenesDue s).ftu = s.ftu := by
  unfold scenesDue
  simp only [sceneDue_ftu]

theorem scenesDue_scheduled (s : State) :
    (scenesDue s).scu.scheduled = (dropDue s.ftu.frame)^[4] s.scu.scheduled := by
  unfold scenesDue
  simp only [sceneDue_scheduled, sceneDue_ftu]
  rfl

theorem busOpportunities_ftu (s : State) : (busOpportunities s).ftu = s.ftu :=
  foldl_read _ State.ftu (fun t b => busOpportunity_ftu b t) _ s

theorem busOpportunities_scu (s : State) : (busOpportunities s).scu = s.scu :=
  foldl_read _ State.scu (fun t b => busOpportunity_scu b t) _ s

/-- After the round of a frame, neither a timer nor a scene of it waits (R2, R11, R12, R116). -/
theorem afterRound_ahead {s : State} (clock : s.clockSound) (turn : inTurn s.ftu.frame s.scu.scheduled) :
    (afterRound s).ftu.timersAhead s.ftu.frame ∧
      ∀ x ∈ (afterRound s).scu.scheduled, lead s.ftu.frame x.frame < 0 := by
  have links : s.within (missingLinks (lateArrivals s)) := within_trans (lateArrivals_within s) (missingLinks_within _)
  unfold afterRound
  rw [busOpportunities_ftu, busOpportunities_scu, scenesDue_ftu, scenesDue_scheduled]
  generalize missingLinks (lateArrivals s) = t at links
  have timers := within_trans links (within_trans (revertTimer_within t) (holdoverTimer_within _))
  refine ⟨?_, ?_⟩
  · rw [← links.frame]
    exact timers_ahead (links.clock clock)
  · rw [timers.frame]
    exact dropDue_none_due 4 _ (timers.turn turn) (timers.turn turn).1

/-! ### The end of the frame -/

/-- A load that has just completed brings nothing to wait for, and takes off no timer or scene (R28, R70, R93). -/
theorem takeSettings_waits (kind : LoadKind) (j : Judgement) (s : State) :
    (∀ i, ((takeSettings kind j s).channel i).inFlight = (s.channel i).inFlight) ∧
    (∀ i, ((takeSettings kind j s).channel i).settle = (s.channel i).settle ∨
      ((takeSettings kind j s).channel i).settle = .absent) ∧
    (∀ f : Feed, (takeSettings kind j s).smu.maps[f].pending = none) ∧ (takeSettings kind j s).tgu.pending = none := by
  refine ⟨fun i => ?_, fun i => ?_, fun f => ?_, rfl⟩
  · cases kind with
    | restart => simp [takeSettings, State.channel, loadedHac, loadChannels, loadHac]
    | powerOn =>
      simp only [takeSettings, State.channel, loadedHac, loadDesired, loadChannels, loadHac, Fin.getElem_fin,
        mapAll_entry, Channel.releaseHold]
      split <;> rfl
  · cases kind with
    | restart => exact .inl (by simp [takeSettings, State.channel, loadedHac, loadChannels, loadHac])
    | powerOn =>
      simp only [takeSettings, State.channel, loadedHac, loadDesired, loadChannels, loadHac, Fin.getElem_fin,
        mapAll_entry, Channel.releaseHold]
      split
      · exact .inr rfl
      · exact .inl rfl
  · simp [takeSettings, loadSmu]

/-- The end of the frame brings nothing to wait for. -/
theorem becomeReady_waits (s : State) :
    (∀ i, ((becomeReady s).channel i).inFlight = (s.channel i).inFlight) ∧
    (∀ i, ((becomeReady s).channel i).settle = (s.channel i).settle ∨ ((becomeReady s).channel i).settle = .absent) ∧
    (∀ f : Feed, (becomeReady s).smu.maps[f].pending = s.smu.maps[f].pending ∨
      (becomeReady s).smu.maps[f].pending = none) ∧
    ((becomeReady s).tgu.pending = s.tgu.pending ∨ (becomeReady s).tgu.pending = none) := by
  rcases becomeReady_cases s with ⟨-, e⟩ | ⟨kind, j, -, e⟩
  · rw [e]
    exact ⟨fun _ => rfl, fun _ => .inl rfl, fun _ => .inl rfl, .inl rfl⟩
  · obtain ⟨flight, settle, map, law⟩ := takeSettings_waits kind j s
    rw [e]
    exact ⟨flight, settle, fun f => .inr (map f), .inr law⟩

/-- Settles O52. -/
theorem dueEventsAreTaken : Obligations.DueEventsAreTaken := by
  intro s closed writes scenes meters clock
  refine ⟨tick s, rfl, ?_⟩
  intro n
  obtain ⟨ftu, scu, -⟩ := beforeRequests_quiet s
  have rounded := round_within (beforeRequests s)
  have start : (beforeRequests s).ftu.frame = n := by rw [ftu]
  have frame : (round (beforeRequests s)).ftu.frame = n := rounded.frame.trans start
  have turn : inTurn n (beforeRequests s).scu.scheduled := by
    obtain ⟨-, short, range, order, -⟩ := scenes
    rw [scu]
    exact ⟨short, fun x hx => (range x hx).2.2, order.imp fun h => h.1⟩
  have ahead : (frameEvents s).aheadOf n :=
    start ▸ (frameEvents_within s).ahead (start.symm ▸ beforeRequests_ahead closed writes meters)
  have rest := afterRound_ahead (s := round (beforeRequests s))
    (rounded.clock (quiet_clockSound (beforeRequests_quiet s) clock)) (frame.symm ▸ start ▸ rounded.turn (start.symm ▸ turn))
  rw [frame] at rest
  obtain ⟨⟨revert, holdover⟩, scheduled⟩ := rest
  obtain ⟨kftu, -, -, -, kscu, ksub, -⟩ := becomeReady_keeps (nextFrame (transmit (frameEvents s)))
  obtain ⟨flight, settle, map, law⟩ := becomeReady_waits (nextFrame (transmit (frameEvents s)))
  rw [show afterRound (round (beforeRequests s)) = frameEvents s from rfl] at revert holdover scheduled
  rw [show tick s = becomeReady (nextFrame (transmit (frameEvents s))) from rfl]
  generalize frameEvents s = w at *
  refine ⟨fun i x e => ?_, fun i x e => ?_, fun f p e => ?_, fun p e => ?_, fun x hx => ?_, fun f b e => ?_,
    fun d x e => ?_, fun x e => ?_⟩
  · exact ahead.write i x ((flight i).symm.trans e)
  · rcases settle i with same | absent
    · exact ahead.settle i x (same.symm.trans e)
    · exact nomatch absent.symm.trans e
  · rcases map f with same | none
    · exact ahead.map f p (same.symm.trans e)
    · exact nomatch none.symm.trans e
  · rcases law with same | none
    · exact ahead.law p (same.symm.trans e)
    · exact nomatch none.symm.trans e
  · rw [kscu] at hx
    exact scheduled x hx
  · rw [ksub] at e
    exact ahead.period f b e
  · rw [kftu] at e
    exact revert d x e
  · rw [kftu] at e
    exact holdover x e

end Sys2Proof.Machine
end

section
/-! PROOFS. The image of a save: its checksum, what a stopped save leaves, and RESET (R162, R163, R164, R166). -/

namespace Sys2Proof.Machine

/-! ### A save cut short -/

theorem checksum_eq (b : List Byte) : checksum b = (b.map (·.toNat)).sum % 65536 := by
  have total : ∀ (b : List Byte) (n : Nat), b.foldl (fun n x => n + x.toNat) n = n + (b.map (·.toNat)).sum := by
    intro b
    induction b with
    | nil => intro n; rfl
    | cons x b ih =>
      intro n
      rw [List.foldl_cons, ih, List.map_cons, List.sum_cons, Nat.add_assoc]
  rw [checksum, total, Nat.zero_add]

/-- The header fields that a save writes last, but for the version (R166). -/
theorem mem_take_header (p k : Nat) :
    p ∈ [0, 1, 2, 3, 5, 6, 7, 8].take k ↔ p < 9 ∧ p ≠ 4 ∧ writePlace p < 1730 + k := by
  unfold writePlace
  by_cases few : k < 8
  · interval_cases k <;> simp <;> grind
  · rw [List.take_of_length_le (by simpa using few)]
    simp
    grind

/-- The first bytes that a save writes after the version byte 0, by their places (R166). -/
theorem mem_take_order (p written : Nat) :
    p ∈ (List.range' 9 1730 ++ [0, 1, 2, 3] ++ [5, 6] ++ [7, 8]).take written ↔
      p < 1739 ∧ p ≠ 4 ∧ writePlace p < written := by
  rw [List.append_assoc, List.append_assoc, List.take_append, List.mem_append, List.length_range']
  have sections : p ∈ (List.range' 9 1730).take written ↔ 9 ≤ p ∧ p < 1739 ∧ p - 9 < written := by
    rw [List.mem_take_iff_getElem]
    simp only [List.length_range', List.getElem_range']
    exact ⟨fun ⟨k, hk, e⟩ => by omega, fun h => ⟨p - 9, by omega, by omega⟩⟩
  have header := mem_take_header p (written - 1730)
  rw [sections, show [0, 1, 2, 3] ++ ([5, 6] ++ [7, 8]) = [0, 1, 2, 3, 5, 6, 7, 8] from rfl, header]
  unfold writePlace
  grind

/-- The image of section bytes but for its version byte (R162). -/
theorem imageOf_getD (sections : List Byte) (p : Nat) (h : p ≠ 4) :
    (imageOf sections).getD p 0 =
      (([0x50, 0x46, 0x53, 0x50, 0, 0x06, 0xC2] : List Byte) ++ be 2 ((sections.map (·.toNat)).sum % 65536) ++
        sections).getD p 0 := by
  rw [imageOf, checksum_eq]
  match p, h with
  | 0, _ | 1, _ | 2, _ | 3, _ => rfl
  | 4, h => exact absurd rfl h
  | _ + 5, _ => rfl

/-- A stopped save leaves the version 0, the bytes it has written, and of the others those held before (R166). -/
theorem stoppedImage_leftByStop (written : Nat) (sections held : List Byte) :
    leftByStop written sections held (stoppedImage written sections held) := by
  have byteAt (p : Nat) (d : Byte) (h : p < max 1739 held.length) :
      (stoppedImage written sections held).getD p d =
        if p = 4 then 0
        else if p < 1739 ∧ writePlace p < written then (imageOf sections).getD p 0
        else held.getD p 0 := by
    rw [List.getD_eq_getElem?_getD, stoppedImage_getElem? written p sections held h]
    rfl
  refine ⟨stoppedImage_length written sections held, ?_, fun p version => ?_⟩
  · rw [byteAt 4 1 (by omega)]
    rfl
  · simp only [mem_take_order, ne_eq, version, not_false_eq_true, true_and]
    rw [← imageOf_getD sections p version]
    by_cases inside : p < max 1739 held.length
    · rw [byteAt p 0 inside, if_neg version]
    · have beyond : ¬ (p < 1739 ∧ writePlace p < written) := by omega
      rw [if_neg beyond, List.getD_eq_default _ _ (by rw [stoppedImage_length]; omega),
        List.getD_eq_default _ _ (by omega)]

/-- An image whose version byte is 0 is not valid (R163). -/
theorem judgeBytes_of_version {b : List Byte} (h : b.getD 4 1 = 0) : judgeBytes b = .invalid := by
  unfold judgeBytes
  refine if_neg fun valid => ?_
  have version : (b.take 7).getD 4 1 = b.getD 4 1 := by simp [List.getD_eq_getElem?_getD]
  rw [valid.1, h] at version
  exact absurd version (by decide)

/-! ### RESET -/

theorem builtinPlt_entry (k : Fin 64) : builtinPlt[k].toNat = 8 * k.val := by
  simp only [builtinPlt, Fin.getElem_fin, tab_entry, BitVec.toNat_ofNat]
  omega

/-- What RESET leaves of the stored image (R164, R166). -/
theorem cutShort_spec (n : FrameNo) (u : Sil) :
    (u.saving = none → u.cutShort n = u.eeprom) ∧
      ∀ sections, u.saving = some sections →
        (∃ written, leftByStop written sections u.eeprom (u.cutShort n)) ∧ judgeBytes (u.cutShort n) = .invalid := by
  unfold Sil.cutShort
  refine ⟨fun idle => by rw [idle], fun sections saving => ?_⟩
  rw [saving]
  have left := stoppedImage_leftByStop (Config.writtenAtReset n sections) sections u.eeprom
  exact ⟨⟨_, left⟩, judgeBytes_of_version left.2.1⟩

/-- Settles O2. -/
theorem resetGivesPowerOnValues : Obligations.ResetGivesPowerOnValues := by
  intro s
  refine ⟨powerOn s, rfl, ?_⟩
  obtain ⟨kept, stopped⟩ := cutShort_spec s.ftu.frame s.sil
  have channel (i : Input) : (powerOn s).channel i = Channel.reset := by
    simp [powerOn, State.reset, State.channel, Hac.reset]
  refine ⟨rfl, ?ports, ?samples, ?maps, ?taps, ?glide, rfl, rfl, rfl, ?marks, channel, ?buses, rfl, rfl, rfl, ?landed,
    ?laws, ?scenes, rfl, rfl, ?links, ?feeds, ?lanes, rfl, rfl, rfl, ?subscriptions, ?clips, rfl, rfl, rfl, kept, stopped,
    rfl, rfl⟩
  case ports => intro g; simp [powerOn, State.reset, Cvp.reset, ConverterPort.reset]
  case samples => intro i; simp [powerOn, State.reset, Cvp.reset, Tgu.reset]
  case maps => intro f; simp [powerOn, State.reset, Smu.reset, FeedMap.reset]
  case taps => intro f i; simp [powerOn, State.reset, State.tap, Tgu.reset, Tap.reset]
  case glide => intro f; simp [powerOn, State.reset, Tgu.reset]
  case marks => intro b; simp [powerOn, State.reset, Tgu.reset, Hac.reset]
  case buses => intro g; simp [powerOn, State.reset, Hac.reset, PreampBus.reset]
  case landed => intro i; simp [powerOn, State.reset, Hac.reset]
  case laws => exact fun k => ⟨builtinPlt_entry k, builtinPlt_entry k⟩
  case scenes => intro f; simp [powerOn, State.reset, State.openScene, Scu.reset]
  case links => intro p; simp [powerOn, State.reset, Lnk.reset, LinkPort.reset]
  case feeds => intro f; simp [powerOn, State.reset, Lnk.reset, FeedRecord.reset]
  case lanes => intro f; simp [powerOn, State.reset, State.lane, Cle.reset, Lane.reset]
  case subscriptions => intro f; simp [powerOn, State.reset, Lmu.reset]
  case clips => intro i; simp [powerOn, State.reset, Lmu.reset, Clip.reset]

end Sys2Proof.Machine
end

section
/-! PROOFS. Outcomes of link ports (R129 to R134): how one outcome moves its port and reaches the feed record. -/

namespace Sys2Proof.Machine

/-! ### Roles and ports -/

@[simp] theorem other_other (r : Role) : r.other.other = r := by cases r <;> rfl

theorem other_ne (r : Role) : r.other ≠ r := by cases r <;> decide

theorem portOf_ne_other (f : Feed) (r : Role) : (portOf f r.other).val ≠ (portOf f r).val := by
  cases r <;> simp [portOf, Role.other]

theorem portOf_feedOf (p : Port) : portOf (feedOf p) (roleOf p) = p := by
  apply Fin.ext
  unfold portOf feedOf roleOf
  split
  · next h =>
    split at h
    · show 2 * (p.val / 2) = p.val
      omega
    · cases h
  · next h =>
    split at h
    · cases h
    · show 2 * (p.val / 2) + 1 = p.val
      omega

theorem feedOf_portOf (f : Feed) (r : Role) : feedOf (portOf f r) = f := by
  apply Fin.ext
  cases r <;> simp only [feedOf, portOf] <;> omega

theorem roleOf_portOf (f : Feed) (r : Role) : roleOf (portOf f r) = r := by
  cases r <;> simp [roleOf, portOf, Nat.add_mod]

/-! ### Writing a port -/

theorem upd_upd_same {α : Type} {n : Nat} (v : Vector α n) (i : Fin n) (g h : α → α) :
    upd (upd v i g) i h = upd v i fun x => h (g x) :=
  entries_ext fun j => by
    simp only [Fin.getElem_fin, upd_entry]
    split <;> rfl

theorem upd_upd_comm {α : Type} {n : Nat} {i j : Fin n} (v : Vector α n) (g h : α → α) (ne : i.val ≠ j.val) :
    upd (upd v i g) j h = upd (upd v j h) i g :=
  entries_ext fun k => by
    simp only [Fin.getElem_fin, upd_entry]
    by_cases hi : i.val = k.val
    · have hj : ¬ j.val = k.val := fun e => ne (hi.trans e.symm)
      simp [hi, hj]
    · simp [hi]

/-- The link ports replaced. -/
def State.withPorts (s : State) (v : Vector LinkPort 8) : State := { s with lnk := { s.lnk with ports := v } }

/-- A port that has taken its outcome of the frame and is in state `x`. -/
def LinkPort.taken (x : LinkState) (p : LinkPort) : LinkPort := { p with state := x, judged := true, held := false }

/-- A port whose outcome of the frame waits (log entry 9). -/
def LinkPort.waiting (p : LinkPort) : LinkPort := { p with judged := true, held := true }

/-- Port `r` of feed `f` takes its outcome of the frame and goes to state `x`. -/
def setPort (f : Feed) (r : Role) (x : LinkState) (s : State) : State :=
  s.withPorts (upd s.lnk.ports (portOf f r) (LinkPort.taken x))

/-- The outcome of port `r` of feed `f` waits (log entry 9). -/
def holdPort (f : Feed) (r : Role) (s : State) : State :=
  s.withPorts (upd s.lnk.ports (portOf f r) LinkPort.waiting)

section
variable (f : Feed) (r : Role) (x y : LinkState) (s : State)

@[simp] theorem setPort_linkAt :
    (setPort f r x s).linkAt f r = { s.linkAt f r with state := x, judged := true, held := false } := by
  simp [setPort, State.withPorts, State.linkAt, LinkPort.taken]

@[simp] theorem setPort_linkAt_other : (setPort f r x s).linkAt f r.other = s.linkAt f r.other := by
  simp [setPort, State.withPorts, State.linkAt, (portOf_ne_other f r).symm]

@[simp] theorem setPort_other_linkAt : (setPort f r.other x s).linkAt f r = s.linkAt f r := by
  simp [setPort, State.withPorts, State.linkAt, portOf_ne_other f r]

@[simp] theorem holdPort_linkAt :
    (holdPort f r s).linkAt f r = { s.linkAt f r with judged := true, held := true } := by
  simp [holdPort, State.withPorts, State.linkAt, LinkPort.waiting]

@[simp] theorem holdPort_linkAt_other : (holdPort f r s).linkAt f r.other = s.linkAt f r.other := by
  simp [holdPort, State.withPorts, State.linkAt, (portOf_ne_other f r).symm]

@[simp] theorem setPort_feeds : (setPort f r x s).lnk.feeds = s.lnk.feeds := rfl

@[simp] theorem holdPort_feeds : (holdPort f r s).lnk.feeds = s.lnk.feeds := rfl

@[simp] theorem setPort_holdPort : setPort f r x (holdPort f r s) = setPort f r x s :=
  congrArg s.withPorts (upd_upd_same s.lnk.ports (portOf f r) LinkPort.waiting (LinkPort.taken x))

/-- The outcomes of the two ports of a feed write different ports. -/
theorem setPort_comm : setPort f r.other y (setPort f r x s) = setPort f r x (setPort f r.other y s) :=
  congrArg s.withPorts
    (upd_upd_comm s.lnk.ports (LinkPort.taken x) (LinkPort.taken y) (portOf_ne_other f r).symm)

theorem setPort_comm_holdPort : setPort f r x (holdPort f r.other s) = holdPort f r.other (setPort f r x s) :=
  congrArg s.withPorts
    (upd_upd_comm s.lnk.ports LinkPort.waiting (LinkPort.taken x) (portOf_ne_other f r))

end

/-! ### What reaches the feed record reads and writes no port -/

/-- An operation that neither reads nor writes the link ports. -/
def portFree (op : State → State) : Prop :=
  ∀ (s : State) (v : Vector LinkPort 8), op (s.withPorts v) = (op s).withPorts v

theorem portFree_ports {op : State → State} (h : portFree op) (s : State) : (op s).lnk.ports = s.lnk.ports := by
  have e : op s = (op s).withPorts s.lnk.ports := h s s.lnk.ports
  rw [e]
  rfl

theorem portFree_linkAt {op : State → State} (h : portFree op) (s : State) (f : Feed) (r : Role) :
    (op s).linkAt f r = s.linkAt f r := by
  unfold State.linkAt
  rw [portFree_ports h]

/-- Such an operation and a port's outcome come in either order. -/
theorem portFree_setPort {op : State → State} (h : portFree op) (f : Feed) (r : Role) (x : LinkState) (s : State) :
    setPort f r x (op s) = op (setPort f r x s) := by
  unfold setPort
  rw [h, portFree_ports h]

theorem portFree_clockEvent (change : State → Ftu → Ftu)
    (h : ∀ (s : State) (v : Vector LinkPort 8), change (s.withPorts v) = change s) :
    portFree fun s => clockEvent (change s) s := by
  intro s v
  simp only [clockEvent_told, h]
  rfl

theorem reportCame_portFree (x : ClockSource) : portFree (reportCame x) :=
  portFree_clockEvent (fun s u => if s.clockListens then u.sourceCame s.available x else u) fun _ _ => rfl

theorem reportGone_portFree (x : ClockSource) : portFree (reportGone x) :=
  portFree_clockEvent (fun s u => if s.clockListens then u.sourceGone s.available x else u) fun _ _ => rfl

theorem portFree_comp {op after : State → State} (h : portFree op) (k : portFree after) :
    portFree fun s => after (op s) := by
  intro s v
  dsimp only
  rw [h, k]

/-- The record of a feed that goes ONLINE, its source not yet reported (R131). -/
def markOnline (f : Feed) (r : Role) (s : State) : State :=
  resetAssembler f
    { s with lnk := s.lnk.onFeed f fun _ => { control := some r, resync := true, cameOnline := true } }

/-- What a feed that goes OFFLINE loses, its source not yet reported (R134). -/
def markOffline (f : Feed) (s : State) : State :=
  { s with
    lnk := s.lnk.onFeed f fun x => { x with control := none }
    cle := s.cle.onLane f Lane.tearDown
    scu := { s.scu with opened := put s.scu.opened f none }
    lmu := { s.lmu with subscriptions := put s.lmu.subscriptions f none } }

theorem goOnline_eq (f : Feed) (r : Role) (s : State) : goOnline f r s = reportCame (.feed f) (markOnline f r s) := rfl

theorem goOffline_eq (f : Feed) (s : State) : goOffline f s = reportGone (.feed f) (markOffline f s) := rfl

theorem goOnline_portFree (f : Feed) (r : Role) : portFree (goOnline f r) :=
  portFree_comp (op := markOnline f r) (fun _ _ => rfl) (reportCame_portFree (.feed f))

theorem goOffline_portFree (f : Feed) : portFree (goOffline f) :=
  portFree_comp (op := markOffline f) (fun _ _ => rfl) (reportGone_portFree (.feed f))

theorem moveControl_portFree (f : Feed) (r : Role) : portFree (moveControl f r) := fun _ _ => rfl

/-! ### One outcome -/

theorem isUp_iff {x : LinkState} : x.isUp = true ↔ ∃ n, x = .up n := by
  cases x <;> simp [LinkState.isUp]

/-- An outcome that leaves its port as far UP as before reaches no feed record. -/
theorem takeOutcome_same {f : Feed} {r : Role} {good : Bool} {s : State}
    (h : ((s.linkAt f r).state.step good).isUp = (s.linkAt f r).state.isUp) :
    takeOutcome f r good s = setPort f r ((s.linkAt f r).state.step good) s := by
  unfold takeOutcome
  dsimp only
  rw [h]
  cases (s.linkAt f r).state.isUp <;> rfl

theorem takeOutcome_rises {f : Feed} {r : Role} {good : Bool} {s : State} (before : (s.linkAt f r).state.isUp = false)
    (after : ((s.linkAt f r).state.step good).isUp = true) :
    takeOutcome f r good s = portUp f r (setPort f r ((s.linkAt f r).state.step good) s) := by
  unfold takeOutcome
  dsimp only
  rw [before, after]
  rfl

theorem takeOutcome_falls {f : Feed} {r : Role} {good : Bool} {s : State} (before : (s.linkAt f r).state.isUp = true)
    (after : ((s.linkAt f r).state.step good).isUp = false) :
    takeOutcome f r good s = portDown f r (setPort f r ((s.linkAt f r).state.step good) s) := by
  unfold takeOutcome
  dsimp only
  rw [before, after]
  rfl

/-- A port that reaches UP is noted, and reaches the record of an OFFLINE feed alone, but in the frame in which it came
ONLINE (R131). -/
theorem portUp_ports (f : Feed) (r : Role) (s : State) : (portUp f r s).lnk.ports = s.lnk.ports := by
  unfold portUp
  split
  · exact portFree_ports (goOnline_portFree f r) s
  · split
    · exact portFree_ports (moveControl_portFree f .main) s
    · rfl

theorem portDown_ports (f : Feed) (r : Role) (s : State) : (portDown f r s).lnk.ports = s.lnk.ports := by
  unfold portDown
  split
  · split
    · exact portFree_ports (moveControl_portFree f r.other) s
    · exact portFree_ports (goOffline_portFree f) s
  · rfl

/-- An outcome leaves the feed's other port alone. -/
theorem takeOutcome_linkAt_other (f : Feed) (r : Role) (good : Bool) (s : State) :
    (takeOutcome f r good s).linkAt f r.other = s.linkAt f r.other := by
  have ports : (takeOutcome f r good s).lnk.ports = (setPort f r ((s.linkAt f r).state.step good) s).lnk.ports := by
    unfold takeOutcome
    dsimp only
    split
    · rw [portUp_ports]
      rfl
    · split
      · rw [portDown_ports]
        rfl
      · rfl
  rw [State.linkAt, ports]
  exact setPort_linkAt_other f r _ s

/-- The outcome is a good frame. -/
def UpOutcome.isGood : UpOutcome → Bool
  | .good _ _ => true
  | .bad => false

/-- The delivery of an outcome to the lane of its feed (R130). -/
def deliverOutcome (f : Feed) (r : Role) (late : Bool) (o : UpOutcome) (s : State) : State :=
  match o with
  | .good som bytes => deliverBytes f r late som bytes s
  | .bad => s

/-- A port that is not UP, or not its feed's control port, delivers nothing (R130). -/
theorem deliverOutcome_none {f : Feed} {r : Role} {late : Bool} {o : UpOutcome} {s : State}
    (h : (s.linkAt f r).state.isUp = false ∨ s.lnk.feeds[f].control ≠ some r) : deliverOutcome f r late o s = s := by
  cases o with
  | bad => rfl
  | good som bytes =>
    unfold deliverOutcome deliverBytes
    rcases h with h | h
    · rw [h]
      rfl
    · have no : decide (s.lnk.feeds[f].control = some r) = false := decide_eq_false h
      rw [no, Bool.and_false]
      rfl

/-- The lane of feed `f` takes a delivery (R130). -/
def laneTakes (f : Feed) (late : Bool) (o : UpOutcome) (s : State) : State :=
  match o with
  | .good som bytes => { s with cle := s.cle.onLane f (·.deliver late som bytes) }
  | .bad => s

theorem laneTakes_portFree (f : Feed) (late : Bool) (o : UpOutcome) : portFree (laneTakes f late o) := by
  intro s v
  cases o <;> rfl

theorem deliverOutcome_control {f : Feed} {r : Role} {late : Bool} {o : UpOutcome} {s : State}
    (up : (s.linkAt f r).state.isUp = true) (control : s.lnk.feeds[f].control = some r) :
    deliverOutcome f r late o s = laneTakes f late o s := by
  cases o with
  | bad => rfl
  | good som bytes =>
    unfold deliverOutcome deliverBytes
    rw [up, control]
    simp [laneTakes]

/-- An outcome that does not wait, when none waits on the other port. -/
theorem portOutcome_taken {f : Feed} {r : Role} {late : Bool} {o : UpOutcome} {s : State}
    (free : (s.linkAt f r.other).held = false) (now : o = .bad → mustWait f r s = false) :
    portOutcome f r late o s = takeOutcome f r o.isGood (deliverOutcome f r late o s) := by
  have rest (good : Bool) (t : State) (h : t.linkAt f r.other = s.linkAt f r.other) :
      takeHeld f r.other (takeOutcome f r good t) = takeOutcome f r good t := by
    unfold takeHeld
    rw [takeOutcome_linkAt_other, h, free]
    rfl
  cases o with
  | good som bytes => exact rest true _ rfl
  | bad =>
    unfold portOutcome
    dsimp only
    rw [now rfl]
    exact rest false s rfl

/-- An outcome that does not wait, when one waits on the other port: both are taken. -/
theorem portOutcome_takesHeld {f : Feed} {r : Role} {late : Bool} {o : UpOutcome} {s : State}
    (held : (s.linkAt f r.other).held = true) (judged : (s.linkAt f r.other).judged = true) :
    portOutcome f r late o s =
      takeOutcome f r.other false (takeOutcome f r o.isGood (deliverOutcome f r late o s)) := by
  have rest (good : Bool) (t : State) (h : t.linkAt f r.other = s.linkAt f r.other) :
      takeHeld f r.other (takeOutcome f r good t) = takeOutcome f r.other false (takeOutcome f r good t) := by
    unfold takeHeld
    rw [takeOutcome_linkAt_other, h, held]
    rfl
  cases o with
  | good som bytes => exact rest true _ rfl
  | bad =>
    have now : mustWait f r s = false := by simp [mustWait, judged]
    unfold portOutcome
    dsimp only
    rw [now]
    exact rest false s rfl

theorem portOutcome_waits {f : Feed} {r : Role} {late : Bool} {s : State} (wait : mustWait f r s = true) :
    portOutcome f r late .bad s = holdPort f r s := by
  unfold portOutcome
  dsimp only
  rw [wait]
  rfl

end Sys2Proof.Machine
end

section
/-! PROOFS. The two ports of an ONLINE feed in one frame: their outcomes end alike in either order (R131 to R133, log
entry 9). -/

namespace Sys2Proof.Machine

/-! ### Port states -/

theorem step_true_isUp {x : LinkState} (h : x.isUp = true) : (x.step true).isUp = true := by
  cases x with
  | up n => rfl
  | down | seek n => cases h

theorem step_false_notUp {x : LinkState} (h : x.isUp = false) : (x.step false).isUp = false := by
  cases x with
  | up n => cases h
  | down | seek n => rfl

theorem falls_iff {x : LinkState} : x.falls = true ↔ x.isUp = true ∧ (x.step false).isUp = false := by
  simp [LinkState.falls]

theorem falls_of_notUp {x : LinkState} (h : x.isUp = false) : x.falls = false := by
  simp [LinkState.falls, h]

/-- A port that a good frame does not bring UP is not brought UP by any outcome. -/
theorem step_notUp {x : LinkState} (h : (x.step true).isUp = false) (good : Bool) : (x.step good).isUp = false := by
  cases good with
  | true => exact h
  | false =>
    refine step_false_notUp ?_
    rw [Bool.eq_false_iff]
    intro up
    rw [step_true_isUp up] at h
    cases h

theorem mustWait_control {f : Feed} {c : Role} {s : State} (control : s.lnk.feeds[f].control = some c) :
    mustWait f c s =
      ((s.linkAt f c).state.falls && !(s.linkAt f c.other).judged &&
        (LinkState.step true (s.linkAt f c.other).state).isUp) := by
  unfold mustWait
  rw [if_pos control]

theorem mustWait_standby {f : Feed} {c : Role} {s : State} (control : s.lnk.feeds[f].control = some c) :
    mustWait f c.other s =
      ((s.linkAt f c.other).state.falls && !(s.linkAt f c).judged && (s.linkAt f c).state.falls) := by
  have ne : ¬ s.lnk.feeds[f].control = some c.other := by
    rw [control]
    exact fun e => other_ne c (Option.some.inj e).symm
  unfold mustWait
  rw [if_neg ne, other_other]

@[simp] theorem isGood_good (som : Bool) (bytes : List Byte) : (UpOutcome.good som bytes).isGood = true := rfl

@[simp] theorem isGood_bad : UpOutcome.bad.isGood = false := rfl

/-! ### A feed that is ONLINE -/

/-- An outcome of the port that is not the control port moves its port alone (R130, R131, R133). -/
theorem takeOutcome_standby {f : Feed} {c : Role} {s : State} (good : Bool)
    (control : s.lnk.feeds[f].control = some c) (old : s.lnk.feeds[f].cameOnline = false) :
    takeOutcome f c.other good s = setPort f c.other ((s.linkAt f c.other).state.step good) s := by
  have ne : ¬ s.lnk.feeds[f].control = some c.other := by
    rw [control]
    exact fun e => other_ne c (Option.some.inj e).symm
  cases before : (s.linkAt f c.other).state.isUp <;>
    cases after : ((s.linkAt f c.other).state.step good).isUp
  · exact takeOutcome_same (after.trans before.symm)
  · rw [takeOutcome_rises before after]
    unfold portUp
    rw [setPort_feeds, control, old]
    rfl
  · rw [takeOutcome_falls before after]
    unfold portDown
    rw [setPort_feeds, if_neg ne]
  · exact takeOutcome_same (after.trans before.symm)

/-- The control port falls: control moves, or the feed goes OFFLINE (R132, R133). -/
theorem takeOutcome_control_falls {f : Feed} {c : Role} {s : State} (control : s.lnk.feeds[f].control = some c)
    (falls : (s.linkAt f c).state.falls = true) :
    takeOutcome f c false s =
      if (s.linkAt f c.other).state.isUp then moveControl f c.other (setPort f c ((s.linkAt f c).state.step false) s)
      else goOffline f (setPort f c ((s.linkAt f c).state.step false) s) := by
  obtain ⟨before, after⟩ := falls_iff.1 falls
  rw [takeOutcome_falls before after]
  unfold portDown
  rw [setPort_feeds, if_pos control, setPort_linkAt_other]

/-- An outcome of the standby port that does not wait, when none waits on the control port. -/
theorem portOutcome_standby {f : Feed} {c : Role} {late : Bool} {o : UpOutcome} {s : State}
    (control : s.lnk.feeds[f].control = some c) (old : s.lnk.feeds[f].cameOnline = false)
    (free : (s.linkAt f c).held = false) (now : o = .bad → mustWait f c.other s = false) :
    portOutcome f c.other late o s = setPort f c.other ((s.linkAt f c.other).state.step o.isGood) s := by
  have ne : s.lnk.feeds[f].control ≠ some c.other := by
    rw [control]
    exact fun e => other_ne c (Option.some.inj e).symm
  rw [portOutcome_taken (by rw [other_other]; exact free) now, deliverOutcome_none (.inr ne),
    takeOutcome_standby o.isGood control old]

/-- A good frame on the control port: delivered, and the port stays UP (R130). -/
theorem portOutcome_control_good {f : Feed} {c : Role} {late som : Bool} {bytes : List Byte} {s : State}
    (control : s.lnk.feeds[f].control = some c) (up : (s.linkAt f c).state.isUp = true)
    (free : (s.linkAt f c.other).held = false) :
    portOutcome f c late (.good som bytes) s =
      laneTakes f late (.good som bytes) (setPort f c ((s.linkAt f c).state.step true) s) := by
  rw [portOutcome_taken (o := .good som bytes) free (by simp), deliverOutcome_control up control]
  have same : (laneTakes f late (.good som bytes) s).linkAt f c = s.linkAt f c := rfl
  rw [isGood_good, takeOutcome_same (by rw [same, up, step_true_isUp up]), same,
    portFree_setPort (laneTakes_portFree f late _)]

/-- A bad outcome that leaves the control port UP. -/
theorem portOutcome_control_stays {f : Feed} {c : Role} {late : Bool} {s : State}
    (up : (s.linkAt f c).state.isUp = true) (stays : ((s.linkAt f c).state.step false).isUp = true)
    (free : (s.linkAt f c.other).held = false) :
    portOutcome f c late .bad s = setPort f c ((s.linkAt f c).state.step false) s := by
  have now : mustWait f c s = false := by simp [mustWait, LinkState.falls, stays]
  rw [portOutcome_taken free fun _ => now]
  exact takeOutcome_same (stays.trans up.symm)

/-- What the two outcomes of a frame leave of an ONLINE feed with control port `c` (R130 to R133). -/
def onlineResult (f : Feed) (c : Role) (late : Bool) (oc oo : UpOutcome) (s : State) : State :=
  let xc := (s.linkAt f c).state.step oc.isGood
  let xo := (s.linkAt f c.other).state.step oo.isGood
  let base := setPort f c.other xo (setPort f c xc s)
  if oc.isGood then laneTakes f late oc base
  else if xc.isUp then base
  else if xo.isUp then moveControl f c.other base
  else goOffline f base

theorem goOffline_moveControl (f : Feed) (r : Role) (s : State) : goOffline f (moveControl f r s) = goOffline f s := by
  have mark : markOffline f (moveControl f r s) = markOffline f s := by
    have feeds := upd_upd_same s.lnk.feeds f (fun x => { x with control := some r }) fun x => { x with control := none }
    have lanes := upd_upd_same s.cle.lanes f (fun l => { l with assembler := .waitSom }) Lane.tearDown
    unfold markOffline moveControl resetAssembler Lnk.onFeed Cle.onLane
    dsimp only
    rw [feeds, lanes]
    rfl
  rw [goOffline_eq, mark, ← goOffline_eq]

section
variable {f : Feed} {c : Role} {lateC lateO : Bool} {oc oo : UpOutcome} {s : State}

/-- The control port's outcome comes first. -/
theorem online_controlFirst (control : s.lnk.feeds[f].control = some c) (old : s.lnk.feeds[f].cameOnline = false)
    (up : (s.linkAt f c).state.isUp = true)
    (freshO : (s.linkAt f c.other).judged = false) (freeO : (s.linkAt f c.other).held = false) :
    portOutcome f c.other lateO oo (portOutcome f c lateC oc s) = onlineResult f c lateC oc oo s := by
  have second (x : LinkState) (op : State → State) (free : portFree op)
      (control' : (op (setPort f c x s)).lnk.feeds[f].control = some c)
      (old' : (op (setPort f c x s)).lnk.feeds[f].cameOnline = false) :
      portOutcome f c.other lateO oo (op (setPort f c x s)) =
        op (setPort f c.other ((s.linkAt f c.other).state.step oo.isGood) (setPort f c x s)) := by
    have judged : ((op (setPort f c x s)).linkAt f c).judged = true := by
      rw [portFree_linkAt free, setPort_linkAt]
    rw [portOutcome_standby control' old' (by rw [portFree_linkAt free, setPort_linkAt])
      (fun _ => by rw [mustWait_standby control', judged]; simp), portFree_linkAt free, setPort_linkAt_other,
      portFree_setPort free]
  cases oc with
  | good som bytes =>
    rw [portOutcome_control_good control up freeO]
    exact second _ _ (laneTakes_portFree f lateC (.good som bytes)) control old
  | bad =>
    cases stays : ((s.linkAt f c).state.step false).isUp with
    | true =>
      rw [portOutcome_control_stays up stays freeO, second _ (fun t => t) (fun _ _ => rfl) control old]
      simp [onlineResult, stays]
    | false =>
      have falls : (s.linkAt f c).state.falls = true := falls_iff.2 ⟨up, stays⟩
      cases may : (LinkState.step true (s.linkAt f c.other).state).isUp with
      | true =>
        have wait : mustWait f c s = true := by
          rw [mustWait_control control, falls, freshO, may]
          rfl
        rw [portOutcome_waits wait, portOutcome_takesHeld (by rw [other_other, holdPort_linkAt])
          (by rw [other_other, holdPort_linkAt]), other_other]
        have ne : (holdPort f c s).lnk.feeds[f].control ≠ some c.other := by
          rw [holdPort_feeds, control]
          exact fun e => other_ne c (Option.some.inj e).symm
        rw [deliverOutcome_none (.inr ne), takeOutcome_standby (s := holdPort f c s) oo.isGood control old,
          holdPort_linkAt_other, takeOutcome_control_falls (s := setPort f c.other _ (holdPort f c s)) control
            (by rw [setPort_other_linkAt, holdPort_linkAt]; exact falls),
          setPort_other_linkAt, holdPort_linkAt, setPort_linkAt, ← setPort_comm, setPort_holdPort]
        simp [onlineResult, stays]
      | false =>
        have now : mustWait f c s = false := by
          rw [mustWait_control control, may, Bool.and_false]
        have notUp : (s.linkAt f c.other).state.isUp = false := by
          rw [Bool.eq_false_iff]
          intro h
          rw [step_true_isUp h] at may
          cases may
        have same := portFree_linkAt (goOffline_portFree f) (setPort f c ((s.linkAt f c).state.step false) s) f
        rw [portOutcome_taken freeO (fun _ => now)]
        show portOutcome f c.other lateO oo (takeOutcome f c false s) = _
        rw [takeOutcome_control_falls control falls, notUp, if_neg Bool.false_ne_true,
          portOutcome_taken (by rw [other_other, same, setPort_linkAt])
            (fun _ => by rw [mustWait, same, setPort_linkAt_other, falls_of_notUp notUp]; rfl),
          deliverOutcome_none (.inl (by rw [same, setPort_linkAt_other, notUp])),
          takeOutcome_same (by rw [same, setPort_linkAt_other, notUp, step_notUp may]), same, setPort_linkAt_other,
          portFree_setPort (goOffline_portFree f)]
        simp [onlineResult, stays, step_notUp may]

/-- The standby port's outcome comes first. -/
theorem online_standbyFirst (control : s.lnk.feeds[f].control = some c) (old : s.lnk.feeds[f].cameOnline = false)
    (up : (s.linkAt f c).state.isUp = true) (freeC : (s.linkAt f c).held = false) :
    portOutcome f c lateC oc (portOutcome f c.other lateO oo s) = onlineResult f c lateC oc oo s := by
  by_cases wait : oo = .bad ∧ mustWait f c.other s = true
  · obtain ⟨rfl, wait⟩ := wait
    rw [portOutcome_waits wait]
    rw [mustWait_standby control, Bool.and_eq_true, Bool.and_eq_true] at wait
    obtain ⟨⟨fallsO, -⟩, fallsC⟩ := wait
    obtain ⟨upO, downO⟩ := falls_iff.1 fallsO
    obtain ⟨-, downC⟩ := falls_iff.1 fallsC
    have atC : (holdPort f c.other s).linkAt f c = s.linkAt f c := by
      have h := holdPort_linkAt_other f c.other s
      rwa [other_other] at h
    rw [portOutcome_takesHeld (by rw [holdPort_linkAt]) (by rw [holdPort_linkAt])]
    cases oc with
    | good som bytes =>
      rw [deliverOutcome_control (s := holdPort f c.other s) (by rw [atC]; exact up) control]
      have same (q : Role) : (laneTakes f lateC (.good som bytes) (holdPort f c.other s)).linkAt f q =
          (holdPort f c.other s).linkAt f q := rfl
      rw [isGood_good,
        takeOutcome_same (s := laneTakes f lateC (.good som bytes) (holdPort f c.other s))
          (by rw [same, atC, up, step_true_isUp up]),
        same, atC,
        takeOutcome_standby (s := setPort f c _ (laneTakes f lateC (.good som bytes) (holdPort f c.other s))) false
          control old, setPort_linkAt_other, same, holdPort_linkAt,
        portFree_setPort (laneTakes_portFree f lateC _), portFree_setPort (laneTakes_portFree f lateC _),
        setPort_comm_holdPort, setPort_holdPort]
      rfl
    | bad =>
      show takeOutcome f c.other false (takeOutcome f c false (holdPort f c.other s)) = _
      have atO : (setPort f c ((s.linkAt f c).state.step false) (holdPort f c.other s)).linkAt f c.other =
          { s.linkAt f c.other with judged := true, held := true } := by
        rw [setPort_linkAt_other, holdPort_linkAt]
      have moved := portFree_linkAt (moveControl_portFree f c.other)
        (setPort f c ((s.linkAt f c).state.step false) (holdPort f c.other s)) f
      have control' : (moveControl f c.other (setPort f c ((s.linkAt f c).state.step false)
          (holdPort f c.other s))).lnk.feeds[f].control = some c.other := by
        simp [moveControl, resetAssembler, Lnk.onFeed]
      rw [takeOutcome_control_falls (s := holdPort f c.other s) control (by rw [atC]; exact fallsC), atC,
        holdPort_linkAt, if_pos upO,
        takeOutcome_control_falls control' (by rw [moved, atO]; exact fallsO), other_other, moved, moved, atO,
        setPort_linkAt, downC, if_neg Bool.false_ne_true, portFree_setPort (moveControl_portFree f c.other),
        goOffline_moveControl, setPort_comm_holdPort, setPort_holdPort]
      simp [onlineResult, downC, downO]
  · have now (e : oo = .bad) : mustWait f c.other s = false := by
      rw [Bool.eq_false_iff]
      exact fun w => wait ⟨e, w⟩
    rw [portOutcome_standby control old freeC now]
    generalize hx : (s.linkAt f c.other).state.step oo.isGood = xo
    have atC : (setPort f c.other xo s).linkAt f c = s.linkAt f c := setPort_other_linkAt f c xo s
    have freeO' : ((setPort f c.other xo s).linkAt f c.other).held = false := by rw [setPort_linkAt]
    cases oc with
    | good som bytes =>
      rw [portOutcome_control_good (s := setPort f c.other xo s) control (by rw [atC]; exact up) freeO', atC,
        ← setPort_comm]
      simp [onlineResult, hx]
    | bad =>
      cases stays : ((s.linkAt f c).state.step false).isUp with
      | true =>
        rw [portOutcome_control_stays (s := setPort f c.other xo s) (by rw [atC]; exact up) (by rw [atC]; exact stays)
          freeO', atC, ← setPort_comm]
        simp [onlineResult, hx, stays]
      | false =>
        have falls : (s.linkAt f c).state.falls = true := falls_iff.2 ⟨up, stays⟩
        have judged : mustWait f c (setPort f c.other xo s) = false := by
          rw [mustWait_control (s := setPort f c.other xo s) control, setPort_linkAt]
          simp
        rw [portOutcome_taken freeO' (fun _ => judged)]
        show takeOutcome f c false (setPort f c.other xo s) = _
        rw [takeOutcome_control_falls (s := setPort f c.other xo s) control (by rw [atC]; exact falls), atC, setPort_linkAt,
          ← setPort_comm]
        simp [onlineResult, hx, stays]

end

end Sys2Proof.Machine
end

section
/-! PROOFS. The record of a feed follows its two ports (R130 to R134): an OFFLINE feed, the order of the two outcomes of a
frame, and each frame that moves the record. -/

namespace Sys2Proof.Machine

/-! ### Notices and a control move -/

/-- Notices do not look at the assembler. -/
theorem handed_assembler (nts : List Notice) (a : Assembler) (l : Lane) :
    Lane.handed nts { l with assembler := a } = ({ (l.handed nts).1 with assembler := a }, (l.handed nts).2) := by
  induction nts generalizing l with
  | nil => rfl
  | cons nt nts ih =>
    have offered : Lane.offer nt { l with assembler := a } = { l.offer nt with assembler := a } := rfl
    simp only [Lane.handed, offered, ih]
    rfl

theorem moveControl_lane (f : Feed) (q : Role) (s : State) (g : Feed) :
    (moveControl f q s).lane g = if f = g then { s.lane g with assembler := .waitSom } else s.lane g := by
  simp [moveControl, resetAssembler, Cle.onLane, State.lane, Fin.ext_iff]

theorem moveControl_feed (f : Feed) (q : Role) (s : State) (g : Feed) :
    (moveControl f q s).lnk.feeds[g] =
      if f = g then { s.lnk.feeds[g] with control := some q } else s.lnk.feeds[g] := by
  simp [moveControl, resetAssembler, Lnk.onFeed, Fin.ext_iff]

theorem moveControl_online {f : Feed} {s : State} (on : s.online f = true) (q : Role) (g : Feed) :
    (moveControl f q s).online g = s.online g := by
  unfold State.online
  rw [moveControl_feed]
  split
  · next e =>
    subst e
    exact on.symm
  · rfl

/-- Control of an ONLINE feed moves before notices are handed as after. -/
theorem moveControl_told {f : Feed} {s : State} (on : s.online f = true) (q : Role) (nts : Feed → List Notice) :
    moveControl f q (told nts s) = told nts (moveControl f q s) := by
  apply lanes_feeds_ext
  · rfl
  · intro g
    rw [moveControl_lane, told_lane, told_lane, moveControl_lane, moveControl_online on]
    split <;> split <;> simp only [handed_assembler]
  · rfl
  · rfl
  · rfl
  · rfl
  · intro g
    rw [moveControl_feed, told_feed, told_feed, moveControl_feed, moveControl_lane, moveControl_online on]
    split <;> simp only [handed_assembler]

theorem moveControl_clockEvent {f : Feed} {s : State} (on : s.online f = true) (q : Role) (g : Ftu → Ftu) :
    moveControl f q (clockEvent g s) = clockEvent g (moveControl f q s) := by
  rw [clockEvent_told, clockEvent_told]
  exact moveControl_told (s := { s with ftu := g s.ftu }) on q
    (toFeeds (fun _ => decide ((g s.ftu).clock ≠ s.ftu.clock)) (.clock (g s.ftu).clock s.ftu.frame))

/-- An ONLINE feed's control move leaves what the clock hears alone. -/
theorem moveControl_reportCame {f : Feed} {s : State} (on : s.online f = true) (q : Role) (x : ClockSource) :
    moveControl f q (reportCame x s) = reportCame x (moveControl f q s) := by
  have same : (moveControl f q s).available = s.available := available_congr rfl (moveControl_online on q)
  have listens : (moveControl f q s).clockListens = s.clockListens := rfl
  unfold reportCame
  rw [same, listens]
  exact moveControl_clockEvent on q _

theorem markOnline_online (f : Feed) (r : Role) (s : State) : (markOnline f r s).online f = true := by
  simp [markOnline, resetAssembler, State.online, Lnk.onFeed]

theorem moveControl_markOnline (f : Feed) (q r : Role) (s : State) :
    moveControl f q (markOnline f r s) = markOnline f q s := by
  have feeds := upd_upd_same s.lnk.feeds f (fun _ => { control := some r, resync := true, cameOnline := true })
    fun x => { x with control := some q }
  have lanes := upd_upd_same s.cle.lanes f (fun l => { l with assembler := .waitSom })
    fun l => { l with assembler := .waitSom }
  unfold moveControl markOnline resetAssembler Lnk.onFeed Cle.onLane
  dsimp only
  rw [feeds, lanes]

/-- Control that moves in the frame in which the feed came ONLINE leaves the feed as if it had come with that port. -/
theorem moveControl_goOnline (f : Feed) (q r : Role) (s : State) : moveControl f q (goOnline f r s) = goOnline f q s := by
  rw [goOnline_eq, moveControl_reportCame (markOnline_online f r s), moveControl_markOnline, ← goOnline_eq]

theorem reportCame_feed (x : ClockSource) (s : State) (f : Feed) :
    (reportCame x s).lnk.feeds[f].control = s.lnk.feeds[f].control ∧
      (reportCame x s).lnk.feeds[f].cameOnline = s.lnk.feeds[f].cameOnline := by
  unfold reportCame
  rw [clockEvent_told, told_feed]
  exact ⟨rfl, rfl⟩

theorem goOnline_feed (f : Feed) (r : Role) (s : State) :
    (goOnline f r s).lnk.feeds[f].control = some r ∧ (goOnline f r s).lnk.feeds[f].cameOnline = true := by
  obtain ⟨control, came⟩ := reportCame_feed (.feed f) (markOnline f r s) f
  rw [goOnline_eq, control, came]
  simp [markOnline, resetAssembler, Lnk.onFeed]

/-! ### A feed that is OFFLINE -/

section
variable {f : Feed} {r : Role} {late : Bool} {o : UpOutcome} {s : State}

/-- An outcome of a port that is not UP is taken at once, and delivers nothing (R130). -/
theorem portOutcome_notUp (notUp : (s.linkAt f r).state.isUp = false) (free : (s.linkAt f r.other).held = false) :
    portOutcome f r late o s = takeOutcome f r o.isGood s := by
  have now : mustWait f r s = false := by rw [mustWait, falls_of_notUp notUp, Bool.false_and, Bool.false_and]
  rw [portOutcome_taken free fun _ => now, deliverOutcome_none (.inl notUp)]

/-- An outcome on a port of an OFFLINE feed (R131). -/
theorem portOutcome_offline (offline : s.lnk.feeds[f].control = none) (notUp : (s.linkAt f r).state.isUp = false)
    (free : (s.linkAt f r.other).held = false) :
    portOutcome f r late o s =
      if ((s.linkAt f r).state.step o.isGood).isUp then
        goOnline f r (setPort f r ((s.linkAt f r).state.step o.isGood) s)
      else setPort f r ((s.linkAt f r).state.step o.isGood) s := by
  rw [portOutcome_notUp notUp free]
  cases after : ((s.linkAt f r).state.step o.isGood).isUp with
  | true =>
    rw [takeOutcome_rises notUp after, portUp, setPort_feeds, offline]
    rfl
  | false => exact takeOutcome_same (after.trans notUp.symm)

/-- An outcome on the other port of a feed that the port `r` has just taken ONLINE (R131, log entry 9). -/
theorem portOutcome_cameOnline (notUp : (s.linkAt f r.other).state.isUp = false) :
    portOutcome f r.other late o (goOnline f r (setPort f r x s)) =
      if ((s.linkAt f r.other).state.step o.isGood).isUp ∧ r = .reserve then
        goOnline f .main (setPort f r.other ((s.linkAt f r.other).state.step o.isGood) (setPort f r x s))
      else goOnline f r (setPort f r.other ((s.linkAt f r.other).state.step o.isGood) (setPort f r x s)) := by
  have at_ := portFree_linkAt (goOnline_portFree f r) (setPort f r x s) f
  have atO : (goOnline f r (setPort f r x s)).linkAt f r.other = s.linkAt f r.other := by
    rw [at_, setPort_linkAt_other]
  rw [portOutcome_notUp (by rw [atO]; exact notUp) (by rw [other_other, at_, setPort_linkAt])]
  generalize hx : (s.linkAt f r.other).state.step o.isGood = xo
  have hx' : ((goOnline f r (setPort f r x s)).linkAt f r.other).state.step o.isGood = xo := by rw [atO, hx]
  cases after : xo.isUp with
  | false =>
    rw [takeOutcome_same (by rw [hx', atO, after, notUp]), hx', portFree_setPort (goOnline_portFree f r)]
    rfl
  | true =>
    rw [takeOutcome_rises (by rw [atO]; exact notUp) (by rw [hx']; exact after), hx',
      portFree_setPort (goOnline_portFree f r)]
    obtain ⟨control, came⟩ := goOnline_feed f r (setPort f r.other xo (setPort f r x s))
    rw [portUp, control, came]
    cases r with
    | main => rfl
    | reserve => exact moveControl_goOnline f .main .reserve _

/-- What the two outcomes of a frame leave of an OFFLINE feed (R131). -/
def offlineResult (f : Feed) (om or : UpOutcome) (s : State) : State :=
  let xm := (s.linkAt f .main).state.step om.isGood
  let xr := (s.linkAt f .reserve).state.step or.isGood
  let base := setPort f .reserve xr (setPort f .main xm s)
  if xm.isUp then goOnline f .main base
  else if xr.isUp then goOnline f .reserve base
  else base

end

section
variable {f : Feed} {lateM lateR : Bool} {om or : UpOutcome} {s : State}

theorem offline_mainFirst (offline : s.lnk.feeds[f].control = none) (notUp : ∀ r, (s.linkAt f r).state.isUp = false)
    (free : (s.linkAt f .reserve).held = false) :
    portOutcome f .reserve lateR or (portOutcome f .main lateM om s) = offlineResult f om or s := by
  rw [portOutcome_offline offline (notUp .main) free]
  cases rises : ((s.linkAt f .main).state.step om.isGood).isUp with
  | true =>
    have h := portOutcome_cameOnline (r := .main) (late := lateR) (o := or)
      (x := (s.linkAt f .main).state.step om.isGood) (notUp .reserve)
    simpa [offlineResult, rises, Role.other] using h
  | false =>
    have atR (x : LinkState) : (setPort f .main x s).linkAt f .reserve = s.linkAt f .reserve :=
      setPort_linkAt_other f .main x s
    have freeM (x : LinkState) : ((setPort f .main x s).linkAt f .main).held = false := by rw [setPort_linkAt]
    rw [if_neg Bool.false_ne_true,
      portOutcome_offline (s := setPort f .main _ s) (r := .reserve) offline (by rw [atR]; exact notUp .reserve)
        (freeM _), atR]
    simp [offlineResult, rises]

theorem offline_reserveFirst (offline : s.lnk.feeds[f].control = none)
    (notUp : ∀ r, (s.linkAt f r).state.isUp = false) (free : (s.linkAt f .main).held = false) :
    portOutcome f .main lateM om (portOutcome f .reserve lateR or s) = offlineResult f om or s := by
  have comm (x y : LinkState) :
      setPort f .main x (setPort f .reserve y s) = setPort f .reserve y (setPort f .main x s) :=
    setPort_comm f .reserve y x s
  rw [portOutcome_offline (r := .reserve) offline (notUp .reserve) free]
  cases rises : ((s.linkAt f .reserve).state.step or.isGood).isUp with
  | true =>
    have h := portOutcome_cameOnline (r := .reserve) (late := lateM) (o := om)
      (x := (s.linkAt f .reserve).state.step or.isGood) (notUp .main)
    simpa [offlineResult, rises, Role.other, comm] using h
  | false =>
    have atM (x : LinkState) : (setPort f .reserve x s).linkAt f .main = s.linkAt f .main :=
      setPort_linkAt_other f .reserve x s
    have freeR (x : LinkState) : ((setPort f .reserve x s).linkAt f .reserve).held = false := by rw [setPort_linkAt]
    rw [if_neg Bool.false_ne_true,
      portOutcome_offline (s := setPort f .reserve _ s) (r := .main) offline (by rw [atM]; exact notUp .main)
        (freeR _), atM]
    simp [offlineResult, rises, comm]

/-- The two outcomes of a frame end alike in either order (R131 to R133, log entry 9). -/
theorem portOutcome_comm (sound : s.feedsSound) (old : s.lnk.feeds[f].cameOnline = false)
    (fresh : ∀ r : Role, (s.linkAt f r).judged = false ∧ (s.linkAt f r).held = false) :
    portOutcome f .reserve lateR or (portOutcome f .main lateM om s) =
      portOutcome f .main lateM om (portOutcome f .reserve lateR or s) := by
  obtain ⟨-, record⟩ := sound
  have here := record f
  obtain ⟨judgedM, freeM⟩ := fresh .main
  obtain ⟨judgedR, freeR⟩ := fresh .reserve
  cases control : s.lnk.feeds[f].control with
  | none =>
    rw [control] at here
    obtain ⟨downM, downR, -⟩ := here
    have notUp (r : Role) : (s.linkAt f r).state.isUp = false := by
      cases r with
      | main => exact downM
      | reserve => exact downR
    rw [offline_mainFirst control notUp freeR, offline_reserveFirst control notUp freeM]
  | some c =>
    rw [control] at here
    cases c with
    | main =>
      exact (online_controlFirst control old here judgedR freeR).trans
        (online_standbyFirst control old here freeM).symm
    | reserve =>
      exact (online_standbyFirst control old here freeR).trans
        (online_controlFirst control old here judgedM freeM).symm

end

theorem runAll_two (p q : Port) (a b : List (List Byte)) (x y : Bool) (s : State) :
    runAll [.upstreamFrame p a x, .upstreamFrame q b y] s =
      portOutcome (feedOf q) (roleOf q) y (judgeUpstream b)
        (portOutcome (feedOf p) (roleOf p) x (judgeUpstream a) s) := rfl

/-! ### The obligation's own writing of the records -/

theorem upd_eq_tab_of {α : Type} {n : Nat} {v : Vector α n} {i : Fin n} {g : α → α} {x : α} (h : g v[i] = x) :
    upd v i g = tab fun j => if j = i then x else v[j] := by
  rw [upd_eq_tab]
  congr 1
  funext j
  split
  · next e => rw [e, h]
  · rfl

theorem linkAt_feedOf (p : Port) (s : State) : s.linkAt (feedOf p) (roleOf p) = s.lnk.ports[p] := by
  simp only [State.linkAt, portOf_feedOf]

theorem setPort_eq (p : Port) (x : LinkState) (s : State) :
    setPort (feedOf p) (roleOf p) x s =
      { s with lnk := { s.lnk with ports := tab fun q =>
        if q = p then { s.lnk.ports[p] with state := x, judged := true, held := false } else s.lnk.ports[q] } } := by
  have ports : upd s.lnk.ports p (LinkPort.taken x) =
      tab fun q => if q = p then (s.lnk.ports[p]).taken x else s.lnk.ports[q] := upd_eq_tab_of rfl
  rw [setPort, portOf_feedOf, ports]
  rfl

theorem record_eq {f : Feed} {g : FeedRecord → FeedRecord} {h : Lane → Lane} {s : State} {x : FeedRecord} {l : Lane}
    (record : g s.lnk.feeds[f] = x) (lane : h (s.lane f) = l) :
    ({ s with lnk := s.lnk.onFeed f g, cle := s.cle.onLane f h } : State) =
      { s with
        lnk := { s.lnk with feeds := tab fun j => if j = f then x else s.lnk.feeds[j] }
        cle := { s.cle with lanes := tab fun j => if j = f then l else s.lane j } } := by
  unfold Lnk.onFeed Cle.onLane
  rw [upd_eq_tab_of record, upd_eq_tab_of (v := s.cle.lanes) lane]
  rfl

theorem markOffline_eq (f : Feed) (s : State) :
    markOffline f s =
      { s with
        lnk := { s.lnk with
          feeds := tab fun j => if j = f then { s.lnk.feeds[f] with control := none } else s.lnk.feeds[j] }
        cle := { s.cle with lanes := tab fun j => if j = f then Lane.reset else s.lane j }
        scu := { s.scu with opened := tab fun j => if j = f then none else s.openScene j }
        lmu := { s.lmu with subscriptions := tab fun j => if j = f then none else s.lmu.subscriptions[j] } } := by
  unfold markOffline Lnk.onFeed Cle.onLane
  rw [upd_eq_tab_of (v := s.lnk.feeds) (x := { s.lnk.feeds[f] with control := none }) rfl,
    upd_eq_tab_of (v := s.cle.lanes) (x := Lane.reset) rfl, put_eq_tab, put_eq_tab]
  rfl

/-- Control has been on the reserve port since this frame, and the main port comes UP. -/
theorem cameOnReserve_iff {x : FeedRecord} {c r : Role} (control : x.control = some c) :
    (x.cameOnline && decide (r = .main ∧ c = .reserve)) = true ↔
      x = { x with control := some .reserve, cameOnline := true } ∧ r = .main := by
  cases x
  cases control
  simp
  tauto

/-- What the clock hears of a source, but during the power-on load (R15, R16). -/
theorem report_eq (change : Ftu → Ftu) (s : State) :
    clockEvent (fun u => if s.clockListens then change u else u) s =
      if s.sil.load = .loading .powerOn then s
      else
        told (toFeeds (fun _ => decide ((change s.ftu).clock ≠ s.ftu.clock)) (.clock (change s.ftu).clock s.ftu.frame))
          { s with ftu := change s.ftu } := by
  by_cases h : s.sil.load = .loading .powerOn
  · have asleep : s.clockListens = false := by simp [State.clockListens, h]
    rw [if_pos h]
    exact clockEvent_id _ s (by rw [asleep]; rfl)
  · have awake : s.clockListens = true := (clockListens_iff s).2 h
    rw [if_neg h, clockEvent_told, awake]
    rfl

/-! ### The frames that move the record -/

section
variable {f : Feed} {r : Role} {late : Bool} {o : UpOutcome} {s : State} {run : Nat}

theorem step_rises (enough : 15 ≤ run) : (LinkState.seek run).step true = .up 0 :=
  if_pos (show 16 ≤ run + 1 by omega)

theorem step_falls (enough : 7 ≤ run) : (LinkState.up run).step false = .down :=
  if_pos (show 8 ≤ run + 1 by omega)

theorem isGood_of_ne_bad (h : o ≠ .bad) : o.isGood = true := by
  cases o with
  | good som bytes => rfl
  | bad => exact absurd rfl h

/-- The sixteenth good frame on a port of an OFFLINE feed (R131). -/
theorem rises_offline (seek : (s.linkAt f r).state = .seek run) (enough : 15 ≤ run) (good : o ≠ .bad)
    (free : (s.linkAt f r.other).held = false) (offline : s.lnk.feeds[f].control = none) :
    portOutcome f r late o s = goOnline f r (setPort f r (.up 0) s) := by
  rw [portOutcome_offline offline (by rw [seek]; rfl) free, isGood_of_ne_bad good, seek, step_rises enough]
  rfl

/-- The sixteenth good frame on a port of an ONLINE feed (R131, log entry 9). -/
theorem rises_online (seek : (s.linkAt f r).state = .seek run) (enough : 15 ≤ run) (good : o ≠ .bad)
    (free : (s.linkAt f r.other).held = false) {c : Role} (online : s.lnk.feeds[f].control = some c) :
    portOutcome f r late o s =
      if s.lnk.feeds[f].cameOnline && decide (r = .main ∧ c = .reserve) then
        moveControl f .main (setPort f r (.up 0) s)
      else setPort f r (.up 0) s := by
  have up : (s.linkAt f r).state.step o.isGood = .up 0 := by rw [isGood_of_ne_bad good, seek, step_rises enough]
  rw [portOutcome_notUp (by rw [seek]; rfl) free, takeOutcome_rises (by rw [seek]; rfl) (by rw [up]; rfl), up, portUp,
    setPort_feeds, online]

/-- The eighth bad frame on a port of a feed, when it does not wait (R132 to R134, log entry 9). -/
theorem falls_now (up : (s.linkAt f r).state = .up run) (enough : 7 ≤ run)
    (free : (s.linkAt f r.other).held = false) (now : mustWait f r s = false) :
    portOutcome f r late .bad s = portDown f r (setPort f r .down s) := by
  have down : (s.linkAt f r).state.step false = .down := by rw [up, step_falls enough]
  rw [portOutcome_taken free fun _ => now]
  show takeOutcome f r false s = _
  rw [takeOutcome_falls (by rw [up]; rfl) (by rw [down]; rfl), down]

theorem portDown_control (control : s.lnk.feeds[f].control = some r) :
    portDown f r (setPort f r .down s) =
      if (s.linkAt f r.other).state.isUp then moveControl f r.other (setPort f r .down s)
      else goOffline f (setPort f r .down s) := by
  rw [portDown, setPort_feeds, if_pos control, setPort_linkAt_other]

theorem portDown_standby (control : s.lnk.feeds[f].control ≠ some r) :
    portDown f r (setPort f r .down s) = setPort f r .down s := by
  rw [portDown, setPort_feeds, if_neg control]

theorem mustWait_of_judged (judged : (s.linkAt f r.other).judged = true) : mustWait f r s = false := by
  simp [mustWait, judged]

/-- The control port waits for no port that cannot be UP after the frame. -/
theorem mustWait_of_low (control : s.lnk.feeds[f].control = some r) (notUp : ∀ n, (s.linkAt f r.other).state ≠ .up n)
    (low : ∀ n, (s.linkAt f r.other).state = .seek n → n < 15) : mustWait f r s = false := by
  have stays : (LinkState.step true (s.linkAt f r.other).state).isUp = false := by
    cases at_ : (s.linkAt f r.other).state with
    | down => rfl
    | up n => exact absurd at_ (notUp n)
    | seek n =>
      have few := low n at_
      rw [show (LinkState.seek n).step true = .seek (n + 1) from if_neg (by omega)]
      rfl
  rw [mustWait_control control, stays, Bool.and_false]

/-- The other port waits for no port that cannot fall in the frame. -/
theorem mustWait_of_firm (control : s.lnk.feeds[f].control ≠ some r)
    (firm : ∀ n, (s.linkAt f r.other).state = .up n → n < 7) : mustWait f r s = false := by
  have stays : (s.linkAt f r.other).state.falls = false := by
    cases at_ : (s.linkAt f r.other).state with
    | down | seek n => rfl
    | up n =>
      have few := firm n at_
      rw [LinkState.falls, show (LinkState.up n).step false = .up (n + 1) from if_neg (by omega)]
      rfl
  rw [mustWait, if_neg control, stays, Bool.and_false]

end

theorem exec_upstreamFrame (p : Port) (received : List (List Byte)) (late : Bool) (s : State) :
    exec (.upstreamFrame p received late) s =
      .next (portOutcome (feedOf p) (roleOf p) late (judgeUpstream received) s) := rfl

/-- Settles O14: each frame that moves a feed's record, and the order of the two ports' outcomes by the cases of the
feed's control port. -/
theorem feedRecordFollowsPorts : Obligations.FeedRecordFollowsPorts := by
  unfold Obligations.FeedRecordFollowsPorts
  refine ⟨?_, ?_⟩
  · intro s p received late run f r other port record clock came gone waiting free
    have port_eq (x : LinkState) : port x s = setPort f r x s := (setPort_eq p x s).symm
    have came_eq (u : State) : came u = reportCame (.feed f) u :=
      (report_eq (Ftu.sourceCame u.available (.feed f)) u).symm
    have gone_eq (u : State) : gone u = reportGone (.feed f) u :=
      (report_eq (Ftu.sourceGone u.available (.feed f)) u).symm
    have online_eq (x : LinkState) :
        record { control := some r, resync := true, cameOnline := true } waiting (setPort f r x s) =
          markOnline f r (setPort f r x s) :=
      (record_eq (s := setPort f r x s) (g := fun _ => { control := some r, resync := true, cameOnline := true })
        (h := fun l => { l with assembler := .waitSom }) rfl rfl).symm
    have move_eq (q : Role) (x : LinkState) :
        record { s.lnk.feeds[f] with control := some q } waiting (setPort f r x s) =
          moveControl f q (setPort f r x s) :=
      (record_eq (s := setPort f r x s) (g := fun y => { y with control := some q })
        (h := fun l => { l with assembler := .waitSom }) rfl rfl).symm
    have link : s.linkAt f r = s.lnk.ports[p] := linkAt_feedOf p s
    rw [← link, exec_upstreamFrame]
    refine ⟨fun seek enough good => ⟨fun offline => ?_, fun online => ?_⟩, fun up enough bad => ?_⟩
    · rw [rises_offline seek enough good free offline, port_eq, online_eq, came_eq, goOnline_eq]
    · obtain ⟨c, control⟩ := Option.ne_none_iff_exists'.1 online
      rw [rises_online seek enough good free control, port_eq, move_eq]
      simp only [cameOnReserve_iff control]
    · rw [bad]
      refine ⟨fun control judged otherUp => ?_, fun control notUp waits => ?_, fun standby waits => ?_⟩
      · rw [falls_now up enough free (mustWait_of_judged judged), portDown_control control,
          if_pos (isUp_iff.2 otherUp), port_eq, move_eq]
      · have now : mustWait f r s = false := by
          rcases waits with judged | low
          · exact mustWait_of_judged judged
          · exact mustWait_of_low control notUp low
        rw [falls_now up enough free now, portDown_control control,
          if_neg (fun h => by obtain ⟨n, hn⟩ := isUp_iff.1 h; exact notUp n hn), port_eq, gone_eq, goOffline_eq, markOffline_eq]
        rfl
      · have now : mustWait f r s = false := by
          rcases waits with judged | firm
          · exact mustWait_of_judged judged
          · exact mustWait_of_firm standby firm
        rw [falls_now up enough free now, portDown_standby standby, port_eq]
  · intro s f a b x y sound old fresh
    rw [runAll_two, runAll_two]
    simp only [feedOf_portOf, roleOf_portOf]
    exact portOutcome_comm sound old fresh

end Sys2Proof.Machine
end

section
/-! PROOFS. Reading the stored image (R162): bytes and numbers at their offsets, the checks of laws and window lists, and the
corrections of values out of range. -/

namespace Sys2Proof.Machine

/-! ### Bytes and numbers -/

theorem toNat_two_bytes (hi lo : Byte) : (hi ++ lo).toNat = 256 * hi.toNat + lo.toNat := by
  rw [BitVec.toNat_append, ← Nat.shiftLeft_add_eq_or_of_lt lo.isLt, Nat.shiftLeft_eq]
  omega

theorem signed16_eq (hi lo : Byte) :
    signed16 hi lo =
      if 256 * hi.toNat + lo.toNat < 32768 then ((256 * hi.toNat + lo.toNat : Nat) : Int)
      else ((256 * hi.toNat + lo.toNat : Nat) : Int) - 65536 := by
  rw [signed16, BitVec.toInt_eq_toNat_cond, toNat_two_bytes]
  split <;> split <;> omega

theorem take_succ_at8 (b : List Byte) (off k : Nat) (inside : off < b.length) :
    (b.drop off).take (k + 1) = at8 b off :: (b.drop (off + 1)).take k := by
  rw [List.drop_eq_getElem_cons inside, List.take_succ_cons, at8, List.getD_eq_getElem _ _ inside]

theorem atBe_two (b : List Byte) (off : Nat) (inside : off + 2 ≤ b.length) :
    atBe b off 2 = 256 * (at8 b off).toNat + (at8 b (off + 1)).toNat := by
  rw [atBe, take_succ_at8 b off 1 (by omega), take_succ_at8 b (off + 1) 0 (by omega), List.take_zero]
  simp [ofBe]
  omega

theorem atBe_three (b : List Byte) (off : Nat) (inside : off + 3 ≤ b.length) :
    atBe b off 3 =
      256 * (256 * (at8 b off).toNat + (at8 b (off + 1)).toNat) + (at8 b (off + 2)).toNat := by
  rw [atBe, take_succ_at8 b off 2 (by omega), take_succ_at8 b (off + 1) 1 (by omega),
    take_succ_at8 b (off + 2) 0 (by omega), List.take_zero]
  simp [ofBe]
  omega

/-! ### Laws -/

/-- The one pass over a table finds no fault when the entries lie in their range and do not decrease (R66, R88). -/
theorem firstFault_none (lo hi idx : Nat) (prev : Option Nat) (l : List Nat) :
    firstFault lo hi idx prev l = none ↔
      (∀ x ∈ l, lo ≤ x ∧ x ≤ hi) ∧ (prev.toList ++ l).IsChain (· ≤ ·) := by
  induction l generalizing idx prev with
  | nil => cases prev <;> simp [firstFault]
  | cons x l ih =>
    have range : ¬ (x < lo ∨ hi < x) ↔ lo ≤ x ∧ x ≤ hi := by omega
    unfold firstFault
    by_cases inside : x < lo ∨ hi < x
    · simp [inside]
      omega
    · rw [if_neg inside]
      have fits := range.1 inside
      cases prev with
      | none => simp [ih, fits]
      | some p =>
        by_cases falls : x < p
        · simp [falls]
        · simp [falls, ih, fits]
          omega

theorem entries_getElem {n w : Nat} (t : Vector (BitVec w) n) (k : Nat) (h : k < (entries t).length) :
    (entries t)[k] = (t[k]'(by simpa [entries] using h)).toNat := by
  simp [entries]

theorem entries_length {n w : Nat} (t : Vector (BitVec w) n) : (entries t).length = n := by
  simp [entries]

theorem firstFault_entries {n w : Nat} (lo hi : Nat) (t : Vector (BitVec w) n) :
    firstFault lo hi 0 none (entries t) = none ↔
      (∀ k : Fin n, lo ≤ t[k].toNat ∧ t[k].toNat ≤ hi) ∧ ∀ k j : Fin n, k ≤ j → t[k].toNat ≤ t[j].toNat := by
  rw [firstFault_none, Option.toList_none, List.nil_append, List.isChain_iff_pairwise, List.pairwise_iff_getElem]
  simp only [entries_getElem, entries_length, List.forall_mem_iff_getElem]
  refine and_congr ⟨fun h k => h k.val k.isLt, fun h k hk => h ⟨k, hk⟩⟩ ⟨fun h k j le => ?_, fun h k j hk hj lt =>
    h ⟨k, hk⟩ ⟨j, hj⟩ (Nat.le_of_lt lt)⟩
  rcases Nat.lt_or_eq_of_le le with lt | e
  · exact h k.val j.val k.isLt j.isLt lt
  · rw [Fin.ext e]

theorem gltFault_none (t : Vector Mantissa 48) : (gltFault t).isNone = true ↔ lawSound t := by
  have pass := firstFault_entries 4194304 16777215 t
  unfold gltFault lawSound
  cases e : firstFault 4194304 16777215 0 none (entries t) with
  | none =>
    obtain ⟨range, order⟩ := pass.1 e
    dsimp only
    split
    · next last => exact ⟨fun _ => ⟨range, order, last⟩, fun _ => rfl⟩
    · next last => exact ⟨(fun h => nomatch h), fun ⟨_, _, h⟩ => absurd h last⟩
  | some fault =>
    rw [e] at pass
    exact ⟨(fun h => nomatch h), fun ⟨range, order, _⟩ => nomatch pass.2 ⟨range, order⟩⟩

theorem pltFault_none (t : Vector LawEntry 64) : (pltFault t).isNone = true ↔ plawSound t := by
  rw [pltFault, Option.isNone_iff_eq_none, firstFault_entries]
  simp only [Nat.zero_le, true_and]
  exact Iff.rfl

theorem sectionGlt_sound (b : List Byte) : lawSound (sectionGlt b) := by
  unfold sectionGlt
  dsimp only
  split
  · next pass => exact (gltFault_none _).1 pass
  · exact test_builtin_law_sound

theorem sectionPlt_sound (b : List Byte) : plawSound (sectionPlt b) := by
  unfold sectionPlt
  dsimp only
  split
  · next pass => exact (pltFault_none _).1 pass
  · exact test_builtin_plaw_sound

/-! ### Window lists -/

/-- One window's fields as R24 takes them: none when it is refused. -/
def takenWindow (e : Nat × Nat × Nat × Nat) : Option Window := (checkWindow e.1 e.2.1 e.2.2.1 e.2.2.2).map (·.1)

/-- A list with a refused window is refused whole (R24). -/
theorem checkWindows_refused (idx : Nat) (l : List (Nat × Nat × Nat × Nat))
    (refused : ∃ e ∈ l, takenWindow e = none) : ∃ place, checkWindows idx l = .error place := by
  induction l generalizing idx with
  | nil =>
    obtain ⟨e, he, -⟩ := refused
    cases he
  | cons e l ih =>
    obtain ⟨k, f, c, o⟩ := e
    unfold checkWindows
    cases first : checkWindow k f c o with
    | none => exact ⟨idx, rfl⟩
    | some w =>
      have taken : takenWindow (k, f, c, o) ≠ none := by simp [takenWindow, first]
      obtain ⟨e, he, out⟩ := refused
      rcases List.mem_cons.1 he with rfl | later
      · exact absurd out taken
      · obtain ⟨place, rest⟩ := ih (idx + 1) ⟨e, later, out⟩
        exact ⟨place, by simp only [rest]⟩

/-- A list without a refused window is taken (R24). -/
theorem checkWindows_taken (idx : Nat) (l : List (Nat × Nat × Nat × Nat))
    (fine : ¬ ∃ e ∈ l, takenWindow e = none) :
    ∃ reduced, checkWindows idx l = .ok (l.filterMap takenWindow, reduced) := by
  induction l generalizing idx with
  | nil => exact ⟨false, rfl⟩
  | cons e l ih =>
    obtain ⟨k, f, c, o⟩ := e
    unfold checkWindows
    cases first : checkWindow k f c o with
    | none => exact absurd ⟨(k, f, c, o), List.mem_cons_self, by simp [takenWindow, first]⟩ fine
    | some w =>
      have taken : takenWindow (k, f, c, o) = some w.1 := by simp [takenWindow, first]
      obtain ⟨reduced, rest⟩ := ih (idx + 1) fun ⟨e, later, out⟩ => fine ⟨e, List.mem_cons_of_mem _ later, out⟩
      exact ⟨w.2 || reduced, by simp only [rest, List.filterMap_cons_some taken]⟩

/-- The windows that R24 takes, and their reduced counts. -/
theorem takenWindow_eq (kind first count order : Nat) :
    takenWindow (kind, first, count, order) =
      if 2 < kind ∨ count = 0 then none
      else if kind = 0 then
        if 1 < order ∨ 47 < first then none
        else if order = 0 then some (.input first (min count (48 - first)) .straight)
        else if count % 2 = 1 then none
        else if first + count ≤ 48 then some (.input first count .interleaved)
        else if first = 47 then none
        else some (.input first (48 - first - (48 - first) % 2) .interleaved)
      else if 64 < count then none
      else some (if kind = 1 then .silence count else .pattern count) := by
  have even : 2 * ((48 - first) / 2) = 48 - first - (48 - first) % 2 := by omega
  unfold takenWindow checkWindow
  dsimp only
  rw [even]
  split
  · next h => simp [h]
  · next known =>
    split
    · next h => simp [h]
    · next some_ =>
      rw [if_neg (by omega : ¬ (2 < kind ∨ count = 0))]
      split
      · split
        · next h => simp [h]
        · next straight =>
          split
          · next h => simp [h]
          · next inside =>
            rw [if_neg (by omega : ¬ (1 < order ∨ 47 < first))]
            split
            · split
              · next large => rw [show min count (48 - first) = 48 - first by omega]; rfl
              · next fits => rw [show min count (48 - first) = count by omega]; rfl
            · split
              · rfl
              · by_cases large : 48 < first + count
                · rw [if_pos large, if_neg (by omega : ¬ first + count ≤ 48)]
                  by_cases last : first = 47
                  · rw [if_pos (by omega), if_pos last]
                    rfl
                  · rw [if_neg (by omega), if_neg last]
                    rfl
                · rw [if_neg large, if_pos (by omega)]
                  rfl
      · split
        · rfl
        · split <;> rfl

theorem takenWindow_sound {e : Nat × Nat × Nat × Nat} {w : Window} (h : takenWindow e = some w) : w.sound := by
  obtain ⟨kind, first, count, order⟩ := e
  rw [takenWindow_eq] at h
  unfold Window.sound
  split at h
  · cases h
  · next known =>
    split at h
    · split at h
      · cases h
      · next inside =>
        split at h
        · cases h
          exact ⟨by omega, by omega, fun h => nomatch h⟩
        · split at h
          · cases h
          · next even =>
            split at h
            · next fits =>
              cases h
              exact ⟨by omega, fits, fun _ => by omega⟩
            · split at h
              · cases h
              · cases h
                exact ⟨by omega, by omega, fun _ => by omega⟩
    · split at h
      · cases h
      · cases h
        by_cases one : kind = 1
        · rw [if_pos one]
          exact ⟨by omega, by omega⟩
        · rw [if_neg one]
          exact ⟨by omega, by omega⟩

/-- The four fields of window `w` of the list at an offset of the sections (R23). -/
def fieldsAt (b : List Byte) (off w : Nat) : Nat × Nat × Nat × Nat :=
  ((at8 b (off + 4 * w)).toNat, (at8 b (off + 1 + 4 * w)).toNat, (at8 b (off + 2 + 4 * w)).toNat,
    (at8 b (off + 3 + 4 * w)).toNat)

theorem windowFields_length (l : List Byte) : 4 * (windowFields l).length ≤ l.length := by
  induction l using windowFields.induct with
  | case1 k f c o rest ih =>
    simp only [windowFields, List.length_cons]
    omega
  | case2 l short =>
    unfold windowFields
    split
    · exact absurd rfl (short _ _ _ _ _)
    · simp

theorem windowFields_eq (b : List Byte) (off n : Nat) (inside : off + 4 * n ≤ b.length) :
    windowFields ((b.drop off).take (4 * n)) = (List.range n).map (fieldsAt b off) := by
  induction n generalizing off with
  | zero => rfl
  | succ n ih =>
    have four : 4 * (n + 1) = 4 * n + 1 + 1 + 1 + 1 := by omega
    rw [four, take_succ_at8 b off _ (by omega), take_succ_at8 b (off + 1) _ (by omega),
      take_succ_at8 b (off + 1 + 1) _ (by omega), take_succ_at8 b (off + 1 + 1 + 1) _ (by omega), windowFields,
      ih (off + 1 + 1 + 1 + 1) (by omega), List.range_succ_eq_map, List.map_cons, List.map_map]
    refine congrArg _ (List.map_congr_left fun w _ => ?_)
    have zero : off + 1 + 1 + 1 + 1 + 4 * w = off + 4 * (w + 1) := by omega
    have one : off + 1 + 1 + 1 + 1 + 1 + 4 * w = off + 1 + 4 * (w + 1) := by omega
    have two : off + 1 + 1 + 1 + 1 + 2 + 4 * w = off + 2 + 4 * (w + 1) := by omega
    have three : off + 1 + 1 + 1 + 1 + 3 + 4 * w = off + 3 + 4 * (w + 1) := by omega
    simp only [fieldsAt, Function.comp_apply, Nat.succ_eq_add_one, zero, one, two, three]

/-- A feed's window list as the sections give it (R28). -/
theorem sectionWindows_eq (b : List Byte) (f : Feed) :
    let off := 634 + 33 * f.val
    let n := (at8 b off).toNat
    let fields := windowFields ((b.drop (off + 1)).take (4 * n))
    sectionWindows b f =
      if 8 < n ∨ ∃ e ∈ fields, takenWindow e = none then defaultWindows else fields.filterMap takenWindow := by
  intro off n fields
  unfold sectionWindows
  by_cases many : 8 < n
  · exact (if_pos many).trans (if_pos (Or.inl many)).symm
  · dsimp only
    rw [if_neg many]
    by_cases refused : ∃ e ∈ fields, takenWindow e = none
    · obtain ⟨place, h⟩ := checkWindows_refused 0 fields refused
      rw [h, if_pos (.inr refused)]
    · obtain ⟨reduced, h⟩ := checkWindows_taken 0 fields refused
      rw [h, if_neg (not_or.2 ⟨many, refused⟩)]

/-- Whatever the bytes, the window list of a feed is a sound one (R18, R28). -/
theorem sectionWindows_sound (b : List Byte) (f : Feed) :
    (sectionWindows b f).length ≤ 8 ∧ ∀ w ∈ sectionWindows b f, w.sound := by
  rw [sectionWindows_eq]
  split
  · exact ⟨by decide, fun w h => List.mem_singleton.1 h ▸ ⟨by decide, by decide, fun h => nomatch h⟩⟩
  · next ok =>
    refine ⟨?_, fun w h => ?_⟩
    · have taken := List.length_filterMap_le takenWindow
        (windowFields ((b.drop (634 + 33 * f.val + 1)).take (4 * (at8 b (634 + 33 * f.val)).toNat)))
      have fields := windowFields_length
        ((b.drop (634 + 33 * f.val + 1)).take (4 * (at8 b (634 + 33 * f.val)).toNat))
      rw [List.length_take] at fields
      omega
    · obtain ⟨e, -, he⟩ := List.mem_filterMap.1 h
      exact takenWindow_sound he

/-! ### The corrected settings lie in their ranges -/

theorem keepIn_range {lo hi other x : Int} (h : lo ≤ other ∧ other ≤ hi) :
    lo ≤ keepIn lo hi other x ∧ keepIn lo hi other x ≤ hi := by
  unfold keepIn
  split
  · assumption
  · exact h

theorem ofSections_sound (b : List Byte) : (Settings.ofSections b).sound := by
  obtain ⟨few, many, nodup⟩ := sectionSources_listFits b
  refine ⟨few, many, nodup, fun g => ?spacing, ?_, ?_, fun i => ?clips, sectionGlt_sound b, sectionPlt_sound b,
    fun f => ?windows, fun f i => ?taps⟩
  case spacing =>
    have spacing := keepIn_range (lo := 1) (hi := 16) (other := 4) (x := (at8 b (10 + 2 * g.val)).toNat) (by decide)
    have delay := keepIn_range (lo := 0) (hi := 63) (other := 12) (x := (at8 b (11 + 2 * g.val)).toNat) (by decide)
    simp only [Settings.ofSections, Fin.getElem_fin, tab_entry]
    omega
  case clips =>
    simp only [Settings.ofSections, Fin.getElem_fin, tab_entry, sectionClip]
    split <;> omega
  case windows =>
    simp only [Settings.ofSections, Fin.getElem_fin, tab_entry]
    exact sectionWindows_sound b f
  case taps =>
    simp only [Settings.ofSections, Fin.getElem_fin, tab_entry, sectionTap]
    exact clampTrim_range _
  all_goals
    have pad := keepIn_range (lo := -255) (hi := 0) (other := -160) (x := signed16 (at8 b 24) (at8 b 25)) (by decide)
  · exact pad.1
  · exact pad.2

end Sys2Proof.Machine
end

section
/-! PROOFS. Where each setting stands in the section bytes, and what replaces a value out of its range (R162). -/

namespace Sys2Proof.Machine

/-! ### Values of bytes -/

theorem eq_one_iff (x : Byte) : x = 1 ↔ x.toNat = 1 := BitVec.toNat_eq

theorem ownerOf_eq (x : Byte) : ownerOf x = if x.toNat ≤ 3 then some (Fin.ofNat 4 x.toNat) else none := by
  unfold ownerOf
  split
  · next h =>
    rw [if_pos (by omega)]
    exact congrArg some (Fin.ext (Nat.mod_eq_of_lt h).symm)
  · rw [if_neg (by omega)]

theorem supervisor_eq (x : Byte) : (ownerOf x).getD 0 = if x.toNat ≤ 3 then Fin.ofNat 4 x.toNat else 0 := by
  rw [ownerOf_eq]
  by_cases h : x.toNat ≤ 3
  · rw [if_pos h, if_pos h]
    rfl
  · rw [if_neg h, if_neg h]
    rfl

theorem keepIn_nat (lo hi other n : Nat) :
    (keepIn lo hi other n).toNat = if lo ≤ n ∧ n ≤ hi then n else other := by
  simp only [keepIn, Nat.cast_le]
  split <;> rfl

theorem tab_at {α : Type} {n : Nat} (g : Fin n → α) (i : Fin n) : (tab g)[i] = g i := tab_entry g i.val i.isLt

theorem glideOf_val (x : Byte) : (glideOf x).val = min x.toNat 15 := Nat.mod_eq_of_lt (by omega)

theorem codeOf_val (n : Nat) : (codeOf n).val = min n 63 := by
  simp only [codeOf, clampCode, clampTo, Fin.ofNat]
  split
  · omega
  · split <;> omega

theorem clipMode_ofCode (n : Nat) :
    (ClipMode.ofCode n).getD .off = if n = 1 then .oneShot else if n = 2 then .cyclic else .off := by
  unfold ClipMode.ofCode
  split
  · rfl
  · rfl
  · rfl
  · next h0 h1 h2 => rw [if_neg h1, if_neg h2]; rfl

theorem codedSource_toNat (c : Byte) :
    codedSource c =
      if c.toNat = 0 then .internal else if c.toNat = 1 then .wordclock else .feed (Fin.ofNat 4 (c.toNat - 2)) := by
  have zero : c = 0 ↔ c.toNat = 0 := BitVec.toNat_eq
  unfold codedSource
  simp only [zero, eq_one_iff]

theorem slice_eq_range (b : List Byte) (off n : Nat) (inside : off + n ≤ b.length) :
    (b.drop off).take n = (List.range n).map fun k => at8 b (off + k) := by
  induction n generalizing off with
  | zero => rfl
  | succ n ih =>
    rw [take_succ_at8 b off n (by omega), ih (off + 1) (by omega), List.range_succ_eq_map, List.map_cons, List.map_map]
    refine congrArg _ (List.map_congr_left fun k _ => ?_)
    rw [Function.comp_apply, Nat.succ_eq_add_one, Nat.add_right_comm, Nat.add_assoc]

/-! ### The settings of 1,730 section bytes -/

section
variable {b : List Byte} (full : b.length = 1730)
include full

theorem sectionSources_eq :
    let n := (at8 b 2).toNat
    let codes := (List.range n).map fun k => (at8 b (3 + k)).toNat
    sectionSources b =
      if 1 ≤ n ∧ n ≤ 4 ∧ (∀ c ∈ codes, c ≤ 5) ∧ codes.Nodup then
        codes.map fun c => if c = 0 then .internal else if c = 1 then .wordclock else .feed (Fin.ofNat 4 (c - 2))
      else [.feed 0, .internal] := by
  intro n codes
  unfold sectionSources
  by_cases many : 4 < n
  · exact (if_pos many).trans (if_neg fun ⟨_, h, _⟩ => absurd h (by omega)).symm
  · have slice : (b.drop 3).take n = (List.range n).map fun k => at8 b (3 + k) :=
      slice_eq_range b 3 n (by omega)
    have codes_eq : codes = ((b.drop 3).take n).map (·.toNat) := by
      rw [slice, List.map_map]
      rfl
    have empty : (b.drop 3).take n = [] ↔ ¬ 1 ≤ n := by
      rw [slice, List.map_eq_nil_iff, List.range_eq_nil]
      omega
    have repeated : ¬ ((b.drop 3).take n).Nodup ↔ ¬ codes.Nodup := by
      rw [codes_eq, List.nodup_map_iff fun a b h => BitVec.eq_of_toNat_eq h]
    have large : (∃ c ∈ (b.drop 3).take n, 5 < c.toNat) ↔ ¬ ∀ c ∈ codes, c ≤ 5 := by
      rw [codes_eq, List.forall_mem_map]
      simp only [not_forall, not_le, exists_prop]
    have few : n ≤ 4 := by omega
    refine (if_neg many).trans
      ((congrArg (Option.getD · builtinSources) (sourcesOf_codes ((b.drop 3).take n))).trans ?_)
    simp only [empty, large, repeated, few, true_and, ← not_and_or, ite_not]
    split
    · rw [codes_eq, List.map_map]
      exact List.map_congr_left fun c _ => codedSource_toNat c
    · rfl

theorem sectionClip_eq (i : Input) :
    let k := 26 + 7 * i.val
    let n24 (k : Nat) := 256 * (256 * (at8 b k).toNat + (at8 b (k + 1)).toNat) + (at8 b (k + 2)).toNat
    let threshold := if n24 (k + 1) = 0 ∨ 8388607 < n24 (k + 1) then 8000000 else n24 (k + 1)
    sectionClip b i =
      { mode := if (at8 b k).toNat = 1 then .oneShot else if (at8 b k).toNat = 2 then .cyclic else .off
        threshold := threshold
        rearm := if threshold < n24 (k + 4) then threshold else n24 (k + 4) } := by
  intro k n24 threshold
  unfold sectionClip
  dsimp only
  rw [clipMode_ofCode, atBe_three b (26 + 7 * i.val + 1) (by omega), atBe_three b (26 + 7 * i.val + 4) (by omega)]
  have least (x y : Nat) : min x y = if y < x then y else x := by split <;> omega
  rw [least]

theorem sectionGlt_eq :
    let t : Vector Mantissa 48 := tab fun r => BitVec.ofNat 24
      (256 * (256 * (at8 b (362 + 3 * r.val)).toNat + (at8 b (362 + 3 * r.val + 1)).toNat) +
        (at8 b (362 + 3 * r.val + 2)).toNat)
    (lawSound t → sectionGlt b = t) ∧ (¬ lawSound t → sectionGlt b = builtinGlt) := by
  intro t
  have table : (tab fun r : Fin 48 => BitVec.ofNat 24 (atBe b (362 + 3 * r.val) 3)) = t := by
    refine congrArg _ (funext fun r => ?_)
    rw [atBe_three b (362 + 3 * r.val) (by omega)]
  unfold sectionGlt
  rw [table]
  exact ⟨fun h => if_pos ((gltFault_none t).2 h), fun h => if_neg (mt (gltFault_none t).1 h)⟩

theorem sectionPlt_eq :
    let t : Vector LawEntry 64 := tab fun k => BitVec.ofNat 16
      (256 * (at8 b (506 + 2 * k.val)).toNat + (at8 b (506 + 2 * k.val + 1)).toNat)
    (plawSound t → sectionPlt b = t) ∧ (¬ plawSound t → sectionPlt b = builtinPlt) := by
  intro t
  have table : (tab fun k : Fin 64 => BitVec.ofNat 16 (atBe b (506 + 2 * k.val) 2)) = t := by
    refine congrArg _ (funext fun k => ?_)
    rw [atBe_two b (506 + 2 * k.val) (by omega)]
  unfold sectionPlt
  rw [table]
  exact ⟨fun h => if_pos ((pltFault_none t).2 h), fun h => if_neg (mt (pltFault_none t).1 h)⟩

theorem sectionWindows_fields (f : Feed) :
    let k := 634 + 33 * f.val
    let n := (at8 b k).toNat
    sectionWindows b f =
      if 8 < n ∨ ∃ w ∈ List.range n, takenWindow (fieldsAt b (k + 1) w) = none then defaultWindows
      else (List.range n).filterMap fun w => takenWindow (fieldsAt b (k + 1) w) := by
  intro k n
  by_cases many : 8 < n
  · rw [sectionWindows_eq, if_pos (Or.inl many), if_pos (Or.inl many)]
  · have fields := windowFields_eq b (k + 1) n (by omega)
    rw [sectionWindows_eq]
    simp only [show 634 + 33 * f.val = k from rfl, show (at8 b k).toNat = n from rfl, fields, List.mem_map,
      exists_exists_and_eq_and, List.filterMap_map]
    rfl

end

theorem sectionTap_eq (b : List Byte) (f : Feed) (i : Input) :
    let k := 770 + 4 * (48 * f.val + i.val)
    let n16 := 256 * (at8 b (k + 1)).toNat + (at8 b (k + 2)).toNat
    let s16 : Int := if n16 < 32768 then n16 else (n16 : Int) - 65536
    sectionTap b f i =
      { track := decide ((at8 b k).toNat = 1)
        offset := if s16 < -320 then -320 else if 192 < s16 then 192 else s16
        mute := decide ((at8 b (k + 3)).toNat = 1) } := by
  intro k n16 s16
  unfold sectionTap
  simp only [eq_one_iff, signed16_eq]
  rfl

end Sys2Proof.Machine
end

section
/-! PROOFS. The settings as section bytes (R162, R166): where each block stands, and that each reads back. -/

namespace Sys2Proof.Machine

/-! ### Bytes at an offset -/

/-- The bytes `c` stand at offset `off`. -/
def holds (b : List Byte) (off : Nat) (c : List Byte) : Prop := c <+: b.drop off

theorem holds_append {b c d : List Byte} {off k : Nat} (length : c.length = k) (h : holds b off (c ++ d)) :
    holds b off c ∧ holds b (off + k) d := by
  obtain ⟨rest, h⟩ := h
  refine ⟨⟨d ++ rest, by rw [← h, List.append_assoc]⟩, rest, ?_⟩
  rw [← List.drop_drop, ← h, List.append_assoc, ← length, List.drop_left]

theorem holds_take {b c : List Byte} {off k : Nat} (length : c.length = k) (h : holds b off c) :
    (b.drop off).take k = c := by
  rw [← length]
  exact (List.prefix_iff_eq_take.1 h).symm

theorem holds_cons {b c : List Byte} {x : Byte} {off : Nat} (h : holds b off (x :: c)) :
    at8 b off = x ∧ holds b (off + 1) c := by
  obtain ⟨⟨rest, first⟩, tail⟩ := holds_append (c := [x]) rfl h
  refine ⟨?_, tail⟩
  have here : (b.drop off)[0]? = some x := by rw [← first]; rfl
  rw [List.getElem?_drop, Nat.add_zero] at here
  rw [at8, List.getD_eq_getElem?_getD, here]
  rfl

theorem holds_be {b : List Byte} {off k n : Nat} (h : holds b off (be k n)) : atBe b off k = n % 256 ^ k := by
  rw [atBe, holds_take (be_length k n) h, ofBe_be]

theorem flatMap_length {n m : Nat} {g : Fin n → List Byte} (each : ∀ i, (g i).length = m) :
    ((List.finRange n).flatMap g).length = m * n := by
  simp [List.length_flatMap, each, Nat.mul_comm]

/-- Blocks of one length stand at multiples of it. -/
theorem holds_flatMap {b : List Byte} {n m off : Nat} {g : Fin n → List Byte} (each : ∀ i, (g i).length = m)
    (h : holds b off ((List.finRange n).flatMap g)) (i : Fin n) : holds b (off + m * i.val) (g i) := by
  induction n generalizing off with
  | zero => exact i.elim0
  | succ n ih =>
    rw [List.finRange_succ, List.flatMap_cons, List.flatMap_map] at h
    obtain ⟨first, rest⟩ := holds_append (each 0) h
    cases i using Fin.cases with
    | zero => exact first
    | succ i =>
      have later := ih (g := fun j => g j.succ) (fun j => each j.succ) rest i
      rwa [Nat.add_assoc, Nat.add_comm m, ← Nat.mul_succ] at later

theorem holds_map {b : List Byte} {n off : Nat} {g : Fin n → Byte} (h : holds b off ((List.finRange n).map g))
    (i : Fin n) : holds b (off + i.val) [g i] := by
  rw [List.map_eq_flatMap] at h
  have here := holds_flatMap (m := 1) (fun _ => rfl) h i
  rwa [Nat.one_mul] at here

theorem padTo_length {n : Nat} {l : List Byte} (fits : l.length ≤ n) : (padTo n l).length = n := by
  rw [padTo, List.length_append, List.length_replicate]
  omega

/-! ### Values that read back -/

theorem toNat_byte {n : Nat} (h : n < 256) : (byte n).toNat = n := by
  rw [byte, BitVec.toNat_ofNat]
  omega

theorem ownerOf_byte (f : Feed) : ownerOf (byte f) = some f := by
  rw [ownerOf, toNat_byte (by omega), dif_pos f.isLt]

theorem ownerOf_ownerByte (o : Option Feed) : ownerOf (ownerByte o) = o := by
  cases o with
  | none => rfl
  | some f => exact ownerOf_byte f

theorem decide_bit (p : Bool) : decide (bit p = 1) = p := by cases p <;> decide

theorem codedSource_byte (x : ClockSource) : codedSource x.byte = x ∧ x.byte.toNat ≤ 5 := by
  cases x with
  | internal | wordclock => decide
  | feed k => revert k; decide

theorem clipMode_byte (m : ClipMode) : ClipMode.ofCode m.byte.toNat = some m := by cases m <;> rfl

theorem codeOf_byte (c : Fin 64) : codeOf (byte c).toNat = c := by
  rw [toNat_byte (by omega)]
  exact Fin.ext ((codeOf_val c).trans (by omega))

theorem glideOf_byte (g : Fin 16) : glideOf (byte g.val) = g := by
  apply Fin.ext
  rw [glideOf_val, toNat_byte (by omega)]
  omega

/-- Two bytes as a save writes them read back as the word they are of. -/
theorem two_bytes_be {b : List Byte} {off : Nat} {v : BitVec 16} (h : holds b off (be 2 v.toNat)) :
    at8 b off ++ at8 b (off + 1) = v := by
  obtain ⟨hi, rest⟩ := holds_cons h
  obtain ⟨lo, -⟩ := holds_cons rest
  apply BitVec.eq_of_toNat_eq
  rw [toNat_two_bytes, hi, lo, BitVec.toNat_ofNat, BitVec.toNat_ofNat, Nat.shiftRight_eq_div_pow,
    Nat.shiftRight_eq_div_pow]
  have bound := v.isLt
  show 256 * (v.toNat / 256 % 256) + v.toNat / 1 % 256 = v.toNat
  omega

theorem signed16_be16s {b : List Byte} {off : Nat} {x : Int} (range : -32768 ≤ x ∧ x < 32768)
    (h : holds b off (be16s x)) : signed16 (at8 b off) (at8 b (off + 1)) = x := by
  rw [signed16, two_bytes_be h, BitVec.toInt_ofInt, Int.bmod_def]
  omega

theorem keepIn_of_mem {lo hi other x : Int} (low : lo ≤ x) (high : x ≤ hi) : keepIn lo hi other x = x :=
  if_pos ⟨low, high⟩

/-! ### Where the blocks stand -/

theorem entries_eq {n w : Nat} (t : Vector (BitVec w) n) : entries t = (List.finRange n).map fun k => t[k].toNat := by
  apply List.ext_getElem
  · simp [entries_length]
  · intro k h h'
    simp [entries_getElem]

theorem window_bytes_length (w : Window) : w.bytes.length = 4 := by
  cases w with
  | input first count order => cases order <;> rfl
  | silence | pattern => rfl

theorem windows_bytes_length (ws : List Window) : (ws.flatMap Window.bytes).length = 4 * ws.length := by
  induction ws with
  | nil => rfl
  | cons w ws ih =>
    rw [List.flatMap_cons, List.length_append, ih, window_bytes_length, List.length_cons]
    omega

theorem holds_self (b : List Byte) : holds b 0 b := List.prefix_rfl

/-- The settings stand in the bytes `b` at the offsets of R162. -/
structure Laid (x : Settings) (b : List Byte) : Prop where
  head : holds b 0 [x.rate.byte, byte x.supervisor]
  sources : holds b 2 (byte x.sources.length :: padTo 4 (x.sources.map ClockSource.byte))
  timers : holds b 7 (x.revertDelay :: be 2 x.holdoverLimit.toNat)
  buses : ∀ g : Group, holds b (10 + 2 * g.val) [byte x.spacing[g], byte x.delay[g]]
  settle : holds b 22 [x.padSettle, x.phantomSettle]
  padValue : holds b 24 (be16s x.padValue)
  clips : ∀ i : Input,
    holds b (26 + 7 * i.val) (x.clips[i].mode.byte :: be 3 x.clips[i].threshold ++ be 3 x.clips[i].rearm)
  glt : ∀ r : Fin 48, holds b (362 + 3 * r.val) (be 3 x.glt[r].toNat)
  plt : ∀ k : Fin 64, holds b (506 + 2 * k.val) (be 2 x.plt[k].toNat)
  windows : ∀ f : Feed,
    holds b (634 + 33 * f.val) (byte x.windows[f].length :: padTo 32 (x.windows[f].flatMap Window.bytes))
  glide : ∀ f : Feed, holds b (766 + f.val) [byte (x.glide[f] : Fin 16).val]
  taps : ∀ (f : Feed) (i : Input),
    holds b (770 + 4 * (48 * f.val + i.val))
      (bit x.taps[f][i].track :: be16s x.taps[f][i].offset ++ [bit x.taps[f][i].mute])
  desired : ∀ i : Input, holds b (1538 + 3 * i.val) x.desired[i].bytes
  owners : ∀ i : Input, holds b (1682 + i.val) [ownerByte x.owners[i]]

theorem sources_length {x : Settings} (few : x.sources.length ≤ 4) :
    (byte x.sources.length :: padTo 4 (x.sources.map ClockSource.byte)).length = 5 := by
  rw [List.length_cons, padTo_length (by simpa using few)]

theorem windows_length {x : Settings} (short : ∀ f : Feed, x.windows[f].length ≤ 8) (f : Feed) :
    (byte x.windows[f].length :: padTo 32 (x.windows[f].flatMap Window.bytes)).length = 33 := by
  have fits := short f
  rw [List.length_cons, padTo_length (by rw [windows_bytes_length]; omega)]

section
variable {x : Settings} (few : x.sources.length ≤ 4) (short : ∀ f : Feed, x.windows[f].length ≤ 8)
include few short

/-- The section bytes lay out the settings (R162). -/
theorem laid_of_holds {b : List Byte} (h : holds b 0 x.sections) : Laid x b := by
  have tap (f : Feed) (i : Input) :
      (bit x.taps[f][i].track :: be16s x.taps[f][i].offset ++ [bit x.taps[f][i].mute]).length = 4 := rfl
  have row (f : Feed) : (inputs.flatMap fun i =>
      bit x.taps[f][i].track :: be16s x.taps[f][i].offset ++ [bit x.taps[f][i].mute]).length = 192 :=
    flatMap_length (tap f)
  simp only [Settings.sections, List.append_assoc, entries_eq, List.flatMap_map] at h
  obtain ⟨head, h⟩ := holds_append (k := 2) rfl h
  obtain ⟨sources, h⟩ := holds_append (k := 5) (sources_length few) h
  obtain ⟨timers, h⟩ := holds_append (k := 3) rfl h
  obtain ⟨buses, h⟩ := holds_append (k := 12) (flatMap_length (m := 2) fun _ => rfl) h
  obtain ⟨settle, h⟩ := holds_append (k := 2) rfl h
  obtain ⟨padValue, h⟩ := holds_append (k := 2) rfl h
  obtain ⟨clips, h⟩ := holds_append (k := 336) (flatMap_length (m := 7) fun _ => rfl) h
  obtain ⟨glt, h⟩ := holds_append (k := 144) (flatMap_length (m := 3) fun _ => rfl) h
  obtain ⟨plt, h⟩ := holds_append (k := 128) (flatMap_length (m := 2) fun _ => rfl) h
  obtain ⟨windows, h⟩ := holds_append (k := 132) (flatMap_length (windows_length short)) h
  obtain ⟨glide, h⟩ := holds_append (k := 4) (by simp) h
  obtain ⟨taps, h⟩ := holds_append (k := 768) (flatMap_length row) h
  obtain ⟨desired, owners⟩ := holds_append (k := 144) (flatMap_length (m := 3) fun _ => rfl) h
  exact
    { head, sources, timers, settle, padValue
      buses := holds_flatMap (m := 2) (fun _ => rfl) buses
      clips := holds_flatMap (m := 7) (fun _ => rfl) clips
      glt := holds_flatMap (m := 3) (fun _ => rfl) glt
      plt := holds_flatMap (m := 2) (fun _ => rfl) plt
      windows := holds_flatMap (windows_length short) windows
      glide := holds_map glide
      taps := fun f i => by
        have here := holds_flatMap (tap f) (holds_flatMap row taps f) i
        rwa [Nat.add_assoc, show 192 * f.val + 4 * i.val = 4 * (48 * f.val + i.val) by omega] at here
      desired := holds_flatMap (m := 3) (fun _ => rfl) desired
      owners := holds_map owners }

theorem sections_length : x.sections.length = 1730 := by
  have row (f : Feed) : (inputs.flatMap fun i =>
      bit x.taps[f][i].track :: be16s x.taps[f][i].offset ++ [bit x.taps[f][i].mute]).length = 192 :=
    flatMap_length (m := 4) fun _ => rfl
  have buses : ((List.finRange 6).flatMap fun g => [byte x.spacing[g], byte x.delay[g]]).length = 12 :=
    flatMap_length (m := 2) fun _ => rfl
  have clips : (inputs.flatMap fun i =>
      x.clips[i].mode.byte :: be 3 x.clips[i].threshold ++ be 3 x.clips[i].rearm).length = 336 :=
    flatMap_length (m := 7) fun _ => rfl
  have desired : (inputs.flatMap fun i => x.desired[i].bytes).length = 144 := flatMap_length (m := 3) fun _ => rfl
  have law {n w : Nat} (k : Nat) (t : Vector (BitVec w) n) : ((entries t).flatMap (be k)).length = k * n := by
    rw [entries_eq, List.flatMap_map]
    exact flatMap_length fun _ => be_length k _
  have owners : (inputs.map fun i => ownerByte x.owners[i]).length = 48 := by
    rw [List.length_map]
    exact List.length_finRange
  have timers : (x.revertDelay :: be 2 x.holdoverLimit.toNat).length = 3 := rfl
  simp only [Settings.sections, List.length_append, sources_length few, timers, buses, clips, law, desired, owners,
    flatMap_length (windows_length short), flatMap_length row, List.length_map, List.length_finRange]
  rfl

end

end Sys2Proof.Machine
end

section
/-! PROOFS. The stored image (R162, R163, R166): settings in range read back as they were saved. -/

namespace Sys2Proof.Machine

theorem settings_ext {x y : Settings} (rate : x.rate = y.rate) (supervisor : x.supervisor = y.supervisor)
    (sources : x.sources = y.sources) (revertDelay : x.revertDelay = y.revertDelay)
    (holdoverLimit : x.holdoverLimit = y.holdoverLimit) (spacing : ∀ g : Group, x.spacing[g] = y.spacing[g])
    (delay : ∀ g : Group, x.delay[g] = y.delay[g]) (padSettle : x.padSettle = y.padSettle)
    (phantomSettle : x.phantomSettle = y.phantomSettle) (padValue : x.padValue = y.padValue)
    (clips : ∀ i : Input, x.clips[i] = y.clips[i]) (glt : x.glt = y.glt) (plt : x.plt = y.plt)
    (windows : ∀ f : Feed, x.windows[f] = y.windows[f]) (glide : ∀ f : Feed, x.glide[f] = y.glide[f])
    (taps : ∀ (f : Feed) (i : Input), x.taps[f][i] = y.taps[f][i]) (desired : ∀ i : Input, x.desired[i] = y.desired[i])
    (owners : ∀ i : Input, x.owners[i] = y.owners[i]) : x = y := by
  have spacing := entries_ext spacing
  have delay := entries_ext delay
  have clips := entries_ext clips
  have windows := entries_ext windows
  have glide := entries_ext glide
  have taps := entries_ext fun f => entries_ext (taps f)
  have desired := entries_ext desired
  have owners := entries_ext owners
  cases x
  cases y
  simp_all only

/-! ### Window lists -/

/-- The bytes of a window in range are taken as that window (R23, R24). -/
theorem window_bytes_taken {w : Window} (sound : w.sound) (rest : List Byte) :
    ∃ e, windowFields (w.bytes ++ rest) = e :: windowFields rest ∧ takenWindow e = some w := by
  cases w with
  | silence count =>
    obtain ⟨least, most⟩ := sound
    refine ⟨_, rfl, ?_⟩
    rw [toNat_byte (by omega), takenWindow_eq, if_neg (by simp; omega), if_neg (by decide), if_neg (by omega)]
    rfl
  | pattern count =>
    obtain ⟨least, most⟩ := sound
    refine ⟨_, rfl, ?_⟩
    rw [toNat_byte (by omega), takenWindow_eq, if_neg (by simp; omega), if_neg (by decide), if_neg (by omega)]
    rfl
  | input first count order =>
    obtain ⟨least, most, even⟩ := sound
    cases order with
    | straight =>
      refine ⟨_, rfl, ?_⟩
      rw [toNat_byte (by omega), toNat_byte (by omega), takenWindow_eq, if_neg (by simp; omega), if_pos (by decide),
        if_neg (by simp; omega), if_pos (by decide), show min count (48 - first) = count by omega]
    | interleaved =>
      have halves := even rfl
      refine ⟨_, rfl, ?_⟩
      rw [toNat_byte (by omega), toNat_byte (by omega), takenWindow_eq, if_neg (by simp; omega), if_pos (by decide),
        if_neg (by simp; omega), if_neg (by decide), if_neg (by omega), if_pos most]

theorem windows_bytes_taken {ws : List Window} (sound : ∀ w ∈ ws, w.sound) :
    (windowFields (ws.flatMap Window.bytes)).map takenWindow = ws.map some := by
  induction ws with
  | nil => rfl
  | cons w ws ih =>
    obtain ⟨e, fields, taken⟩ := window_bytes_taken (sound w List.mem_cons_self) (ws.flatMap Window.bytes)
    rw [List.flatMap_cons, fields, List.map_cons, taken, ih fun v hv => sound v (List.mem_cons_of_mem _ hv),
      List.map_cons]

theorem sectionWindows_of_holds {b : List Byte} {f : Feed} {ws : List Window} (short : ws.length ≤ 8)
    (sound : ∀ w ∈ ws, w.sound)
    (h : holds b (634 + 33 * f.val) (byte ws.length :: padTo 32 (ws.flatMap Window.bytes))) :
    sectionWindows b f = ws := by
  obtain ⟨count, list⟩ := holds_cons h
  obtain ⟨bytes, -⟩ := holds_append (windows_bytes_length ws) list
  have number : (at8 b (634 + 33 * f.val)).toNat = ws.length := by rw [count, toNat_byte (by omega)]
  have taken := windows_bytes_taken sound
  have none_refused : ¬ (8 < ws.length ∨
      ∃ e ∈ windowFields (ws.flatMap Window.bytes), takenWindow e = none) := by
    rintro (many | ⟨e, he, refused⟩)
    · omega
    · have mem := List.mem_map_of_mem (f := takenWindow) he
      rw [taken, refused] at mem
      simp at mem
  rw [sectionWindows_eq]
  rw [number, holds_take (windows_bytes_length ws) bytes, if_neg none_refused,
    show takenWindow = id ∘ takenWindow from rfl, ← List.filterMap_map, taken, List.filterMap_map]
  exact List.filterMap_some

/-! ### Clock sources and laws -/

theorem sectionSources_of_holds {b : List Byte} {sources : List ClockSource} (fits : listFits sources)
    (h : holds b 2 (byte sources.length :: padTo 4 (sources.map ClockSource.byte))) :
    sectionSources b = sources := by
  obtain ⟨nonempty, few, nodup⟩ := fits
  obtain ⟨count, list⟩ := holds_cons h
  obtain ⟨codes, -⟩ := holds_append (List.length_map _) list
  have number : (at8 b 2).toNat = sources.length := by rw [count, toNat_byte (by omega)]
  have back : (sources.map ClockSource.byte).map codedSource = sources := by
    rw [List.map_map]
    exact (List.map_congr_left fun x _ => (codedSource_byte x).1).trans (List.map_id _)
  have named : ¬ (sources.map ClockSource.byte = [] ∨
      (∃ c ∈ sources.map ClockSource.byte, 5 < c.toNat) ∨ ¬ (sources.map ClockSource.byte).Nodup) := by
    rintro (empty | ⟨c, hc, large⟩ | repeated)
    · rw [List.map_eq_nil_iff.1 empty] at nonempty
      cases nonempty
    · obtain ⟨x, -, rfl⟩ := List.mem_map.1 hc
      have small := (codedSource_byte x).2
      omega
    · exact repeated (List.Nodup.of_map codedSource (by rw [back]; exact nodup))
  unfold sectionSources
  dsimp only
  rw [number, holds_take (List.length_map _) codes, if_neg (by omega), sourcesOf_codes, if_neg named, back]
  rfl

theorem ofNat_holds {b : List Byte} {off k w : Nat} {v : BitVec w} (width : 2 ^ w = 256 ^ k)
    (h : holds b off (be k v.toNat)) : BitVec.ofNat w (atBe b off k) = v := by
  have bound := v.isLt
  rw [holds_be h, ← width, Nat.mod_eq_of_lt bound, BitVec.ofNat_toNat, BitVec.setWidth_eq]

theorem sectionGlt_of_holds {b : List Byte} {t : Vector Mantissa 48} (sound : lawSound t)
    (h : ∀ r : Fin 48, holds b (362 + 3 * r.val) (be 3 t[r].toNat)) : sectionGlt b = t := by
  have table : (tab fun r : Fin 48 => BitVec.ofNat 24 (atBe b (362 + 3 * r.val) 3)) = t :=
    (congrArg tab (funext fun r => ofNat_holds (by decide) (h r))).trans (tab_of_entries t)
  unfold sectionGlt
  rw [table]
  exact if_pos ((gltFault_none t).2 sound)

theorem sectionPlt_of_holds {b : List Byte} {t : Vector LawEntry 64} (sound : plawSound t)
    (h : ∀ k : Fin 64, holds b (506 + 2 * k.val) (be 2 t[k].toNat)) : sectionPlt b = t := by
  have table : (tab fun k : Fin 64 => BitVec.ofNat 16 (atBe b (506 + 2 * k.val) 2)) = t :=
    (congrArg tab (funext fun k => ofNat_holds (by decide) (h k))).trans (tab_of_entries t)
  unfold sectionPlt
  rw [table]
  exact if_pos ((pltFault_none t).2 sound)

/-! ### Records of an input -/

theorem sectionClip_of_holds {b : List Byte} {i : Input} {c : ClipSetting}
    (sound : 1 ≤ c.threshold ∧ c.threshold ≤ 8388607 ∧ c.rearm ≤ c.threshold)
    (h : holds b (26 + 7 * i.val) (c.mode.byte :: be 3 c.threshold ++ be 3 c.rearm)) : sectionClip b i = c := by
  obtain ⟨least, most, rearm⟩ := sound
  obtain ⟨mode, values⟩ := holds_cons h
  obtain ⟨high, low⟩ := holds_append (be_length 3 _) values
  have at_threshold : atBe b (26 + 7 * i.val + 1) 3 = c.threshold := (holds_be high).trans (by omega)
  have at_rearm : atBe b (26 + 7 * i.val + 4) 3 = c.rearm := (holds_be low).trans (by omega)
  unfold sectionClip
  dsimp only
  rw [mode, clipMode_byte, at_threshold, at_rearm, if_neg (by omega), min_eq_left rearm]
  rfl

theorem sectionTap_of_holds {b : List Byte} {f : Feed} {i : Input} {t : TapSetting} (sound : inTrim t.offset)
    (h : holds b (770 + 4 * (48 * f.val + i.val)) (bit t.track :: be16s t.offset ++ [bit t.mute])) :
    sectionTap b f i = t := by
  obtain ⟨track, values⟩ := holds_cons h
  obtain ⟨offset, last⟩ := holds_append (k := 2) rfl values
  obtain ⟨mute, -⟩ := holds_cons last
  obtain ⟨low, high⟩ := sound
  have value := signed16_be16s (by omega) offset
  unfold sectionTap
  dsimp only
  rw [track, value, clampTrim_of_inTrim _ ⟨low, high⟩, mute, decide_bit, decide_bit]

theorem sectionDesired_of_holds {b : List Byte} {i : Input} {v : HeadAmp}
    (h : holds b (1538 + 3 * i.val) v.bytes) : sectionDesired b i = v := by
  obtain ⟨code, rest⟩ := holds_cons h
  obtain ⟨pad, rest⟩ := holds_cons rest
  obtain ⟨phantom, -⟩ := holds_cons rest
  unfold sectionDesired
  dsimp only
  rw [code, pad, phantom, codeOf_byte, decide_bit, decide_bit]

/-! ### The settings -/

/-- Settings in range read back from where they stand (R162, R166). -/
theorem ofSections_of_laid {x : Settings} {b : List Byte} (sound : x.sound) (laid : Laid x b) :
    Settings.ofSections b = x := by
  obtain ⟨nonempty, few, nodup, buses, padLow, padHigh, clips, glt, plt, windows, taps⟩ := sound
  obtain ⟨rate, supervisor⟩ := holds_cons laid.head
  obtain ⟨supervisor, -⟩ := holds_cons supervisor
  obtain ⟨revert, holdover⟩ := holds_cons laid.timers
  obtain ⟨pad, phantom⟩ := holds_cons laid.settle
  obtain ⟨phantom, -⟩ := holds_cons phantom
  have bus (g : Group) : at8 b (10 + 2 * g.val) = byte x.spacing[g] ∧ at8 b (11 + 2 * g.val) = byte x.delay[g] := by
    obtain ⟨spacing, rest⟩ := holds_cons (laid.buses g)
    obtain ⟨delay, -⟩ := holds_cons rest
    rw [Nat.add_right_comm] at delay
    exact ⟨spacing, delay⟩
  apply settings_ext
  case rate =>
    show (if at8 b 0 = 1 then _ else _) = _
    rw [rate]
    cases x.rate <;> rfl
  case supervisor =>
    show (ownerOf (at8 b 1)).getD 0 = _
    rw [supervisor, ownerOf_byte]
    rfl
  case sources => exact sectionSources_of_holds ⟨nonempty, few, nodup⟩ laid.sources
  case revertDelay => exact revert
  case holdoverLimit => exact two_bytes_be holdover
  case spacing =>
    intro g
    obtain ⟨least, most, -⟩ := buses g
    simp only [Settings.ofSections, Fin.getElem_fin, tab_entry]
    rw [(bus g).1, toNat_byte (by omega), keepIn_of_mem (by omega) (by omega)]
    rfl
  case delay =>
    intro g
    obtain ⟨-, -, most⟩ := buses g
    simp only [Settings.ofSections, Fin.getElem_fin, tab_entry]
    rw [(bus g).2, toNat_byte (by omega), keepIn_of_mem (by omega) (by omega)]
    rfl
  case padSettle => exact pad
  case phantomSettle => exact phantom
  case padValue =>
    show keepIn _ _ _ (signed16 (at8 b 24) (at8 b 25)) = _
    rw [signed16_be16s (by omega) laid.padValue, keepIn_of_mem padLow padHigh]
  case clips =>
    intro i
    simp only [Settings.ofSections, Fin.getElem_fin, tab_entry]
    exact sectionClip_of_holds (clips i) (laid.clips i)
  case glt => exact sectionGlt_of_holds glt laid.glt
  case plt => exact sectionPlt_of_holds plt laid.plt
  case windows =>
    intro f
    obtain ⟨short, fit⟩ := windows f
    simp only [Settings.ofSections, Fin.getElem_fin, tab_entry]
    exact sectionWindows_of_holds short fit (laid.windows f)
  case glide =>
    intro f
    simp only [Settings.ofSections, Fin.getElem_fin, tab_entry]
    rw [(holds_cons (laid.glide f)).1, glideOf_byte]
    rfl
  case taps =>
    intro f i
    simp only [Settings.ofSections, Fin.getElem_fin, tab_entry]
    exact sectionTap_of_holds (taps f i) (laid.taps f i)
  case desired =>
    intro i
    simp only [Settings.ofSections, Fin.getElem_fin, tab_entry]
    exact sectionDesired_of_holds (laid.desired i)
  case owners =>
    intro i
    simp only [Settings.ofSections, Fin.getElem_fin, tab_entry]
    rw [(holds_cons (laid.owners i)).1, ownerOf_ownerByte]
    rfl

/-- An image that a save completes is judged valid (R163). -/
theorem judgeBytes_imageOf {sections : List Byte} (full : sections.length = 1730) :
    judgeBytes (imageOf sections) = .valid sections := by
  have body : (imageOf sections).drop 9 = sections := rfl
  have whole : sections.take 1730 = sections := List.take_of_length_le (by omega)
  unfold judgeBytes
  dsimp only
  rw [body, whole]
  exact if_pos ⟨rfl, full, rfl⟩

/-- Settles O27: the corrections field by field, and the layout of a save, from which each field reads back. -/
theorem storedImageGivesBackSettings : Obligations.StoredImageGivesBackSettings := by
  unfold Obligations.StoredImageGivesBackSettings
  refine ⟨ofSections_sound, fun x sound => ?_, fun b full => ⟨rfl, ?_⟩, ?_⟩
  · obtain ⟨-, few, -, -, -, -, -, -, -, windows, -⟩ := id sound
    have length := sections_length few fun f => (windows f).1
    exact ⟨length, judgeBytes_imageOf length,
      ofSections_of_laid sound (laid_of_holds few (fun f => (windows f).1) (holds_self _))⟩
  · intro x n8 n16 n24 s16 codes glt plt
    refine ⟨?rate, ?supervisor, sectionSources_eq full, rfl, toNat_two_bytes _ _, fun g => ⟨?spacing, ?delay⟩, rfl, rfl,
      ?padValue, fun i => ?clips, (sectionGlt_eq full).1, (sectionGlt_eq full).2, (sectionPlt_eq full).1, ?plt,
      fun f => ?windows, fun f => ?glide, fun f i => ?taps, fun i => ⟨?code, ?pad, ?phantom⟩, fun i => ?owners⟩
    case rate => exact if_congr (eq_one_iff _) rfl rfl
    case supervisor => exact supervisor_eq _
    case spacing => exact (tab_at _ g).trans (keepIn_nat 1 16 4 _)
    case delay =>
      refine (tab_at _ g).trans ((keepIn_nat 0 63 12 _).trans ?_)
      simp only [Nat.zero_le, true_and]
      rfl
    case padValue =>
      show keepIn (-255) 0 (-160) (signed16 _ _) = _
      rw [signed16_eq]
      rfl
    case clips => exact (tab_at _ i).trans (sectionClip_eq full i)
    case plt =>
      intro fails k
      rw [show x.plt = builtinPlt from (sectionPlt_eq full).2 fails]
      exact builtinPlt_entry k
    case windows =>
      refine (tab_at _ f).trans ((sectionWindows_fields full f).trans ?_)
      simp only [fieldsAt, takenWindow_eq]
      rfl
    case glide =>
      rw [show x.glide[f] = glideOf (at8 b (766 + f.val)) from tab_at _ f]
      exact glideOf_val _
    case taps =>
      refine (congrArg (·[i]) (tab_at _ f)).trans ((tab_at _ i).trans ?_)
      exact sectionTap_eq b f i
    case code =>
      rw [show x.desired[i] = sectionDesired b i from tab_at _ i]
      exact codeOf_val _
    case pad =>
      rw [show x.desired[i] = sectionDesired b i from tab_at _ i, show 1539 + 3 * i.val = 1538 + 3 * i.val + 1 by omega]
      exact decide_eq_decide.2 (eq_one_iff _)
    case phantom =>
      rw [show x.desired[i] = sectionDesired b i from tab_at _ i, show 1540 + 3 * i.val = 1538 + 3 * i.val + 2 by omega]
      exact decide_eq_decide.2 (eq_one_iff _)
    case owners => exact (tab_at _ i).trans (ownerOf_eq _)
  · rfl

end Sys2Proof.Machine
end

section
/-! PROOFS. A request command granted on arrival, in terms of what its kind's own rule does (R145, R146). -/

namespace Sys2Proof.Machine

/-- The kind byte that names a kind is the kind's own. -/
theorem code_of_ofByte {b : Byte} {k : ReqKind} (h : ReqKind.ofByte b = some k) : b = k.code := by
  unfold ReqKind.ofByte at h
  split at h <;> cases h <;> exact BitVec.eq_of_toNat_eq (by assumption)

/-- A request command that is granted on arrival. -/
theorem exec_served {s : State} {c : Instr} {f : Feed} {tag kind : Byte} {ps : List Byte}
    (request : c.request = some (f, tag, kind, ps)) (serves : s.serves f) :
    let r := execute f { tag := tag, kind := kind, params := ps } (reach f s)
    exec c s = .next (answered f tag kind r.2 r.1) := by
  intro r
  rw [exec_request request, submit_executes _ _ _ serves]

/-- A granted request command of a known kind is answered with what its execution gives. -/
theorem exec_answers {s v : State} {c : Instr} {f : Feed} {tag : Byte} {k : ReqKind} {ps bytes : List Byte}
    (request : c.request = some (f, tag, k.code, ps)) (serves : s.serves f)
    (executes : executeKind f ps k (reach f s) = (v, bytes)) :
    exec c s = .next (answered f tag k.code bytes v) := by
  rw [exec_served request serves, execute_known, executes]

theorem loading_of_ready {s : State} (ready : s.sil.load = .ready) : s.loading = false := by
  simp [State.loading, ready]

/-- A request without a channel set that every feed may send, while the part is READY (R146). -/
theorem runRequest_ready {α : Type} {k : ReqKind} {parsed : Option α} {p : α} {f : Feed} {body : α → State → Reply}
    {s : State} (ready : s.sil.load = .ready) (free : privileged k = false) (parses : parsed = some p) :
    runRequest k parsed noSet f body s = body p s := by
  rw [parses]
  exact runRequest_passes _ _ _ _ _ _ (.inl (loading_of_ready ready)) (fun h => absurd (free.symm.trans h) (by decide))
    fun h => absurd h Bool.false_ne_true

end Sys2Proof.Machine
end

section
/-! PROOFS. What an executed request can reach (R29, R54, R95, R97, R105): its own feed's taps, settings and scenes, and
the channels its feed owns. -/

namespace Sys2Proof.Machine

/-- The kind bytes of the requests that change owners: OWN_CLAIM, OWN_RELEASE, OWN_ASSIGN (R97, R101, R102). -/
def movesOwners (kind : Byte) : Bool := decide (kind = 0x24 ∨ kind = 0x25 ∨ kind = 0x26)

/-- What a request of feed `f` with kind byte `kind` leaves alone between two states. No request changes owners and
desired values both, so that the desired values of channels of other owners stay along any chain of such changes. -/
structure State.keepsTo (f : Feed) (kind : Byte) (s t : State) : Prop where
  taps : kind ≠ 0x1B → ∀ (g : Feed) (i : Input), g ≠ f → t.tap g i = s.tap g i := by intros; rfl
  glide : ∀ g : Feed, g ≠ f → t.tgu.glide[g] = s.tgu.glide[g] := by intros; rfl
  maps : ∀ g : Feed, g ≠ f → t.smu.maps[g] = s.smu.maps[g] := by intros; rfl
  openScene : kind ≠ 0x02 → ∀ g : Feed, g ≠ f → t.openScene g = s.openScene g := by intros; rfl
  subscription : kind ≠ 0x02 → ∀ g : Feed, g ≠ f → t.lmu.subscriptions[g] = s.lmu.subscriptions[g] := by intros; rfl
  scheduled : kind ≠ 0x02 → ∀ x ∈ s.scu.scheduled, x.feed ≠ f → x ∈ t.scu.scheduled := by intros; assumption
  live : ∀ i, (t.channel i).live = (s.channel i).live := by intros; rfl
  inFlight : ∀ i, (t.channel i).inFlight = (s.channel i).inFlight := by intros; rfl
  online : ∀ g, t.online g = s.online g := by intros; rfl
  owner : movesOwners kind = false → ∀ i, (t.channel i).owner = (s.channel i).owner := by intros; rfl
  owned : kind ≠ 0x26 → ∀ (i : Input) (g : Feed), (s.channel i).owner = some g → g ≠ f → s.online g = true →
    (t.channel i).owner = some g := by intros; assumption
  desired : ∀ i, movesOwners kind = true ∨ (s.channel i).owner ≠ some f →
    (t.channel i).desired = (s.channel i).desired := by intros; rfl

section
variable {f : Feed} {kind : Byte} {s t u : State}

theorem keepsTo_refl (f : Feed) (kind : Byte) (s : State) : s.keepsTo f kind s := {}

theorem keepsTo_trans (a : s.keepsTo f kind t) (b : t.keepsTo f kind u) : s.keepsTo f kind u where
  taps h g i o := (b.taps h g i o).trans (a.taps h g i o)
  glide g o := (b.glide g o).trans (a.glide g o)
  maps g o := (b.maps g o).trans (a.maps g o)
  openScene h g o := (b.openScene h g o).trans (a.openScene h g o)
  subscription h g o := (b.subscription h g o).trans (a.subscription h g o)
  scheduled h x m o := b.scheduled h x (a.scheduled h x m o) o
  live i := (b.live i).trans (a.live i)
  inFlight i := (b.inFlight i).trans (a.inFlight i)
  online g := (b.online g).trans (a.online g)
  owner h i := (b.owner h i).trans (a.owner h i)
  owned h i g e o on := b.owned h i g (a.owned h i g e o on) o ((a.online g).trans on)
  desired i h := by
    refine (b.desired i ?_).trans (a.desired i h)
    cases moves : movesOwners kind with
    | true => exact .inl rfl
    | false =>
      rcases h with h | h
      · exact absurd (moves.symm.trans h) Bool.false_ne_true
      · exact .inr (a.owner moves i ▸ h)

theorem foldl_keepsTo {α : Type} (step : State → α → State) (h : ∀ (s : State) (a : α), s.keepsTo f kind (step s a))
    (l : List α) (s : State) : s.keepsTo f kind (l.foldl step s) :=
  List.foldlRecOn l step (keepsTo_refl f kind s) fun t reached a _ => keepsTo_trans reached (h t a)

/-! ### The shared operations -/

theorem told_keepsTo (nts : Feed → List Notice) (s : State) : s.keepsTo f kind (told nts s) where
  online := told_online nts s

theorem notifyIf_keepsTo (b : Bool) (g : Feed) (nt : Notice) (s : State) : s.keepsTo f kind (notifyIf b g nt s) :=
  notifyIf_told b g nt s ▸ told_keepsTo _ s

theorem notifyWhere_keepsTo (p : Feed → Bool) (nt : Notice) (s : State) : s.keepsTo f kind (notifyWhere p nt s) :=
  notifyWhere_told p nt s ▸ told_keepsTo _ s

theorem clockEvent_keepsTo (g : Ftu → Ftu) (s : State) : s.keepsTo f kind (clockEvent g s) := by
  rw [clockEvent_told]
  exact keepsTo_trans (t := { s with ftu := g s.ftu }) {} (told_keepsTo _ _)

/-- A tap of a feed changes no tap of another feed. -/
theorem onTap_tap_other {g k : Feed} (ne : k ≠ g) (i j : Input) (h : Tap → Tap) (s : State) :
    ({ s with tgu := s.tgu.onTap g i h } : State).tap k j = s.tap k j := by
  have differ : ¬ g.val = k.val := fun e => ne (Fin.ext e.symm)
  simp [State.tap, Tgu.onTap, differ]

/-- A request changes a tap of its own feed, or it is PLAW_APPLY (R54). -/
theorem changeTap_keepsTo (g : Feed) (i : Input) (h : Tap → Tap) (s : State) (own : kind = 0x1B ∨ g = f) :
    s.keepsTo f kind (changeTap g i h s) := by
  rw [changeTap_told]
  refine keepsTo_trans { taps := fun other k j ne => ?_ } (told_keepsTo _ _)
  exact onTap_tap_other (own.resolve_left other ▸ ne) i j _ s

theorem changeTaps_keepsTo (g : Int → Tap → Tap) (is : List Input) (s : State) :
    s.keepsTo f kind (changeTaps f g is s) :=
  foldl_keepsTo _ (fun t i => changeTap_keepsTo f i _ t (.inr rfl)) is s

/-- A change of a channel that leaves its head-amp values and its owner alone. -/
theorem onChannel_keepsTo (i : Input) (g : Channel → Channel) (s : State) (live : ∀ c, (g c).live = c.live)
    (inFlight : ∀ c, (g c).inFlight = c.inFlight) (owner : ∀ c, (g c).owner = c.owner)
    (desired : ∀ c, (g c).desired = c.desired) : s.keepsTo f kind { s with hac := s.hac.onChannel i g } where
  live := upd_read _ i g Channel.live live
  inFlight := upd_read _ i g Channel.inFlight inFlight
  owner _ := upd_read _ i g Channel.owner owner
  owned _ j _ e _ _ := (upd_read _ i g Channel.owner owner j).trans e
  desired j _ := upd_read _ i g Channel.desired desired j

theorem rebase_keepsTo (i : Input) (d : Int) (s : State) (law : kind = 0x1B) : s.keepsTo f kind (rebase i d s) :=
  keepsTo_trans
    (keepsTo_trans
      (keepsTo_trans (changeTap_keepsTo 0 i _ s (.inl law)) (changeTap_keepsTo 1 i _ _ (.inl law)))
      (changeTap_keepsTo 2 i _ _ (.inl law)))
    (changeTap_keepsTo 3 i _ _ (.inl law))

theorem regain_keepsTo (i : Input) (s : State) (law : kind = 0x1B) : s.keepsTo f kind (regain i s) :=
  keepsTo_trans
    (onChannel_keepsTo i (fun c => { c with gain := s.hac.gainOf (s.channel i).live }) s (fun _ => rfl) (fun _ => rfl)
      (fun _ => rfl) fun _ => rfl)
    (rebase_keepsTo i _ _ law)

theorem applyPlaw_keepsTo (s : State) (law : kind = 0x1B) : s.keepsTo f kind (applyPlaw s) := by
  unfold applyPlaw
  refine keepsTo_trans ?_ (notifyWhere_keepsTo _ _ _)
  exact keepsTo_trans (t := { s with hac := { s.hac with plt := s.hac.staging, marks := noMarks } }) {}
    (foldl_keepsTo _ (fun t i => regain_keepsTo i t law) inputs _)

/-! ### Owners and desired values -/

/-- The channel record with another owner. -/
def Channel.withOwner (new : Option Feed) (c : Channel) : Channel := { c with owner := new }

theorem withOwner_read {β : Type} {new : Option Feed} {i : Input} {h : Hac} (p : Channel → β)
    (same : ∀ c, p (c.withOwner new) = p c) (j : Input) :
    p (h.onChannel i (Channel.withOwner new)).channels[j] = p h.channels[j] :=
  upd_read _ i _ p same j

/-- A new owner of a channel, which in `s` no other ONLINE feed owns (R97, R101), or by OWN_ASSIGN (R102). -/
theorem setOwner_keepsTo {new : Option Feed} {cause : OwnerCause} {i : Input} (moves : movesOwners kind = true)
    (free : kind ≠ 0x26 → ∀ g, (s.channel i).owner = some g → g ≠ f → s.online g = false) (h : s.keepsTo f kind t) :
    s.keepsTo f kind (setOwner new cause i t) := by
  unfold setOwner
  dsimp only
  split
  · exact h
  · refine keepsTo_trans (t := { t with hac := t.hac.onChannel i (Channel.withOwner new) }) ?_
      (notifyWhere_keepsTo _ _ _)
    exact
      { h with
        live := fun j => (withOwner_read Channel.live (fun _ => rfl) j).trans (h.live j)
        inFlight := fun j => (withOwner_read Channel.inFlight (fun _ => rfl) j).trans (h.inFlight j)
        owner := fun stays => absurd (moves.symm.trans stays) Bool.true_eq_false.mp
        owned := fun assign j g e ne on => by
          have other : j ≠ i := by
            rintro rfl
            exact absurd on (free assign g e ne ▸ Bool.false_ne_true)
          have differ : ¬ i.val = j.val := fun e => other (Fin.ext e.symm)
          show (t.hac.onChannel i (Channel.withOwner new)).channels[j].owner = some g
          simp only [Hac.onChannel, Fin.getElem_fin, upd_entry, if_neg differ]
          exact h.owned assign j g e ne on
        desired := fun j d => (withOwner_read Channel.desired (fun _ => rfl) j).trans (h.desired j d) }

theorem change_live (h : Hac) (i : Input) (v : HeadAmp) (j : Input) :
    (h.change i v).channels[j].live = h.channels[j].live := by
  unfold Hac.change
  apply upd_read (p := Channel.live)
  intro c
  rfl

theorem change_owner (h : Hac) (i : Input) (v : HeadAmp) (j : Input) :
    (h.change i v).channels[j].owner = h.channels[j].owner := by
  unfold Hac.change
  apply upd_read (p := Channel.owner)
  intro c
  rfl

theorem change_channel_other (h : Hac) (i : Input) (v : HeadAmp) (j : Input) (other : j ≠ i) :
    (h.change i v).channels[j] = h.channels[j] := by
  have differ : ¬ i.val = j.val := fun e => other (Fin.ext e.symm)
  simp only [Hac.change, Fin.getElem_fin, upd_entry, if_neg differ]

/-- A change of the desired values of a channel that feed `f` owns (R95). -/
theorem change_keepsTo (i : Input) (v : HeadAmp) (s : State) (own : (s.channel i).owner = some f)
    (stay : movesOwners kind = false) : s.keepsTo f kind { s with hac := s.hac.change i v } where
  live := change_live s.hac i v
  inFlight := change_inFlight s.hac i v
  owner _ := change_owner s.hac i v
  owned _ j _ e _ _ := (change_owner s.hac i v j).trans e
  desired j d := by
    have other : j ≠ i := by
      rintro rfl
      rcases d with d | d
      · exact absurd (stay.symm.trans d) Bool.false_ne_true
      · exact d own
    exact congrArg Channel.desired (change_channel_other s.hac i v j other)

/-- Changes of the desired values of channels that feed `f` owns. -/
theorem changes_keepsTo (v : Input → State → HeadAmp) (is : List Input) (s : State)
    (own : ∀ i ∈ is, (s.channel i).owner = some f) (stay : movesOwners kind = false) :
    s.keepsTo f kind (is.foldl (fun t i => { t with hac := t.hac.change i (v i t) }) s) :=
  List.foldlRecOn is _ (keepsTo_refl f kind s) fun t reached i listed =>
    keepsTo_trans reached (change_keepsTo i _ t ((reached.owner stay i).trans (own i listed)) stay)

/-! ### Scenes -/

theorem setOpenScene_keepsTo (x : Option (List SceneEntry)) (s : State) : s.keepsTo f kind (setOpenScene f x s) where
  openScene _ g ne := by
    have differ : ¬ f.val = g.val := fun e => ne (Fin.ext e.symm)
    simp [State.openScene, setOpenScene, differ]

/-- An applied entry of a scene: a head-amp entry applies to a channel that the feed owns alone (R117). -/
theorem act_keepsTo (e : SceneEntry) (s : State) (applies : e.applies f s = true) (stay : movesOwners kind = false) :
    s.keepsTo f kind (e.act f s) := by
  obtain ⟨i, value⟩ := e
  cases value with
  | headAmp code pad phantom => exact change_keepsTo i _ s (of_decide_eq_true applies) stay
  | trim offset => exact changeTap_keepsTo f i _ s (.inr rfl)
  | mute on => exact changeTap_keepsTo f i _ s (.inr rfl)

theorem runEntries_keepsTo (stay : movesOwners kind = false) (es : List SceneEntry) :
    ∀ (k : Nat) (s : State) (r : SceneResult), s.keepsTo f kind (runEntries f k es s r).1 := by
  induction es with
  | nil => exact fun _ s _ => keepsTo_refl f kind s
  | cons e es ih =>
    intro k s r
    unfold runEntries
    split
    · next applies => exact keepsTo_trans (act_keepsTo e s applies stay) (ih _ _ _)
    · exact ih _ _ _

theorem executeScene_keepsTo (stay : movesOwners kind = false) (es : List SceneEntry) (s : State) :
    s.keepsTo f kind (executeScene f es s).1 :=
  keepsTo_trans (setOpenScene_keepsTo none s) (runEntries_keepsTo stay es 0 _ _)

theorem scheduleScene_keepsTo (x : FrameNo) (es : List SceneEntry) (s : State) :
    s.keepsTo f kind (scheduleScene f x es s).1 :=
  { setOpenScene_keepsTo none s with scheduled := fun _ _ waits _ => mem_insertScene.2 (.inr waits) }

/-! ### Requests -/

theorem accept_keepsTo (r : Result) (fields : List Byte) (h : s.keepsTo f kind t) :
    s.keepsTo f kind (accept r fields t).1 := h

theorem runRequest_keepsTo {α : Type} (k : ReqKind) (parsed : Option α) (form : α → Bool) (body : α → State → Reply)
    (s : State) (h : ∀ p, s.keepsTo f kind (body p s).1) : s.keepsTo f kind (runRequest k parsed form f body s).1 := by
  unfold runRequest
  cases parsed with
  | none => exact keepsTo_refl f kind s
  | some p =>
    dsimp only
    repeat' split
    · exact keepsTo_refl f kind s
    · exact keepsTo_refl f kind s
    · exact keepsTo_refl f kind s
    · exact h p

theorem onInputs_keepsTo (set : ChannelSet) (check : State → Input → Option Result)
    (body : List Input → State → Reply) (s : State)
    (h : ∀ is, (∀ i ∈ is, check s i = none) → s.keepsTo f kind (body is s).1) :
    s.keepsTo f kind (onInputs f set check body s).1 := by
  unfold onInputs
  split
  · exact keepsTo_refl f kind s
  · next is resolved => exact h is (resolve_sound s f set (check s) is resolved).2

end

theorem mustHold_eq_none {p : Input → Bool} {code : Result} {i : Input} : mustHold p code i = none ↔ p i = true := by
  unfold mustHold
  split <;> simp_all

/-- The owner check lets through the channels that the feed owns (R75, R76, R101). -/
theorem ownerCheck_eq_none {f : Feed} {s : State} {i : Input} :
    ownerCheck f s i = none ↔ (s.channel i).owner = some f :=
  mustHold_eq_none.trans decide_eq_true_iff

/-- A channel that is not owned elsewhere has no other ONLINE owner (R97). -/
theorem offline_of_not_ownedElsewhere {f g : Feed} {s : State} {i : Input} (h : s.ownedElsewhere f i = false)
    (owner : (s.channel i).owner = some g) (ne : g ≠ f) : s.online g = false := by
  simpa [State.ownedElsewhere, owner, ne] using h

theorem reqOwnClaim_keepsTo (f : Feed) (ps : List Byte) (s : State) :
    s.keepsTo f (ReqKind.code .ownClaim) (reqOwnClaim f ps s).1 := by
  refine runRequest_keepsTo _ _ _ _ _ fun set => ?_
  dsimp only
  split
  · unfold refuseAt
    dsimp only
    split
    · refine foldl_keepsTo _ (fun t i => ?_) _ _
      unfold claimSeen
      split
      · exact notifyIf_keepsTo _ _ _ _
      · exact keepsTo_refl _ _ _
    · exact keepsTo_refl _ _ _
  · next is resolved =>
    refine List.foldlRecOn is _ (keepsTo_refl _ _ s) fun t reached i listed => ?_
    have free : s.ownedElsewhere f i = false := by
      simpa [mustHold_eq_none] using (resolve_sound s f set _ is resolved).2 i listed
    exact setOwner_keepsTo rfl (fun _ g e ne => offline_of_not_ownedElsewhere free e ne) reached

theorem restart_keepsTo (f : Feed) (s : State) : s.keepsTo f (ReqKind.code .devRestart) (restart s) where
  openScene h := absurd rfl h
  subscription h := absurd rfl h
  scheduled h := absurd rfl h

theorem reqScnCommit_keepsTo (f : Feed) (ps : List Byte) (s : State) :
    s.keepsTo f (ReqKind.code .scnCommit) (reqScnCommit f ps s).1 := by
  refine runRequest_keepsTo _ _ _ _ _ fun mode => ?_
  repeat' split
  · exact keepsTo_refl _ _ s
  · exact keepsTo_refl _ _ s
  · exact executeScene_keepsTo rfl _ s
  · exact executeScene_keepsTo rfl _ s
  · exact keepsTo_refl _ _ s
  · exact keepsTo_refl _ _ s
  · exact scheduleScene_keepsTo _ _ s

/-- A cancel takes scenes of its own feed off the list alone (R120). -/
theorem reqScnCancel_keepsTo (f : Feed) (ps : List Byte) (s : State) :
    s.keepsTo f (ReqKind.code .scnCancel) (reqScnCancel f ps s).1 := by
  refine runRequest_keepsTo _ _ _ _ _ fun mode => ?_
  repeat' split
  · exact keepsTo_refl _ _ s
  · exact setOpenScene_keepsTo none s
  · next id _ =>
    exact { scheduled := fun _ x waits other => List.mem_filter.2 ⟨waits, by simp [Scheduled.isOwn, other]⟩ }
  · exact keepsTo_refl _ _ s

theorem setSubscription_keepsTo (f : Feed) (kind : Byte) (x : Option Subscription) (s : State) :
    s.keepsTo f kind (setSubscription f x s) where
  subscription _ g ne := by
    have differ : ¬ f.val = g.val := fun e => ne (Fin.ext e.symm)
    simp [setSubscription, differ]

theorem acceptWindows_keepsTo (f : Feed) (kind : Byte) (ws : List Window) (s : State) :
    s.keepsTo f kind (acceptWindows f ws s) where
  maps g ne := by
    have differ : ¬ f.val = g.val := fun e => ne (Fin.ext e.symm)
    simp [acceptWindows, differ]

theorem setGlide_keepsTo (f : Feed) (kind : Byte) (x : Fin 16) (s : State) :
    s.keepsTo f kind { s with tgu := { s.tgu with glide := put s.tgu.glide f x } } where
  glide g ne := by
    have differ : ¬ f.val = g.val := fun e => ne (Fin.ext e.symm)
    simp [differ]

theorem lawPending_keepsTo (f : Feed) (kind : Byte) (s : State) :
    s.keepsTo f kind { s with tgu := { s.tgu with
      pending := some { table := s.tgu.staging, start := s.ftu.frame + 1 }, marks := noMarks } } := {}

theorem executeKind_keepsTo (f : Feed) (ps : List Byte) (k : ReqKind) (s : State) :
    s.keepsTo f k.code (executeKind f ps k s).1 := by
  cases k with
  | devStatus => exact runRequest_keepsTo _ _ _ _ _ fun _ => { online := (resync_alike f s).online }
  | devRestart =>
    refine runRequest_keepsTo _ _ _ _ _ fun _ => ?_
    split
    · exact keepsTo_refl _ _ s
    · exact restart_keepsTo f s
  | clockSet =>
    refine runRequest_keepsTo _ _ _ _ _ fun _ => ?_
    dsimp only
    split
    · exact keepsTo_refl _ _ s
    · exact accept_keepsTo _ _ (clockEvent_keepsTo _ s)
  | mapWindows =>
    refine runRequest_keepsTo _ _ _ _ _ fun _ => ?_
    split
    · exact keepsTo_refl _ _ s
    · exact acceptWindows_keepsTo f _ _ s
  | tapTrim | tapMode | tapAnchor | tapMute =>
    exact runRequest_keepsTo _ _ _ _ _ fun _ => onInputs_keepsTo _ _ _ _ fun is _ =>
      accept_keepsTo _ _ (changeTaps_keepsTo _ is s)
  | tapGet | haGet | clipGet | clipSet | clipAck =>
    exact runRequest_keepsTo _ _ _ _ _ fun _ => onInputs_keepsTo _ _ _ _ fun _ _ => {}
  | mapGet | scnList => exact runRequest_keepsTo _ _ _ _ _ fun _ => {}
  | storeSave | lawStage | plawStage | lawGet | supervisorSet =>
    refine runRequest_keepsTo _ _ _ _ _ fun _ => ?_
    repeat' split
    all_goals exact {}
  | feedGlide => exact runRequest_keepsTo _ _ _ _ _ fun _ => setGlide_keepsTo f _ _ s
  | lawApply =>
    refine runRequest_keepsTo _ _ _ _ _ fun _ => ?_
    repeat' split
    · exact keepsTo_refl _ _ s
    · exact keepsTo_refl _ _ s
    · exact accept_keepsTo _ _ (keepsTo_trans (lawPending_keepsTo f _ s) (notifyWhere_keepsTo _ _ _))
  | plawApply =>
    refine runRequest_keepsTo _ _ _ _ _ fun _ => ?_
    repeat' split
    · exact keepsTo_refl _ _ s
    · exact keepsTo_refl _ _ s
    · exact accept_keepsTo _ _ (applyPlaw_keepsTo s rfl)
  | haSet | haNudge =>
    exact runRequest_keepsTo _ _ _ _ _ fun _ => onInputs_keepsTo _ _ _ _ fun is passed =>
      accept_keepsTo _ _ (changes_keepsTo _ is s (fun i listed => ownerCheck_eq_none.1 (passed i listed)) rfl)
  | ownClaim => exact reqOwnClaim_keepsTo f ps s
  | ownRelease =>
    refine runRequest_keepsTo _ _ _ _ _ fun _ => onInputs_keepsTo _ _ _ _ fun is passed => ?_
    refine List.foldlRecOn is _ (keepsTo_refl _ _ s) fun t reached i listed => ?_
    have own := ownerCheck_eq_none.1 (passed i listed)
    exact setOwner_keepsTo rfl (fun _ g e ne => absurd (Option.some.inj (e.symm.trans own)) ne) reached
  | ownAssign =>
    refine runRequest_keepsTo _ _ _ _ _ fun _ => onInputs_keepsTo _ _ _ _ fun is _ => ?_
    exact List.foldlRecOn is _ (keepsTo_refl _ _ s) fun t reached i _ =>
      setOwner_keepsTo rfl (fun other => absurd rfl other) reached
  | scnOpen =>
    refine runRequest_keepsTo _ _ _ _ _ fun _ => ?_
    split
    · exact keepsTo_refl _ _ s
    · exact setOpenScene_keepsTo _ s
  | scnAdd =>
    refine runRequest_keepsTo _ _ _ _ _ fun _ => ?_
    split
    · exact keepsTo_refl _ _ s
    · refine onInputs_keepsTo _ _ _ _ fun is _ => ?_
      dsimp only
      split
      · exact keepsTo_refl _ _ s
      · exact setOpenScene_keepsTo _ s
  | scnCommit => exact reqScnCommit_keepsTo f ps s
  | scnCancel => exact reqScnCancel_keepsTo f ps s
  | mtrSubscribe =>
    refine runRequest_keepsTo _ _ _ _ _ fun p => ?_
    split
    · exact setSubscription_keepsTo f _ none s
    · exact onInputs_keepsTo _ _ _ _ fun is _ => setSubscription_keepsTo f _ _ s

theorem execute_keepsTo (f : Feed) (m : Message) (s : State) : s.keepsTo f m.kind (execute f m s).1 := by
  unfold execute
  split
  · exact keepsTo_refl _ _ s
  · next k known =>
    rw [code_of_ofByte known]
    exact executeKind_keepsTo f m.params k s

/-- Settles O50: what every kind of request keeps to, read off for the command. -/
theorem requestsKeepToTheirFeed : Obligations.RequestsKeepToTheirFeed := by
  intro s c f tag kind ps request serves u
  have kept := execute_keepsTo f { tag := tag, kind := kind, params := ps } u
  exact ⟨_, exec_served request serves, kept.taps, fun g ne => ⟨kept.glide g ne, kept.maps g ne⟩,
    fun other => ⟨fun g ne => ⟨kept.openScene other g ne, kept.subscription other g ne⟩, kept.scheduled other⟩,
    fun i ne => kept.desired i (.inr ne), fun i => ⟨kept.live i, kept.inFlight i⟩, kept.owned⟩

end Sys2Proof.Machine
end

section
/-! PROOFS. Window lists (R18 to R25): what a window expands to, and MAP_WINDOWS. -/

namespace Sys2Proof.Machine

/-! ### Expansion -/

theorem inputEntry_of_lt {n : Nat} (h : n < 48) : inputEntry n = .input ⟨n, h⟩ :=
  congrArg SlotEntry.input (Fin.ext (Nat.mod_eq_of_lt h))

/-- An input number below 48 stands for that input. -/
theorem inputEntry_names {o : Option SlotEntry} {n : Nat} (h : n < 48) (e : o = some (inputEntry n)) :
    ∃ i : Input, o = some (.input i) ∧ i.val = n :=
  ⟨⟨n, h⟩, by rw [e, inputEntry_of_lt h], rfl⟩

/-- A list that gives two entries for each item of another alternates between them. -/
theorem flatMap_pair_getElem? {α β : Type} (a b : α → β) (l : List α) (k : Nat) :
    (l.flatMap fun x => [a x, b x])[2 * k]? = l[k]?.map a ∧
      (l.flatMap fun x => [a x, b x])[2 * k + 1]? = l[k]?.map b := by
  induction l generalizing k with
  | nil => simp
  | cons x l ih =>
    cases k with
    | zero => exact ⟨rfl, rfl⟩
    | succ k => exact ih k

/-- Settles O38, by the order and shape of the window. -/
theorem interleavedWindowAlternates : Obligations.InterleavedWindowAlternates := by
  refine ⟨fun first h inside => ?_, fun first count inside => ⟨?_, fun j hj => ?_⟩, fun count w listed => ?_⟩
  · have half : 2 * h / 2 = h := Nat.mul_div_cancel_left h (by decide)
    have expands : Window.expand (.input first (2 * h) .interleaved) =
        (List.range h).flatMap fun j => [inputEntry (first + j), inputEntry (first + h + j)] := by
      rw [Window.expand, half]
    rw [expands]
    refine ⟨?_, fun j hj => ?_⟩
    · simp [Nat.mul_comm]
    · obtain ⟨even, odd⟩ := flatMap_pair_getElem? (fun j => inputEntry (first + j))
        (fun j => inputEntry (first + h + j)) (List.range h) j
      rw [List.getElem?_range hj] at even odd
      exact ⟨inputEntry_names (by omega) even, inputEntry_names (by omega) odd⟩
  · simp [Window.expand]
  · refine inputEntry_names (by omega) ?_
    rw [Window.expand, List.getElem?_map, List.getElem?_range hj]
    rfl
  · simp only [List.mem_cons, List.not_mem_nil, or_false] at listed
    rcases listed with rfl | rfl
    · exact ⟨List.length_replicate, fun e he => List.eq_of_mem_replicate he⟩
    · exact ⟨List.length_replicate, fun e he => List.eq_of_mem_replicate he⟩

/-! ### The checks of a list -/

/-- The check of one window's fields (R24). -/
def windowOutcome (e : Nat × Nat × Nat × Nat) : Option (Window × Bool) := checkWindow e.1 e.2.1 e.2.2.1 e.2.2.2

/-- A list without a refused window: the windows taken, and whether one of them was reduced (R24). -/
theorem checkWindows_ok (idx : Nat) (l : List (Nat × Nat × Nat × Nat)) (fine : ∀ e ∈ l, windowOutcome e ≠ none) :
    checkWindows idx l = .ok ((l.filterMap windowOutcome).map (·.1), (l.filterMap windowOutcome).any (·.2)) := by
  induction l generalizing idx with
  | nil => rfl
  | cons e l ih =>
    obtain ⟨w, first⟩ := Option.ne_none_iff_exists'.1 (fine e List.mem_cons_self)
    have rest := ih (idx + 1) fun e later => fine e (List.mem_cons_of_mem _ later)
    have head : checkWindow e.1 e.2.1 e.2.2.1 e.2.2.2 = some w := first
    rw [List.filterMap_cons_some first]
    simp only [checkWindows, head, rest, List.map_cons, List.any_cons]

/-- The first refused window of a list refuses it, by its index (R24). -/
theorem checkWindows_error (l : List (Nat × Nat × Nat × Nat)) (start k : Nat) (e : Nat × Nat × Nat × Nat)
    (place : l[k]? = some e) (refused : windowOutcome e = none)
    (earlier : ∀ j d, j < k → l[j]? = some d → windowOutcome d ≠ none) : checkWindows start l = .error (start + k) := by
  induction l generalizing start k with
  | nil => cases place
  | cons d l ih =>
    cases k with
    | zero =>
      cases place
      have head : checkWindow e.1 e.2.1 e.2.2.1 e.2.2.2 = none := refused
      simp only [checkWindows, head, Nat.add_zero]
    | succ k =>
      obtain ⟨w, first⟩ := Option.ne_none_iff_exists'.1 (earlier 0 d k.succ_pos rfl)
      have head : checkWindow d.1 d.2.1 d.2.2.1 d.2.2.2 = some w := first
      have rest := ih (start + 1) k place fun j x less found => earlier (j + 1) x (Nat.succ_lt_succ less) found
      simp only [checkWindows, head, rest, Except.error.injEq]
      omega

/-- A window is reduced when it is an INPUT window that goes beyond input 47 (R24). -/
theorem windowOutcome_eq (kind first count order : Nat) :
    windowOutcome (kind, first, count, order) =
      (takenWindow (kind, first, count, order)).map fun w => (w, decide (kind = 0 ∧ 48 < first + count)) := by
  unfold takenWindow windowOutcome checkWindow
  dsimp only
  by_cases input : kind = 0
  · subst input
    by_cases large : 48 < first + count
    · simp only [large, if_true]
      split_ifs <;> simp
    · simp only [large, if_false]
      split_ifs <;> simp
  · simp only [input, if_false]
    split_ifs <;> simp

/-! ### The parameters of MAP_WINDOWS -/

/-- The four bytes of a window as sent (R23). -/
def windowSent (w : Byte × Byte × Byte × Byte) : List Byte := [w.1, w.2.1, w.2.2.1, w.2.2.2]

/-- The four fields of a window as sent (R23). -/
def sentFields (w : Byte × Byte × Byte × Byte) : Nat × Nat × Nat × Nat :=
  (w.1.toNat, w.2.1.toNat, w.2.2.1.toNat, w.2.2.2.toNat)

theorem windowFields_sent (ws : List (Byte × Byte × Byte × Byte)) :
    windowFields (ws.flatMap windowSent) = ws.map sentFields := by
  induction ws with
  | nil => rfl
  | cons w ws ih => exact congrArg (sentFields w :: ·) ih

theorem parseWindows_sent (ws : List (Byte × Byte × Byte × Byte)) (few : ws.length ≤ 8) :
    parseWindows (BitVec.ofNat 8 ws.length :: ws.flatMap windowSent) = some (ws.map sentFields) := by
  have count : (BitVec.ofNat 8 ws.length).toNat = ws.length := toNat_byte (by omega)
  have length : (ws.flatMap windowSent).length = 4 * ws.length := by
    simp [List.length_flatMap, windowSent, Nat.mul_comm]
  rw [parseWindows, count, if_pos ⟨few, length⟩, windowFields_sent]

/-- The table of R24 for a window as sent. -/
theorem sentOutcome_eq (kind first count order : Byte) :
    windowOutcome (sentFields (kind, first, count, order)) =
      if 2 < kind.toNat ∨ count.toNat = 0 then none
      else if kind = 0 then
        if 1 < order.toNat ∨ 47 < first.toNat then none
        else if order = 0 then
          some (.input first.toNat (min count.toNat (48 - first.toNat)) .straight,
            decide (48 < first.toNat + count.toNat))
        else if count.toNat % 2 = 1 then none
        else if first.toNat + count.toNat ≤ 48 then some (.input first.toNat count.toNat .interleaved, false)
        else if 48 - first.toNat < 2 then none
        else some (.input first.toNat (48 - first.toNat - (48 - first.toNat) % 2) .interleaved, true)
      else if 64 < count.toNat then none
      else some (if kind = 1 then .silence count.toNat else .pattern count.toNat, false) := by
  have zero (b : Byte) : b = 0 ↔ b.toNat = 0 := BitVec.toNat_eq
  have one (b : Byte) : b = 1 ↔ b.toNat = 1 := BitVec.toNat_eq
  rw [sentFields, windowOutcome_eq, takenWindow_eq]
  simp only [zero, one]
  generalize kind.toNat = kind, first.toNat = first, count.toNat = count, order.toNat = order
  split
  · rfl
  · split
    · next input =>
      split
      · rfl
      · next inside =>
        have last : first = 47 ↔ 48 - first < 2 := by omega
        simp only [last, input, true_and]
        split
        · rfl
        · split
          · rfl
          · split
            · next fits => simp [fits]
            · next large =>
              split
              · rfl
              · simp; omega
    · next other =>
      split
      · rfl
      · simp [other]

/-! ### MAP_WINDOWS -/

theorem okOrClamped_byte (clamped : Bool) : (okOrClamped clamped).byte = if clamped = true then 1 else 0 := by
  cases clamped <;> rfl

/-- The slot count after the cut at the capacity (R22). -/
theorem ofWindows_length (rate : Rate) (ws : List Window) :
    (SlotMap.ofWindows rate ws).slots.length = min (capacity rate) (ws.flatMap Window.expand).length :=
  List.length_take

/-- An accepted list is pending from the next frame on (R25). -/
theorem acceptWindows_eq (f : Feed) (ws : List Window) (s : State) :
    acceptWindows f ws s =
      { s with smu := { maps := tab fun g =>
          if g = f then
            { s.smu.maps[f] with
              pending := some { map := SlotMap.ofWindows s.ftu.rate ws, start := s.ftu.frame + 1 } }
          else s.smu.maps[g] } } := by
  rw [acceptWindows, upd_eq_tab_of rfl]

section
variable {f : Feed} {ws : List (Byte × Byte × Byte × Byte)} {u : State}

/-- A list without a refused window is taken as far as it goes (R24, R25). -/
theorem mapWindows_taken (few : ws.length ≤ 8) (ready : u.sil.load = .ready) {taken : List (Window × Bool)}
    (collected : ws.filterMap (fun w => windowOutcome (sentFields w)) = taken)
    (fine : ∀ w ∈ ws, windowOutcome (sentFields w) ≠ none) :
    executeKind f (BitVec.ofNat 8 ws.length :: ws.flatMap windowSent) .mapWindows u =
      (acceptWindows f (taken.map (·.1)) u,
        [(okOrClamped (decide (capacity u.ftu.rate < ((taken.map (·.1)).flatMap Window.expand).length) ||
            taken.any (·.2))).byte,
          byte (min (capacity u.ftu.rate) ((taken.map (·.1)).flatMap Window.expand).length)]) := by
  have checked := checkWindows_ok 0 (ws.map sentFields) fun e listed => by
    obtain ⟨w, hw, rfl⟩ := List.mem_map.1 listed
    exact fine w hw
  rw [List.filterMap_map, show windowOutcome ∘ sentFields = fun w => windowOutcome (sentFields w) from rfl,
    collected] at checked
  show reqMapWindows f _ u = _
  rw [reqMapWindows, runRequest_ready ready rfl (parseWindows_sent ws few)]
  simp only [checked, accept, ofWindows_length]
  rw [Bool.or_comm]
  rfl

/-- The first refused window refuses the list with its index (R24). -/
theorem mapWindows_refused (few : ws.length ≤ 8) (ready : u.sil.load = .ready) {idx : Nat}
    {w : Byte × Byte × Byte × Byte} (place : ws[idx]? = some w) (refused : windowOutcome (sentFields w) = none)
    (earlier : ∀ j v, j < idx → ws[j]? = some v → windowOutcome (sentFields v) ≠ none) :
    executeKind f (BitVec.ofNat 8 ws.length :: ws.flatMap windowSent) .mapWindows u = (u, [7, byte idx]) := by
  have checked := checkWindows_error (ws.map sentFields) 0 idx (sentFields w) (by rw [List.getElem?_map, place]; rfl)
    refused fun j e less found => by
      rw [List.getElem?_map, Option.map_eq_some_iff] at found
      obtain ⟨v, hv, rfl⟩ := found
      exact earlier j v less hv
  show reqMapWindows f _ u = _
  rw [reqMapWindows, runRequest_ready ready rfl (parseWindows_sent ws few)]
  simp only [checked, Nat.zero_add]
  rfl

end

/-- Settles O37, by the outcome of each window as sent. -/
theorem mapWindowsPends : Obligations.MapWindowsPends := by
  intro s f tag ws few serves u ready outcome held slots room ps
  have outcomes : outcome = fun w => windowOutcome (sentFields w) :=
    funext fun (kind, first, count, order) => (sentOutcome_eq kind first count order).symm
  have space : room = capacity u.ftu.rate := by
    cases e : u.ftu.rate <;> simp only [room, e, capacity]
  refine ⟨fun fine => ?_, fun idx w place refused earlier => ?_⟩
  · rw [outcomes] at fine
    have executes := mapWindows_taken (f := f) few ready (congrArg (ws.filterMap ·) outcomes).symm fine
    rw [exec_answers (k := .mapWindows) rfl serves executes, acceptWindows_eq, okOrClamped_byte, space]
    simp only [Bool.or_eq_true, decide_eq_true_iff]
    rfl
  · rw [outcomes] at refused earlier
    exact exec_answers (k := .mapWindows) rfl serves (mapWindows_refused few ready place refused earlier)

end Sys2Proof.Machine
end

section
/-! PROOFS. Channel sets (R30 to R33): their encodings, the translation of a member, and the all-members check. -/

namespace Sys2Proof.Machine

/-! ### Encodings -/

theorem parseSet_reserved {head : Byte} (reserved : head &&& 0x7C ≠ 0) (rest : List Byte) :
    parseSet (head :: rest) = none :=
  if_pos reserved

section
variable {head : Byte} (plain : head &&& 0x7C = 0)
include plain

/-- SINGLE shape: one member. -/
theorem parseSet_single (shape : head &&& 3 = 0) (m : Byte) (after : List Byte) :
    parseSet (head :: m :: after) =
      some ({ inputForm := head.msb, single := true, members := [m.toNat] }, after) := by
  simp only [parseSet, plain, shape, ne_eq, not_true_eq_false, if_false]
  rfl

/-- RANGE shape: `count` members from the first one on. -/
theorem parseSet_range (shape : head &&& 3 = 1) (first count : Byte) (after : List Byte) :
    parseSet (head :: first :: count :: after) =
      if 1 ≤ count.toNat ∧ count.toNat ≤ 64 then
        some ({ inputForm := head.msb, single := false,
                members := (List.range count.toNat).map fun j => first.toNat + j }, after)
      else none := by
  simp only [parseSet, plain, shape, ne_eq, not_true_eq_false, if_false]
  rfl

/-- LIST shape: a count and the members. -/
theorem parseSet_list (shape : head &&& 3 = 2) (n : Byte) (after : List Byte) :
    parseSet (head :: n :: after) =
      if 1 ≤ n.toNat ∧ n.toNat ≤ 16 ∧ n.toNat ≤ after.length then
        some ({ inputForm := head.msb, single := false, members := (after.take n.toNat).map (·.toNat) },
          after.drop n.toNat)
      else none := by
  simp only [parseSet, plain, shape, ne_eq, not_true_eq_false, if_false]
  rfl

/-- The parameters that begin with a channel set. -/
theorem parseSet_isSome (rest : List Byte) :
    (parseSet (head :: rest)).isSome = true ↔
      (head &&& 3 = 0 ∧ 1 ≤ rest.length) ∨
        (head &&& 3 = 1 ∧ ∃ first count after, rest = first :: count :: after ∧ 1 ≤ count.toNat ∧ count.toNat ≤ 64) ∨
        (head &&& 3 = 2 ∧ ∃ n after, rest = n :: after ∧ 1 ≤ n.toNat ∧ n.toNat ≤ 16 ∧ n.toNat ≤ after.length) := by
  have shapes : head &&& 3 = 0 ∨ head &&& 3 = 1 ∨ head &&& 3 = 2 ∨ head &&& 3 = 3 := by
    generalize head = b
    revert b
    decide
  rcases shapes with shape | shape | shape | shape <;> simp only [shape]
  · cases rest with
    | nil => simp only [parseSet, plain, shape]; simp
    | cons m after => simp [parseSet_single plain shape]
  · match rest with
    | [] => simp only [parseSet, plain, shape]; simp
    | [m] => simp only [parseSet, plain, shape]; simp
    | first :: count :: after =>
      rw [parseSet_range plain shape]
      split <;> simp_all
  · cases rest with
    | nil => simp only [parseSet, plain, shape]; simp
    | cons n after =>
      rw [parseSet_list plain shape]
      split <;> simp_all
  · simp only [parseSet, plain, shape]; simp

end

/-- The first byte of a channel set of a form, with no shape bits. -/
def formByte (inputForm : Bool) : Byte := if inputForm then 0x80 else 0

section
variable (inputForm : Bool) (rest : List Byte)

theorem parseSet_form_single (m : Byte) :
    parseSet (formByte inputForm :: m :: rest) =
      some ({ inputForm := inputForm, single := true, members := [m.toNat] }, rest) := by
  cases inputForm <;> exact parseSet_single (by decide) (by decide) m rest

theorem parseSet_form_range (m count : Byte) :
    parseSet ((formByte inputForm ||| 1) :: m :: count :: rest) =
      if 1 ≤ count.toNat ∧ count.toNat ≤ 64 then
        some ({ inputForm := inputForm, single := false,
                members := (List.range count.toNat).map fun j => m.toNat + j }, rest)
      else none := by
  cases inputForm <;> exact parseSet_range (by decide) (by decide) m count rest

theorem parseSet_form_list (ms : List Byte) (short : ms.length ≤ 255) :
    parseSet ((formByte inputForm ||| 2) :: BitVec.ofNat 8 ms.length :: (ms ++ rest)) =
      if 1 ≤ ms.length ∧ ms.length ≤ 16 then
        some ({ inputForm := inputForm, single := false, members := ms.map (·.toNat) }, rest)
      else none := by
  have count : (BitVec.ofNat 8 ms.length).toNat = ms.length := toNat_byte (by omega)
  have plain : (formByte inputForm ||| 2) &&& 0x7C = 0 := by cases inputForm <;> decide
  have shape : (formByte inputForm ||| 2) &&& 3 = 2 := by cases inputForm <;> decide
  have form : (formByte inputForm ||| 2).msb = inputForm := by cases inputForm <;> decide
  have inside : ms.length ≤ (ms ++ rest).length := by simp
  rw [parseSet_list plain shape, count, form, List.take_left, List.drop_left]
  simp only [inside, and_true]

end

/-! ### Translation -/

/-- The map of feed `f` in force (R25). -/
theorem slotMap_eq (u : State) (f : Feed) :
    u.slotMap f = match u.smu.maps[f].pending with
      | some p => if 0 ≤ lead u.ftu.frame p.start then p.map else u.smu.maps[f].inForce
      | none => u.smu.maps[f].inForce := by
  rw [State.slotMap, FeedMap.current]
  cases u.smu.maps[f].pending with
  | none => rfl
  | some p => simp only [due_iff]

section
variable {u : State} {f : Feed} {m : Nat}

/-- A SLOT member gives the INPUT entry of its slot, and no other entry gives an input (R31). -/
theorem translate_slot :
    u.translate f false m = match (u.slotMap f).slots[m]? with
      | some (.input i) => .ok i
      | _ => .error .unmapped := rfl

theorem translate_input (i : Input) : u.translate f true i.val = .ok i := dif_pos i.isLt

theorem translate_beyond (h : 47 < m) : u.translate f true m = .error .range := dif_neg (by omega)

end

/-! ### The all-members check -/

/-- Member `m` translates to an input that passes the request's own check (R33). -/
def memberPasses (u : State) (f : Feed) (form : Bool) (check : Input → Option Result) (m : Nat) : Prop :=
  ∃ i, u.translate f form m = .ok i ∧ check i = none

/-- Member `m` fails with a code: in its translation, or in the request's own check (R33). -/
def memberFails (u : State) (f : Feed) (form : Bool) (check : Input → Option Result) (m : Nat) (code : Result) : Prop :=
  u.translate f form m = .error code ∨ ∃ i, u.translate f form m = .ok i ∧ check i = some code

/-- The inputs of the members that translate, in set order. -/
def translations (u : State) (f : Feed) (form : Bool) (ms : List Nat) : List Input :=
  ms.filterMap fun m => (u.translate f form m).toOption

section
variable {u : State} {f : Feed} {form : Bool} {check : Input → Option Result}

/-- The members that remain once the inputs of `found` are passed over (R32). -/
theorem eraseDups_fresh (found l : List Input) (i : Input) :
    (if i ∈ found then found ++ (l.filter (· ∉ found)).eraseDups
      else (found ++ [i]) ++ (l.filter (· ∉ found ++ [i])).eraseDups) =
      found ++ ((i :: l).filter (· ∉ found)).eraseDups := by
  split
  · next old => simp [old]
  · next fresh =>
    simp only [fresh, not_false_eq_true, decide_true, List.filter_cons_of_pos, List.eraseDups_cons, List.filter_filter,
      List.append_assoc, List.singleton_append]
    congr 3
    refine List.filter_congr fun j _ => ?_
    by_cases same : j = i <;> simp [same]

/-- The check passes: every member left passes, and its inputs join, each once (R32, R33). -/
theorem resolveFrom_ok (ms : List Nat) : ∀ (pos : Nat) (found is : List Input),
    u.resolveFrom f form check pos found ms = .ok is → (∀ i ∈ found, check i = none) →
    (∀ m ∈ ms, memberPasses u f form check m) ∧
      is = found ++ ((translations u f form ms).filter (· ∉ found)).eraseDups := by
  induction ms with
  | nil =>
    intro pos found is h _
    cases h
    exact ⟨fun m hm => absurd hm List.not_mem_nil, by simp [translations]⟩
  | cons m ms ih =>
    intro pos found is h passed
    simp only [State.resolveFrom] at h
    cases translated : u.translate f form m with
    | error e => simp [translated] at h
    | ok i =>
      have head : translations u f form (m :: ms) = i :: translations u f form ms := by
        simp [translations, translated, Except.toOption]
      rw [head, ← eraseDups_fresh]
      simp only [translated] at h
      split at h
      · next old =>
        obtain ⟨rest, e⟩ := ih _ _ _ h passed
        rw [if_pos old]
        exact ⟨List.forall_mem_cons.2 ⟨⟨i, translated, passed i old⟩, rest⟩, e⟩
      · next fresh =>
        split at h
        · cases h
        · next passes =>
          obtain ⟨rest, e⟩ := ih _ _ _ h (List.forall_mem_append.2 ⟨passed, List.forall_mem_singleton.2 passes⟩)
          rw [if_neg fresh]
          exact ⟨List.forall_mem_cons.2 ⟨⟨i, translated, passes⟩, rest⟩, e⟩

/-- The check fails with the first member that fails, after `k` members that pass (R33). -/
theorem resolveFrom_error (ms : List Nat) : ∀ (start : Nat) (found : List Input) (code : Result) (pos : Nat),
    u.resolveFrom f form check start found ms = .error (code, pos) → (∀ i ∈ found, check i = none) →
    ∃ k m, pos = start + k ∧ ms[k]? = some m ∧ memberFails u f form check m code ∧
      ∀ j d, j < k → ms[j]? = some d → memberPasses u f form check d := by
  induction ms with
  | nil => intro _ _ _ _ h; cases h
  | cons m ms ih =>
    intro start found code pos h passed
    have later {found : List Input} (passes : memberPasses u f form check m) (passed : ∀ i ∈ found, check i = none)
        (h : u.resolveFrom f form check (start + 1) found ms = .error (code, pos)) :
        ∃ k x, pos = start + k ∧ (m :: ms)[k]? = some x ∧ memberFails u f form check x code ∧
          ∀ j d, j < k → (m :: ms)[j]? = some d → memberPasses u f form check d := by
      obtain ⟨k, x, place, member, fails, before⟩ := ih _ _ _ _ h passed
      refine ⟨k + 1, x, by omega, member, fails, fun j d less hd => ?_⟩
      cases j with
      | zero => cases hd; exact passes
      | succ j => exact before j d (by omega) hd
    have here (fails : memberFails u f form check m code) (place : pos = start) :
        ∃ k x, pos = start + k ∧ (m :: ms)[k]? = some x ∧ memberFails u f form check x code ∧
          ∀ j d, j < k → (m :: ms)[j]? = some d → memberPasses u f form check d :=
      ⟨0, m, place, rfl, fails, fun j _ less => absurd less (Nat.not_lt_zero j)⟩
    simp only [State.resolveFrom] at h
    cases translated : u.translate f form m with
    | error e =>
      simp only [translated] at h
      cases h
      exact here (.inl translated) rfl
    | ok i =>
      simp only [translated] at h
      split at h
      · next old => exact later ⟨i, translated, passed i old⟩ passed h
      · split at h
        · next fails =>
          cases h
          exact here (.inr ⟨i, translated, fails⟩) rfl
        · next passes =>
          exact later ⟨i, translated, passes⟩
            (List.forall_mem_append.2 ⟨passed, List.forall_mem_singleton.2 passes⟩) h

end

/-! ### The channel set of a request -/

section
variable {ps : List Byte}

/-- The set that parameters begin with, where what is made of the bytes after it holds that set. -/
theorem firstSet_map {α β : Type} {set : ChannelSet} {rest : List Byte} {read : Option β} {make : β → α}
    {setOf : α → ChannelSet} {p : α} (e : parseSet ps = some (set, rest)) (h : read.map make = some p)
    (holds : ∀ b, setOf (make b) = set) : (parseSet ps).map (·.1) = some (setOf p) := by
  obtain ⟨b, -, rfl⟩ := Option.map_eq_some_iff.1 h
  rw [e, holds]
  rfl

theorem parseTrim_set {p : TrimParams} (h : parseTrim ps = some p) : (parseSet ps).map (·.1) = some p.set := by
  unfold parseTrim at h
  split at h
  · next e => exact firstSet_map e h fun _ => rfl
  · cases h

theorem parseSetBit_set {p : ChannelSet × Bool} (h : parseSetBit ps = some p) : (parseSet ps).map (·.1) = some p.1 := by
  unfold parseSetBit at h
  split at h
  · next e => exact firstSet_map e h fun _ => rfl
  · cases h

theorem parseSetAlone_set {set : ChannelSet} (h : parseSetAlone ps = some set) :
    (parseSet ps).map (·.1) = some set := by
  unfold parseSetAlone at h
  split at h
  · next e =>
    cases h
    rw [e]
    rfl
  · cases h

theorem parseSingle_set {set : ChannelSet} (h : parseSingle ps = some set) : (parseSet ps).map (·.1) = some set := by
  unfold parseSingle at h
  split at h
  · next alone =>
    split at h
    · cases h
      exact parseSetAlone_set alone
    · cases h
  · cases h

theorem parseHaSet_set {p : HaSetParams} (h : parseHaSet ps = some p) : (parseSet ps).map (·.1) = some p.set := by
  unfold parseHaSet at h
  split at h
  · next e => exact firstSet_map e h fun _ => rfl
  · cases h

theorem parseNudge_set {p : ChannelSet × Int} (h : parseNudge ps = some p) : (parseSet ps).map (·.1) = some p.1 := by
  unfold parseNudge at h
  split at h
  · next e =>
    split at h
    · cases h
      rw [e]
      rfl
    · cases h
  · cases h

theorem parseAssign_set {p : ChannelSet × Option Feed} (h : parseAssign ps = some p) :
    (parseSet ps).map (·.1) = some p.1 := by
  unfold parseAssign at h
  split at h
  · next e =>
    split at h
    · cases h
      rw [e]
      rfl
    · cases h
  · cases h

theorem parseClipSet_set {p : ClipSetParams} (h : parseClipSet ps = some p) : (parseSet ps).map (·.1) = some p.set := by
  unfold parseClipSet at h
  split at h
  · next e => exact firstSet_map e h fun _ => rfl
  · cases h

theorem parseScnAdd_set {p : SceneAddParams} (h : parseScnAdd ps = some p) :
    (parseSet ps.tail).map (·.1) = some p.set := by
  unfold parseScnAdd at h
  split at h
  · cases h
  · split at h
    · next e => exact firstSet_map e h fun _ => rfl
    · cases h

theorem parseSubscribe_set {p : Byte × Option ChannelSet} (h : parseSubscribe ps = some p) :
    (parseSet ps.tail).map (·.1) = p.2 := by
  unfold parseSubscribe at h
  split at h
  · cases h
  · cases h
    rfl
  · obtain ⟨set, alone, rfl⟩ := Option.map_eq_some_iff.1 h
    exact parseSetAlone_set alone

end

/-! ### A request with a failing member -/

section
variable {u : State} {f : Feed} {ps : List Byte} {set : ChannelSet} {code : Result} {pos : Nat}

/-- A request with a channel set that passes checks 2 to 5 of R146 is carried out by its body. -/
theorem runRequest_withSet {α : Type} {k : ReqKind} {parsed : Option α} {form : α → Bool}
    {body : α → State → Reply} (passes : passesChecks u f ps k) (carries : channelSetOf ps k = some set)
    {p : α} (parses : parsed = some p) (formed : form p = set.inputForm) :
    runRequest k parsed form f body u = body p u := by
  obtain ⟨-, ready, role, supervises⟩ := passes
  rw [parses]
  exact runRequest_passes _ _ _ _ _ _ ready role fun input => supervises set carries (formed ▸ input)

/-- The first failing member refuses a request that works on the inputs of its set (R33). -/
theorem runRequest_memberFails {α : Type} {k : ReqKind} {parsed : Option α} {setOf : α → ChannelSet}
    {check : State → Input → Option Result} {body : α → List Input → State → Reply} (passes : passesChecks u f ps k)
    (carries : channelSetOf ps k = some set) (formed : parsed.isNone = false)
    (parses : ∀ p, parsed = some p → channelSetOf ps k = some (setOf p))
    (fails : u.resolve f set (check u) = .error (code, pos)) :
    runRequest k parsed (fun p => (setOf p).inputForm) f (fun p => onInputs f (setOf p) check (body p)) u =
      (u, [code.byte, byte pos]) := by
  obtain ⟨p, hp⟩ := Option.isSome_iff_exists.1 (Option.isNone_eq_false_iff.1 formed)
  have same : setOf p = set := Option.some.inj ((parses p hp).symm.trans carries)
  rw [runRequest_withSet passes carries hp (congrArg ChannelSet.inputForm same), same]
  exact onInputs_error f set check (body p) u (code, pos) fails

/-- A request with a failing member is refused and changes nothing, but that a claim refused with OWNED hands notices
(R33). -/
theorem executeKind_memberFails {k : ReqKind} (passes : passesChecks u f ps k) (carries : channelSetOf ps k = some set)
    (fails : u.resolve f set (memberCheckOf u f k) = .error (code, pos))
    (scene : k = .scnAdd → u.openScene f ≠ none) (claim : ¬ (k = .ownClaim ∧ code = .owned)) :
    executeKind f ps k u = (u, [code.byte, byte pos]) := by
  have formed := passes.1
  cases k with
  | devStatus | devRestart | storeSave | clockSet | mapWindows | mapGet | feedGlide | lawStage | lawApply | plawStage
  | plawApply | lawGet | supervisorSet | scnOpen | scnCommit | scnCancel | scnList => cases carries
  | tapTrim => exact runRequest_memberFails passes carries formed (fun _ => parseTrim_set) fails
  | tapMode | tapMute => exact runRequest_memberFails passes carries formed (fun _ => parseSetBit_set) fails
  | tapAnchor | ownRelease | clipAck =>
    exact runRequest_memberFails passes carries formed (fun _ => parseSetAlone_set) fails
  | tapGet | haGet | clipGet => exact runRequest_memberFails passes carries formed (fun _ => parseSingle_set) fails
  | haSet => exact runRequest_memberFails passes carries formed (fun _ => parseHaSet_set) fails
  | haNudge => exact runRequest_memberFails passes carries formed (fun _ => parseNudge_set) fails
  | ownAssign => exact runRequest_memberFails passes carries formed (fun _ => parseAssign_set) fails
  | clipSet => exact runRequest_memberFails passes carries formed (fun _ => parseClipSet_set) fails
  | ownClaim =>
    obtain ⟨p, hp⟩ := Option.isSome_iff_exists.1 (Option.isNone_eq_false_iff.1 formed)
    obtain rfl : p = set := Option.some.inj ((parseSetAlone_set hp).symm.trans carries)
    show reqOwnClaim f ps u = _
    rw [reqOwnClaim, runRequest_withSet passes carries hp rfl]
    dsimp only
    rw [show u.resolve f p (mustHold (fun i => !u.ownedElsewhere f i) .owned) = .error (code, pos) from fails]
    dsimp only
    rw [if_neg fun owned => claim ⟨rfl, owned⟩]
    rfl
  | scnAdd =>
    obtain ⟨p, hp⟩ := Option.isSome_iff_exists.1 (Option.isNone_eq_false_iff.1 formed)
    obtain rfl : p.set = set := Option.some.inj ((parseScnAdd_set hp).symm.trans carries)
    obtain ⟨entries, opened⟩ := Option.ne_none_iff_exists'.1 (scene rfl)
    show reqScnAdd f ps u = _
    rw [reqScnAdd, runRequest_withSet passes carries hp rfl, opened]
    exact onInputs_error f p.set (fun _ => noCheck) _ u (code, pos) fails
  | mtrSubscribe =>
    obtain ⟨p, hp⟩ := Option.isSome_iff_exists.1 (Option.isNone_eq_false_iff.1 formed)
    have listed : p.2 = some set := (parseSubscribe_set hp).symm.trans carries
    show reqMtrSubscribe f ps u = _
    rw [reqMtrSubscribe, runRequest_withSet passes carries hp (by rw [listed]; rfl), listed]
    exact onInputs_error f set (fun _ => noCheck) _ u (code, pos) fails

end

/-! ### The statement -/

/-- The encodings of channel sets, and nothing else, are read as sets (R30). -/
theorem parseSet_exists_iff (head : Byte) (rest : List Byte) :
    (∃ x, parseSet (head :: rest) = some x) ↔
      head &&& 0x7C = 0 ∧
        ((head &&& 3 = 0 ∧ 1 ≤ rest.length) ∨
          (head &&& 3 = 1 ∧ ∃ first count after, rest = first :: count :: after ∧ 1 ≤ count.toNat ∧ count.toNat ≤ 64) ∨
          (head &&& 3 = 2 ∧
            ∃ n after, rest = n :: after ∧ 1 ≤ n.toNat ∧ n.toNat ≤ 16 ∧ n.toNat ≤ after.length)) := by
  rw [← Option.isSome_iff_exists]
  by_cases plain : head &&& 0x7C = 0
  · rw [parseSet_isSome plain, and_iff_right plain]
  · rw [parseSet_reserved plain]
    exact ⟨fun h => absurd h Bool.false_ne_true, fun h => absurd h.1 plain⟩

/-- Settles O30. -/
theorem allMembersCheck : Obligations.AllMembersCheck := by
  refine ⟨parseSet_exists_iff, rfl, ?translation, rfl, ?encoding, ?check, ?refusal⟩
  case translation =>
    intro u f m map
    have inForce : map = u.slotMap f := (slotMap_eq u f).symm
    rw [inForce]
    refine ⟨fun beyond => ?_, fun mute => ?_, fun i slot => ?_, fun i e => ?_, translate_beyond⟩
    · rw [translate_slot, List.getElem?_eq_none beyond]
    · rcases mute with slot | slot <;> rw [translate_slot, slot]
    · rw [translate_slot, slot]
    · rw [e, translate_input]
  case encoding =>
    intro inputForm m count ms rest form
    exact ⟨parseSet_form_single inputForm rest m, parseSet_form_range inputForm rest m count,
      parseSet_form_list inputForm rest ms⟩
  case check =>
    intro u f set check passes
    split
    · next is resolved =>
      obtain ⟨all, e⟩ := resolveFrom_ok set.members 0 [] is resolved fun i hi => absurd hi List.not_mem_nil
      refine ⟨all, (resolve_sound u f set check is resolved).1, ?_⟩
      simpa [translations] using e
    · next code pos resolved =>
      obtain ⟨k, m, rfl, member, fails, before⟩ :=
        resolveFrom_error set.members 0 [] code pos resolved fun i hi => absurd hi List.not_mem_nil
      rw [Nat.zero_add]
      exact ⟨m, member, fails, before⟩
  case refusal =>
    intro s c f tag kind ps k set code pos request known serves u checks carries fails scene claim
    obtain rfl := code_of_ofByte known
    exact exec_answers request serves (executeKind_memberFails checks carries fails scene claim)

end Sys2Proof.Machine
end

section
/-! PROOFS. The reading requests (R27, R52, R69, R77, R121, R159): what their fields are as bytes, and their answers. -/

namespace Sys2Proof.Machine

/-! ### Fields as bytes -/

/-- A signed field of two bytes. -/
theorem be16s_eq (x : Int) : be16s x = be 2 (x % 65536).toNat := by
  rw [be16s, BitVec.toNat_ofInt]
  rfl

/-- The anchor field of four bytes (R52). -/
theorem anchorBytes_track (n : Int) : (TapMode.track n).anchorBytes = 1 :: be 4 (n % 4294967296).toNat := by
  rw [TapMode.anchorBytes, BitVec.toNat_ofInt]
  rfl

/-- The in-flight fields, each 0 when no write is in flight (R77). -/
theorem inFlightBytes_eq (x : Option InFlight) :
    inFlightBytes x = match x with
      | none => [0, 0, 0, 0, 0, 0, 0, 0, 0, 0, 0, 0]
      | some w => 1 :: w.value.bytes ++ be 4 w.sent.toNat ++ be 4 w.effective.toNat := by
  cases x <;> rfl

/-- The settle mute fields (R77). -/
theorem settle_bytes_eq (x : SettleMute) :
    x.bytes = match x with
      | .absent => [0, 0, 0, 0, 0]
      | .ends frame => 1 :: be 4 frame.toNat
      | .held => [2, 0, 0, 0, 0] := by
  cases x <;> rfl

theorem ownerByte_eq (o : Option Feed) :
    ownerByte o = match o with
      | some k => BitVec.ofNat 8 k.val
      | none => 4 := by
  cases o <;> rfl

/-- The entries of a block of a table, in index order (R69). -/
theorem blockBytes_eq {n w : Nat} (k size b : Nat) (t : Vector (BitVec w) n) (inside : size * b + size ≤ n) :
    blockBytes k size b t =
      (List.finRange size).flatMap fun j : Fin size => be k (t.toList.getD (size * b + j.val) 0).toNat := by
  have entriesOf : ((entries t).drop (size * b)).take size =
      (List.finRange size).map fun j : Fin size => (t.toList.getD (size * b + j.val) 0).toNat := by
    apply List.ext_getElem
    · rw [List.length_take, List.length_drop, entries_length, List.length_map, List.length_finRange]
      omega
    · intro j _ hj
      rw [List.length_map, List.length_finRange] at hj
      simp [entries_getElem, show size * b + j < n by omega]
  rw [blockBytes, entriesOf, List.flatMap_map]

theorem parseNone_nil : parseNone [] = some () := rfl

/-! ### Requests on one input -/

section
variable {f : Feed} {m : Byte} {inputForm : Bool} {i : Input}

/-- A set of one member that translates gives its input (R31). -/
theorem resolve_single {u : State} {set : ChannelSet} (members : set.members = [m.toNat])
    (translates : u.translate f set.inputForm m.toNat = .ok i) : u.resolve f set noCheck = .ok [i] := by
  simp [State.resolve, members, State.resolveFrom, translates, noCheck]

/-- A reading request of one input, whose feed may send its set, works on that input (R52, R77, R159). -/
theorem runRequest_single {k : ReqKind} {body : List Input → State → Reply} {u : State} (ready : u.sil.load = .ready)
    (free : privileged k = false) (supervises : inputForm = true → f = u.cle.supervisor)
    (translates : u.translate f inputForm m.toNat = .ok i) :
    runRequest k (parseSingle [formByte inputForm, m]) (·.inputForm) f
      (fun set => onInputs f set (fun _ => noCheck) body) u = body [i] u := by
  have parses : parseSingle [formByte inputForm, m] =
      some { inputForm := inputForm, single := true, members := [m.toNat] } := by
    rw [parseSingle, parseSetAlone, parseSet_form_single]
    rfl
  rw [parses, runRequest_passes _ _ _ _ _ _ (.inl (loading_of_ready ready))
    (fun h => absurd (free.symm.trans h) (by decide)) supervises]
  exact onInputs_ok _ _ _ _ _ _ (resolve_single rfl translates)

end

/-- LAW_GET in a part that is READY (R69). -/
theorem reqLawGet_ready {f : Feed} {table source block : Byte} {u : State} (ready : u.sil.load = .ready) :
    reqLawGet f [table, source, block] u =
      if 1 < table.toNat ∨ 1 < source.toNat ∨ 3 < block.toNat then refuse .range u
      else if table = 0 then
        accept .ok ([table, source, block, marksByte u.tgu.marks] ++
          blockBytes 3 12 block.toNat (if source = 0 then u.tgu.law u.ftu.frame else u.tgu.staging)) u
      else
        accept .ok ([table, source, block, marksByte u.hac.marks] ++
          blockBytes 2 16 block.toNat (if source = 0 then u.hac.plt else u.hac.staging)) u := by
  have parses : parseLawGet [table, source, block] = some { table := table, source := source, block := block } := rfl
  rw [reqLawGet, runRequest_ready ready rfl parses]

/-- The answer of a reading request of one input. -/
theorem accept_single (g : Input → List Byte) (i : Input) (u : State) :
    accept .ok ([i].flatMap g) u = (u, 0 :: g i) := by
  rw [List.flatMap_singleton]
  rfl

/-- Settles O39. -/
theorem readsReportAndChangeNothing : Obligations.ReadsReportAndChangeNothing := by
  intro s f tag serves u ready b signed amp
  have answers {c : Instr} {k : ReqKind} {ps bytes : List Byte} (request : c.request = some (f, tag, k.code, ps))
      (executes : executeKind f ps k u = (u, bytes)) : exec c s = .next (answered f tag k.code bytes u) :=
    exec_answers request serves executes
  clear_value u
  refine ⟨?map, ?scenes, ?laws, ?single⟩
  case map =>
    refine answers (k := .mapGet) rfl ?_
    show reqMapGet f [] u = _
    rw [reqMapGet, runRequest_ready ready rfl parseNone_nil]
    refine congrArg (fun l => (u, _ :: _ :: _ :: l)) (List.flatMap_congr fun w _ => ?_)
    cases w with
    | input first count order => cases order <;> rfl
    | silence | pattern => rfl
  case scenes =>
    refine answers (k := .scnList) rfl ?_
    show reqScnList f [] u = _
    rw [reqScnList, runRequest_ready ready rfl parseNone_nil, List.countP_eq_length_filter]
    cases u.openScene f <;> rfl
  case laws =>
    intro table source block
    have executes := reqLawGet_ready (f := f) (table := table) (source := source) (block := block) ready
    by_cases refused : 1 < table.toNat ∨ 1 < source.toNat ∨ 3 < block.toNat
    · rw [if_pos refused]
      exact answers (k := .lawGet) rfl (executes.trans (if_pos refused))
    · replace executes := executes.trans (if_neg refused)
      have inside : block.toNat ≤ 3 := by omega
      rw [if_neg refused]
      by_cases gain : table = 0
      · subst gain
        rw [if_pos rfl]
        refine answers (k := .lawGet) rfl ((executes.trans (if_pos rfl)).trans ?_)
        rw [blockBytes_eq 3 12 block.toNat _ (by omega)]
        rfl
      · obtain rfl : table = 1 := by bv_omega
        rw [if_neg gain]
        refine answers (k := .lawGet) rfl ((executes.trans (if_neg gain)).trans ?_)
        rw [blockBytes_eq 2 16 block.toNat _ (by omega)]
        rfl
  case single =>
    intro inputForm m i supervises translates ps t c x
    refine ⟨?tap, ?headAmp, ?clip⟩
    case tap =>
      refine answers (k := .tapGet) rfl ?_
      show reqTapGet f [formByte inputForm, m] u = _
      rw [reqTapGet, runRequest_single ready rfl supervises translates,
        accept_single, Tap.bytes, be16s_eq, be16s_eq, be16s_eq]
      cases (u.tap f i).mode with
      | follow => rfl
      | track n => rw [anchorBytes_track]; rfl
    case headAmp =>
      refine answers (k := .haGet) rfl ?_
      show reqHaGet f [formByte inputForm, m] u = _
      rw [reqHaGet, runRequest_single ready rfl supervises translates,
        accept_single, State.channelBytes, be16s_eq, inFlightBytes_eq, settle_bytes_eq, ownerByte_eq]
      simp only [List.append_assoc, List.cons_append, List.nil_append]
      rfl
    case clip =>
      refine answers (k := .clipGet) rfl ?_
      show reqClipGet f [formByte inputForm, m] u = _
      rw [reqClipGet, runRequest_single ready rfl supervises translates,
        accept_single, Clip.bytes]
      rfl

end Sys2Proof.Machine
end

section
/-! PROOFS. Taps and channels after the shared operations: which tap changes and what it becomes (R36, R41, R43), and what
each change of a tap keeps of R35 and R36. -/

namespace Sys2Proof.Machine

/-! ### Reads -/

@[simp] theorem told_tap (nts : Feed → List Notice) (s : State) (f : Feed) (i : Input) :
    (told nts s).tap f i = s.tap f i := rfl

@[simp] theorem told_channel (nts : Feed → List Notice) (s : State) (i : Input) :
    (told nts s).channel i = s.channel i := rfl

/-- The taps after one of them is replaced. -/
theorem onTap_tap (f : Feed) (i : Input) (g : Tap → Tap) (s : State) (k : Feed) (j : Input) :
    ({ s with tgu := s.tgu.onTap f i g } : State).tap k j =
      if k = f ∧ j = i then g (s.tap f i) else s.tap k j := by
  unfold State.tap Tgu.onTap
  simp only [Fin.getElem_fin, upd_entry]
  by_cases feed : k = f
  · subst feed
    by_cases input : j = i
    · subst input
      simp
    · have differ : ¬ i.val = j.val := fun e => input (Fin.ext e.symm)
      simp [input, differ]
  · have differ : ¬ f.val = k.val := fun e => feed (Fin.ext e.symm)
    simp [feed, differ]

theorem changeTap_tap (f : Feed) (i : Input) (g : Tap → Tap) (s : State) (k : Feed) (j : Input) :
    (changeTap f i g s).tap k j = if k = f ∧ j = i then g (s.tap f i) else s.tap k j := by
  rw [changeTap_told, told_tap, onTap_tap]

@[simp] theorem changeTap_channel (f : Feed) (i : Input) (g : Tap → Tap) (s : State) (j : Input) :
    (changeTap f i g s).channel j = s.channel j := rfl

/-- The taps after a change of the four taps of an input. -/
theorem changeInput_tap (i : Input) (g : Feed → Tap → Tap) (s : State) (f : Feed) (j : Input) :
    (changeTap 3 i (g 3) (changeTap 2 i (g 2) (changeTap 1 i (g 1) (changeTap 0 i (g 0) s)))).tap f j =
      if j = i then g f (s.tap f j) else s.tap f j := by
  simp only [changeTap_tap]
  by_cases input : j = i
  · subst input
    fin_cases f <;> simp
  · simp [input]

/-- Every tap of the input takes the compensation event, and no other tap does (R41). -/
theorem compensate_tap (i : Input) (d : Int) (s : State) (f : Feed) (j : Input) :
    (compensate i d s).tap f j = if j = i then (s.tap f j).jump d (s.channel i).gain else s.tap f j :=
  changeInput_tap i (fun _ => Tap.jump d (s.channel i).gain) s f j

/-- Every tap of the input takes the rebase event, and no other tap does (R43). -/
theorem rebase_tap (i : Input) (d : Int) (s : State) (f : Feed) (j : Input) :
    (rebase i d s).tap f j =
      if j = i then (s.tap f j).rebase s.ftu.frame f i d (s.channel i).gain else s.tap f j :=
  changeInput_tap i (fun f => Tap.rebase s.ftu.frame f i d (s.channel i).gain) s f j

@[simp] theorem rebase_channel (i : Input) (d : Int) (s : State) (j : Input) :
    (rebase i d s).channel j = s.channel j := by
  unfold State.channel
  rw [rebase_hac]

/-- The channel records after one of them is replaced. -/
theorem onChannel_channel (i : Input) (g : Channel → Channel) (s : State) (j : Input) :
    ({ s with hac := s.hac.onChannel i g } : State).channel j = if j = i then g (s.channel i) else s.channel j := by
  unfold State.channel Hac.onChannel
  rw [Fin.getElem_fin, upd_entry]
  by_cases input : j = i
  · subst input
    simp
  · have differ : ¬ i.val = j.val := fun e => input (Fin.ext e.symm)
    simp [input, differ]

/-! ### Trims -/

theorem inTrim_clampTrim (x : Int) : inTrim (clampTrim x) := clampTrim_range x

theorem inTrim_zero : inTrim 0 := ⟨by decide, by decide⟩

/-- The limit flag of R36. -/
theorem clampTrim_limit (x : Int) : decide (clampTrim x ≠ x) = decide (x < -320 ∨ 192 < x) := by
  rw [decide_eq_decide, clampTrim_ne_iff]
  unfold inTrim
  omega

/-- A glide step ends between the current and the target (R40). -/
theorem glideStep_between (g : Nat) (current target : Int) :
    (current ≤ glideStep g current target ∧ glideStep g current target ≤ target) ∨
      (target ≤ glideStep g current target ∧ glideStep g current target ≤ current) := by
  unfold glideStep
  split
  · omega
  · split <;> omega

/-! ### What keeps a tap sound -/

/-- An anchor in the signed 32-bit range (R35). -/
def TapMode.anchored : TapMode → Prop
  | .follow => True
  | .track n => -2147483648 ≤ n ∧ n ≤ 2147483647

theorem Tap.anchored_of_sound {a : Int} {t : Tap} (h : t.sound a) : t.mode.anchored := by
  obtain ⟨-, -, -, h⟩ := h
  unfold TapMode.anchored
  split
  · trivial
  · next n track =>
    rw [track] at h
    exact ⟨h.1, h.2.1⟩

/-- A tap whose offset, current and anchor lie in their ranges is sound at the gain at which it is retargeted (R36). -/
theorem Tap.retarget_sound (a : Int) {t : Tap} (offset : inTrim t.offset) (current : inTrim t.current)
    (anchor : t.mode.anchored) : (t.retarget a).sound a := by
  obtain ⟨mode, o, target, c, mute, limit⟩ := t
  cases mode with
  | follow => exact ⟨offset, offset, current, rfl, rfl⟩
  | track n =>
    refine ⟨offset, inTrim_clampTrim _, current, anchor.1, anchor.2, rfl, ?_⟩
    exact decide_eq_true_iff.trans (clampTrim_ne_iff _)

/-- In FOLLOW nothing of a tap rests on the gain (R36). -/
theorem Tap.sound_of_follow {a : Int} {t : Tap} (follow : t.mode = .follow) (h : t.sound a) (b : Int) : t.sound b := by
  obtain ⟨offset, target, current, h⟩ := h
  refine ⟨offset, target, current, ?_⟩
  rw [follow] at h ⊢
  exact h

section
variable {a : Int} {t : Tap} (h : t.sound a)
include h

/-- A compensation event gives a tap sound at the new gain (R41). -/
theorem Tap.jump_sound (d b : Int) : (t.jump d b).sound b := by
  unfold Tap.jump
  split
  · next follow => exact Tap.sound_of_follow follow h b
  · have anchor := Tap.anchored_of_sound h
    obtain ⟨offset, -, -, -⟩ := h
    exact Tap.retarget_sound b offset (inTrim_clampTrim _) anchor

theorem Tap.trim_sound {offset : Int} (fits : inTrim offset) (b : Int) : (t.trim offset b).sound b := by
  have anchor := Tap.anchored_of_sound h
  obtain ⟨-, -, current, -⟩ := h
  exact Tap.retarget_sound b fits current anchor

/-- FOLLOW to TRACK at a gain that an anchor can hold (R47). -/
theorem Tap.toTrack_sound (anchor : (TapMode.track a).anchored) : (t.toTrack a).sound a := by
  unfold Tap.toTrack
  split
  · obtain ⟨offset, -, current, -⟩ := h
    exact Tap.retarget_sound a offset current anchor
  · exact h

/-- TRACK to FOLLOW (R48). -/
theorem Tap.toFollow_sound : (t.toFollow a).sound a := by
  unfold Tap.toFollow
  split
  · exact h
  · obtain ⟨-, target, current, -⟩ := h
    exact Tap.retarget_sound a target current trivial

/-- A new anchor, at a gain that an anchor can hold (R49). -/
theorem Tap.reanchor_sound (anchor : (TapMode.track a).anchored) : (t.reanchor a).sound a := by
  unfold Tap.reanchor
  split
  · exact h
  · obtain ⟨-, target, current, -⟩ := h
    exact Tap.retarget_sound a target current anchor

theorem Tap.setMute_sound (on : Bool) : (t.setMute on).sound a := h

/-- A glide step moves the current within the range (R40). -/
theorem Tap.glide_sound (g : Fin 16) : (t.glide g).sound a := by
  obtain ⟨offset, target, current, flag⟩ := h
  refine ⟨offset, target, ?_, flag⟩
  have between := glideStep_between g.val t.current t.target
  unfold inTrim at *
  unfold Tap.glide
  dsimp only
  omega

end

/-- A loaded tap is sound at the gain at which it is loaded (R56, R57). -/
theorem loadTap_sound {x : TapSetting} {anchor : Int} (offset : inTrim x.offset)
    (holds : (TapMode.track anchor).anchored) (live : Int) : (loadTap x anchor live).sound live := by
  unfold loadTap
  generalize start : Tap.retarget live _ = t
  have sound : t.sound live := by
    rw [← start]
    refine Tap.retarget_sound live offset offset ?_
    dsimp only
    split
    · exact holds
    · trivial
  obtain ⟨o, target, -, flag⟩ := sound
  exact ⟨o, target, target, flag⟩

end Sys2Proof.Machine
end

section
/-! PROOFS. What R35, R36 and R72 rest on, and the changes of the part that leave it alone. -/

namespace Sys2Proof.Machine

/-! ### Gains -/

/-- A preamp law and a pad value in their ranges (R72, R86). -/
def Hac.lawFits (h : Hac) : Prop := plawSound h.plt ∧ -255 ≤ h.padValue ∧ h.padValue ≤ 0

/-- An analogue gain lies in −255 to +511 (R72). -/
theorem gainOf_range {h : Hac} (fits : h.lawFits) (v : HeadAmp) : -255 ≤ h.gainOf v ∧ h.gainOf v ≤ 511 := by
  obtain ⟨⟨entry, -⟩, low, high⟩ := fits
  have := entry v.code
  unfold Hac.gainOf gainOf
  split <;> omega

/-- An analogue gain can be an anchor (R35, R72). -/
theorem gainOf_anchored {h : Hac} (fits : h.lawFits) (v : HeadAmp) : (TapMode.track (h.gainOf v)).anchored := by
  have := gainOf_range fits v
  exact ⟨by omega, by omega⟩

theorem gainsSound_iff (s : State) :
    s.gainsSound ↔ s.hac.lawFits ∧ ∀ i, (s.channel i).gain = s.hac.gainOf (s.channel i).live := by
  unfold State.gainsSound Hac.lawFits
  exact ⟨fun ⟨a, b, c, d⟩ => ⟨⟨a, b, c⟩, d⟩, fun ⟨⟨a, b, c⟩, d⟩ => ⟨a, b, c, d⟩⟩

/-! ### The condition -/

/-- The TRIM entries of a scene set offsets in range (R109). -/
def trimsFit (es : List SceneEntry) : Prop := ∀ e ∈ es, ∀ x, e.value = .trim x → inTrim x

theorem trimsFit_of_sceneSound {es : List SceneEntry} (h : sceneSound es) : trimsFit es := by
  intro e listed x trim
  have sound := h.2.2 e listed
  unfold SceneEntry.sound at sound
  rw [trim] at sound
  exact sound

/-- Gains and taps are sound, and so are the offsets that scenes hold in wait for the taps (R35, R36, R72, R109). -/
structure State.levels (s : State) : Prop where
  gains : s.gainsSound
  taps : s.tapsSound
  opened : ∀ f es, s.openScene f = some es → trimsFit es
  scheduled : ∀ x ∈ s.scu.scheduled, trimsFit x.entries

theorem levels_of_sound {s : State} (gains : s.gainsSound) (scenes : s.scenesSound) (taps : s.tapsSound) : s.levels := by
  obtain ⟨opened, -, scheduled, -⟩ := scenes
  exact ⟨gains, taps, fun f es e => trimsFit_of_sceneSound (opened f es e),
    fun x waits => trimsFit_of_sceneSound (scheduled x waits).1⟩

theorem levels_anchored {s : State} (h : s.levels) (i : Input) : (TapMode.track (s.channel i).gain).anchored := by
  obtain ⟨fits, gain⟩ := (gainsSound_iff s).1 h.gains
  rw [gain i]
  exact gainOf_anchored fits _

/-- Taps, gains and what they are computed from are the same in two states, and every scene of the second is one of the
first. -/
structure State.still (s t : State) : Prop where
  taps : t.tgu.taps = s.tgu.taps := by rfl
  plt : t.hac.plt = s.hac.plt := by rfl
  padValue : t.hac.padValue = s.hac.padValue := by rfl
  live : ∀ i, (t.channel i).live = (s.channel i).live := by intros; rfl
  gain : ∀ i, (t.channel i).gain = (s.channel i).gain := by intros; rfl
  opened : ∀ f es, t.openScene f = some es → s.openScene f = some es := by intros; assumption
  scheduled : ∀ x ∈ t.scu.scheduled, x ∈ s.scu.scheduled := by intros; assumption

theorem still_refl (s : State) : s.still s := {}

theorem still_trans {s t u : State} (a : s.still t) (b : t.still u) : s.still u where
  taps := b.taps.trans a.taps
  plt := b.plt.trans a.plt
  padValue := b.padValue.trans a.padValue
  live i := (b.live i).trans (a.live i)
  gain i := (b.gain i).trans (a.gain i)
  opened f es e := a.opened f es (b.opened f es e)
  scheduled x e := a.scheduled x (b.scheduled x e)

theorem foldl_still {α : Type} (step : State → α → State) (h : ∀ (s : State) (a : α), s.still (step s a)) (l : List α)
    (s : State) : s.still (l.foldl step s) :=
  List.foldlRecOn l step (still_refl s) fun t reached a _ => still_trans reached (h t a)

/-- The gains rest on the law, the pad value and the live values alone (R72). -/
theorem gainsSound_of_same {s t : State} (plt : t.hac.plt = s.hac.plt) (padValue : t.hac.padValue = s.hac.padValue)
    (live : ∀ i, (t.channel i).live = (s.channel i).live) (gain : ∀ i, (t.channel i).gain = (s.channel i).gain)
    (h : s.gainsSound) : t.gainsSound := by
  unfold State.gainsSound at *
  simp only [plt, padValue, live, gain]
  exact h

theorem levels_of_still {s t : State} (a : s.still t) (h : s.levels) : t.levels where
  gains := gainsSound_of_same a.plt a.padValue a.live a.gain h.gains
  taps f i := by
    have tap : t.tap f i = s.tap f i := by rw [State.tap, a.taps]; rfl
    rw [tap, a.gain]
    exact h.taps f i
  opened f es e := h.opened f es (a.opened f es e)
  scheduled x e := h.scheduled x (a.scheduled x e)

/-- A change of other blocks. -/
theorem blocks_still {s t : State} (tgu : t.tgu = s.tgu) (hac : t.hac = s.hac) (scu : t.scu = s.scu) : s.still t where
  taps := by rw [tgu]
  plt := by rw [hac]
  padValue := by rw [hac]
  live i := by rw [State.channel, hac]; rfl
  gain i := by rw [State.channel, hac]; rfl
  opened f es e := by rwa [State.openScene, scu] at e
  scheduled x e := scu ▸ e

/-! ### Changes that leave it alone -/

theorem notifyIf_still (b : Bool) (f : Feed) (nt : Notice) (s : State) : s.still (notifyIf b f nt s) := {}

theorem notifyWhere_still (p : Feed → Bool) (nt : Notice) (s : State) : s.still (notifyWhere p nt s) := {}

theorem clockEvent_still (g : Ftu → Ftu) (s : State) : s.still (clockEvent g s) := {}

/-- A change of a channel that leaves its live values and gain alone. -/
theorem onChannel_still (i : Input) (g : Channel → Channel) (s : State) (live : ∀ c, (g c).live = c.live)
    (gain : ∀ c, (g c).gain = c.gain) : s.still { s with hac := s.hac.onChannel i g } where
  live := upd_read _ i g Channel.live live
  gain := upd_read _ i g Channel.gain gain

theorem setOwner_still (new : Option Feed) (cause : OwnerCause) (i : Input) (s : State) :
    s.still (setOwner new cause i s) := by
  unfold setOwner
  dsimp only
  split
  · exact still_refl s
  · exact still_trans (onChannel_still i (fun c => { c with owner := new }) s (fun _ => rfl) fun _ => rfl)
      (notifyWhere_still _ _ _)

theorem claimSeen_still (f : Feed) (s : State) (i : Input) : s.still (claimSeen f s i) := by
  unfold claimSeen
  split
  · exact notifyIf_still _ _ _ _
  · exact still_refl s

theorem change_gain (h : Hac) (i : Input) (v : HeadAmp) (j : Input) :
    (h.change i v).channels[j].gain = h.channels[j].gain := by
  unfold Hac.change
  apply upd_read (p := Channel.gain)
  intro c
  rfl

theorem change_still (i : Input) (v : HeadAmp) (s : State) : s.still { s with hac := s.hac.change i v } where
  live := change_live s.hac i v
  gain := change_gain s.hac i v

/-- An open scene is discarded. -/
theorem discardScene_still (f : Feed) (s : State) : s.still (setOpenScene f none s) where
  opened g es e := by
    simp only [State.openScene, setOpenScene, Fin.getElem_fin, put_entry] at e
    split at e
    · cases e
    · exact e

theorem restart_still (s : State) : s.still (restart s) where
  opened g es e := by simp [State.openScene, restart, Scu.reset] at e
  scheduled x e := absurd e List.not_mem_nil

theorem clipNotice_still (captured : Input → Bool) (i : Input) (s : State) : s.still (clipNotice captured i s) := by
  unfold clipNotice
  exact notifyWhere_still _ _ _

theorem takeSamples_still (s : State) : s.still (takeSamples s) := by
  unfold takeSamples
  exact still_trans (t := { s with lmu := _ }) {} (foldl_still _ (fun t i => clipNotice_still _ i t) inputs _)

theorem meterBlock_still (f : Feed) (peaks : List (Input × Nat)) (s : State) : s.still (meterBlock f peaks s) := by
  unfold meterBlock
  split
  · exact still_refl s
  · exact notifyIf_still _ _ _ _

theorem periodEnd_still (f : Feed) (s : State) : s.still (periodEnd f s) := by
  unfold periodEnd
  split
  · split
    · exact still_trans (t := { s with lmu := _ }) {} (still_trans (meterBlock_still _ _ _)
        (still_trans (meterBlock_still _ _ _) (meterBlock_still _ _ _)))
    · exact still_refl s
  · exact still_refl s

theorem periodEnds_still (s : State) : s.still (periodEnds s) :=
  still_trans (periodEnd_still 0 s) (still_trans (periodEnd_still 1 _)
    (still_trans (periodEnd_still 2 _) (periodEnd_still 3 _)))

theorem converterOutcome_still (g : Group) (x : Option (List Sample)) (s : State) : s.still (converterOutcome g x s) :=
  blocks_still (converterOutcome_tgu g x s) (converterOutcome_hac g x s) (converterOutcome_scu g x s)

theorem missingConverters_still (s : State) : s.still (missingConverters s) := by
  refine foldl_still _ (fun t g => ?_) _ s
  unfold missingConverter
  split
  · exact still_refl t
  · exact converterOutcome_still _ _ _

theorem settleEnd_still (i : Input) (s : State) : s.still (settleEnd i s) := by
  refine onChannel_still i _ s (fun c => ?_) fun c => ?_
  all_goals
    unfold Channel.endSettle
    repeat' split
    all_goals rfl

theorem settleEnds_still (s : State) : s.still (settleEnds s) := by
  rw [settleEnds_eq]
  exact foldl_still _ (fun t i => settleEnd_still i t) _ s

theorem lawInEffect_still (s : State) : s.still (lawInEffect s) where
  taps := by
    unfold lawInEffect Tgu.advance
    repeat' split
    all_goals rfl

/-! ### Link ports and timers -/

theorem goOnline_still (f : Feed) (r : Role) (s : State) : s.still (goOnline f r s) :=
  blocks_still (goOnline_tgu f r s) (goOnline_hac f r s) (goOnline_scu f r s)

theorem moveControl_still (f : Feed) (r : Role) (s : State) : s.still (moveControl f r s) :=
  blocks_still (moveControl_tgu f r s) (moveControl_hac f r s) (moveControl_scu f r s)

theorem goOffline_still (f : Feed) (s : State) : s.still (goOffline f s) :=
  still_trans (discardScene_still f s) (still_trans (t := { setOpenScene f none s with
    lnk := _, cle := _, lmu := _ }) {} (clockEvent_still _ _))

theorem portUp_still (f : Feed) (r : Role) (s : State) : s.still (portUp f r s) := by
  unfold portUp
  split
  · exact goOnline_still f r s
  · split
    · exact moveControl_still f .main s
    · exact still_refl s

theorem portDown_still (f : Feed) (r : Role) (s : State) : s.still (portDown f r s) := by
  unfold portDown
  split
  · split
    · exact moveControl_still f r.other s
    · exact goOffline_still f s
  · exact still_refl s

theorem takeOutcome_still (f : Feed) (r : Role) (good : Bool) (s : State) : s.still (takeOutcome f r good s) := by
  unfold takeOutcome
  dsimp only
  split
  · exact still_trans {} (portUp_still _ _ _)
  · split
    · exact still_trans {} (portDown_still _ _ _)
    · exact {}

theorem takeHeld_still (f : Feed) (r : Role) (s : State) : s.still (takeHeld f r s) := by
  unfold takeHeld
  split
  · exact takeOutcome_still f r false s
  · exact still_refl s

theorem portOutcome_still (f : Feed) (r : Role) (late : Bool) (o : UpOutcome) (s : State) :
    s.still (portOutcome f r late o s) := by
  unfold portOutcome
  split
  · next som bytes =>
    exact still_trans (t := deliverBytes f r late som bytes s) {}
      (still_trans (takeOutcome_still _ _ _ _) (takeHeld_still _ _ _))
  · split
    · exact {}
    · exact still_trans (takeOutcome_still _ _ _ _) (takeHeld_still _ _ _)

theorem missingLinks_still (s : State) : s.still (missingLinks s) := by
  refine foldl_still _ (fun t p => ?_) _ s
  unfold missingLink
  split
  · exact still_refl t
  · exact portOutcome_still _ _ _ _ t

/-! ### Send opportunities -/

theorem send_still (b : Group) (n : FrameNo) (e : QueueEntry) (s : State) :
    s.still { s with hac := s.hac.send b n e } where
  live := upd_read _ _ _ Channel.live fun _ => rfl
  gain := upd_read _ _ _ Channel.gain fun _ => rfl

theorem busOpportunity_still (b : Group) (s : State) : s.still (busOpportunity b s) := by
  unfold busOpportunity Hac.opportunity
  split
  · have used : s.still { s with hac := s.hac.onBus b fun u => { u with taken := true } } := {}
    dsimp only
    split
    · exact still_trans used (send_still b _ _ _)
    · exact used
  · exact still_refl s

/-! ### The end of the frame, loads and saves -/

theorem completeLoad_still (r : EepromRead) (s : State) : s.still (completeLoad r s) := by
  unfold completeLoad
  split
  · next kind _ => cases kind <;> exact {}
  · exact still_refl s

theorem completeSave_still (x : SaveEnd) (s : State) : s.still (completeSave x s) := by
  unfold completeSave
  split
  · exact still_refl s
  · exact still_trans (t := { s with sil := _ }) {} (notifyIf_still _ _ _ _)

end Sys2Proof.Machine
end

section
/-! PROOFS. Taps and gains kept sound by every step (R35, R36, R72). -/

namespace Sys2Proof.Machine

/-! ### Changes of taps -/

/-- A change of one tap that leaves it sound. -/
theorem changeTap_levels {f : Feed} {i : Input} {g : Tap → Tap} {s : State} (h : s.levels)
    (sound : (g (s.tap f i)).sound (s.channel i).gain) : (changeTap f i g s).levels where
  gains := h.gains
  taps k j := by
    rw [changeTap_tap, changeTap_channel]
    split
    · next e =>
      obtain ⟨-, rfl⟩ := e
      exact sound
    · exact h.taps k j
  opened := h.opened
  scheduled := h.scheduled

/-- A change of taps that leaves every sound tap sound, at a gain that an anchor can hold. -/
theorem changeTaps_levels {f : Feed} {g : Int → Tap → Tap} {is : List Input} {s : State} (h : s.levels)
    (sound : ∀ a t, (TapMode.track a).anchored → t.sound a → (g a t).sound a) : (changeTaps f g is s).levels :=
  List.foldlRecOn is _ h fun _ reached i _ => changeTap_levels reached (sound _ _ (levels_anchored reached i) (reached.taps f i))

theorem stepTaps_tap (w : State) (f : Feed) (i : Input) :
    (stepTaps w).tap f i = (w.tap f i).glide w.tgu.glide[f] := by simp [stepTaps, State.tap]

theorem stepTaps_levels {s : State} (h : s.levels) : (stepTaps s).levels where
  gains := h.gains
  taps f i := by
    rw [stepTaps_tap]
    exact Tap.glide_sound (h.taps f i) _
  opened := h.opened
  scheduled := h.scheduled

/-! ### Effective events -/

theorem makeLive_channel (n : FrameNo) (i : Input) (v : HeadAmp) (s : State) (j : Input) :
    ({ s with hac := s.hac.makeLive n i v } : State).channel j =
      if j = i then { s.channel i with live := v, inFlight := none, gain := s.hac.gainOf v } else s.channel j :=
  onChannel_channel i (fun c => { c with live := v, inFlight := none, gain := s.hac.gainOf v }) s j

/-- The compensation event of a channel whose new gain it holds already (R41). -/
theorem announceLive_tap (i : Input) (d : Int) (s : State) (f : Feed) (j : Input) :
    (announceLive i d s).tap f j = if j = i then (s.tap f j).jump d (s.channel i).gain else s.tap f j :=
  compensate_tap i d s f j

theorem announceLive_channel (i : Input) (d : Int) (s : State) (j : Input) :
    (announceLive i d s).channel j = s.channel j := by
  unfold State.channel
  rw [announceLive_hac]

/-- An effective event that is due: what is in flight becomes live, and the taps jump by the change of gain (R84). -/
theorem effective_due {i : Input} {s : State} {w : InFlight} (flight : (s.channel i).inFlight = some w)
    (now : due w.effective s.ftu.frame = true) :
    effective i s = announceLive i (s.hac.gainOf w.value - (s.channel i).gain)
      { s with hac := s.hac.makeLive s.ftu.frame i w.value } := by
  unfold effective
  rw [flight]
  dsimp only
  rw [if_pos now, makeLive_channel, if_pos rfl]

/-- An effective event: nothing is due, or what is in flight becomes live (R84). -/
theorem effective_eq (i : Input) (s : State) :
    effective i s = s ∨ ∃ w, effective i s = announceLive i (s.hac.gainOf w - (s.channel i).gain)
      { s with hac := s.hac.makeLive s.ftu.frame i w } := by
  cases flight : (s.channel i).inFlight with
  | none =>
    left
    unfold effective
    rw [flight]
  | some w =>
    by_cases now : due w.effective s.ftu.frame = true
    · exact .inr ⟨w.value, effective_due flight now⟩
    · left
      unfold effective
      rw [flight]
      exact if_neg now

theorem effective_levels (i : Input) {s : State} (h : s.levels) : (effective i s).levels := by
  rcases effective_eq i s with same | ⟨w, event⟩
  · rw [same]
    exact h
  · rw [event]
    obtain ⟨fits, gain⟩ := (gainsSound_iff s).1 h.gains
    generalize live : ({ s with hac := s.hac.makeLive s.ftu.frame i w } : State) = t
    have channel (j : Input) := makeLive_channel s.ftu.frame i w s j
    rw [live] at channel
    have hac : t.hac.plt = s.hac.plt ∧ t.hac.padValue = s.hac.padValue := by
      rw [← live]
      exact ⟨rfl, rfl⟩
    have tap (f : Feed) (j : Input) : t.tap f j = s.tap f j := by
      rw [← live]
      rfl
    have scu : (announceLive i (s.hac.gainOf w - (s.channel i).gain) t).scu = s.scu := by
      rw [announceLive_scu, ← live]
    refine ⟨?_, fun f j => ?_, fun f es e => ?_, fun x waits => ?_⟩
    · rw [gainsSound_iff, announceLive_hac]
      have value (v : HeadAmp) : t.hac.gainOf v = s.hac.gainOf v := by unfold Hac.gainOf; rw [hac.1, hac.2]
      refine ⟨by unfold Hac.lawFits; rw [hac.1, hac.2]; exact fits, fun j => ?_⟩
      rw [announceLive_channel, channel, value]
      split
      · rfl
      · exact gain j
    · rw [announceLive_tap, announceLive_channel, tap, channel, channel, if_pos rfl]
      split
      · next e =>
        subst e
        exact Tap.jump_sound (h.taps f j) _ _
      · exact h.taps f j
    · rw [State.openScene, scu] at e
      exact h.opened f es e
    · rw [scu] at waits
      exact h.scheduled x waits

/-! ### The acceptance of a preamp law -/

theorem regain_channel (i : Input) (s : State) (j : Input) :
    (regain i s).channel j =
      if j = i then { s.channel i with gain := s.hac.gainOf (s.channel i).live } else s.channel j := by
  unfold regain
  rw [rebase_channel, onChannel_channel]

theorem regain_gainOf (i : Input) (s : State) (v : HeadAmp) : (regain i s).hac.gainOf v = s.hac.gainOf v := by
  unfold regain Hac.gainOf
  rw [rebase_hac, Hac_onChannel_plt, Hac_onChannel_padValue]

theorem regain_lawFits (i : Input) (s : State) : (regain i s).hac.lawFits ↔ s.hac.lawFits := by
  unfold regain Hac.lawFits
  rw [rebase_hac, Hac_onChannel_plt, Hac_onChannel_padValue]

/-- Step 2 of R89 for one input: every tap stays sound, at the new gain. -/
theorem regain_tapsSound (i : Input) {s : State} (fits : s.hac.lawFits) (h : s.tapsSound) : (regain i s).tapsSound := by
  intro f j
  have range := gainOf_range fits (s.channel i).live
  rw [regain_channel]
  unfold regain
  rw [rebase_tap, onChannel_channel, if_pos rfl]
  split
  · next e =>
    subst e
    refine (Tap.rebase_of_sound _ f j _ _ _ ?_ range.1 range.2).2
    rw [sub_sub_cancel]
    exact h f j
  · exact h f j

/-- The inputs regained one after another: the taps stay sound, and the gains of those inputs are right (R89). -/
theorem foldl_regain (l : List Input) {s : State} (fits : s.hac.lawFits) (taps : s.tapsSound) :
    let t := l.foldl (fun s i => regain i s) s
    t.hac.lawFits ∧ t.tapsSound ∧ t.scu = s.scu ∧
      ∀ j, (j ∈ l ∨ (s.channel j).gain = s.hac.gainOf (s.channel j).live) →
        (t.channel j).gain = t.hac.gainOf (t.channel j).live := by
  induction l generalizing s with
  | nil => exact ⟨fits, taps, rfl, fun j h => h.resolve_left List.not_mem_nil⟩
  | cons i l ih =>
    obtain ⟨fits', taps', scu, gain⟩ := ih (s := regain i s) ((regain_lawFits i s).2 fits) (regain_tapsSound i fits taps)
    refine ⟨fits', taps', scu.trans (regain_scu i s), fun j h => gain j ?_⟩
    rw [regain_gainOf, regain_channel]
    by_cases e : j = i
    · subst e
      exact .inr (by simp)
    · rw [if_neg e]
      exact h.imp_left fun listed => (List.mem_cons.1 listed).resolve_left e

theorem applyPlaw_levels {s : State} (staged : plawSound s.hac.staging) (h : s.levels) : (applyPlaw s).levels := by
  obtain ⟨⟨-, low, high⟩, -⟩ := (gainsSound_iff s).1 h.gains
  have regained := foldl_regain inputs
    (s := { s with hac := { s.hac with plt := s.hac.staging, marks := noMarks } }) ⟨staged, low, high⟩ h.taps
  unfold applyPlaw
  dsimp only at regained ⊢
  refine levels_of_still (notifyWhere_still _ _ _) ?_
  generalize inputs.foldl (fun s i => regain i s) _ = t at regained
  obtain ⟨fits, taps, scu, gain⟩ := regained
  refine ⟨(gainsSound_iff t).2 ⟨fits, fun i => gain i (.inl (List.mem_finRange i))⟩, taps, fun f es e => ?_, fun x waits => ?_⟩
  · rw [State.openScene, scu] at e
    exact h.opened f es e
  · rw [scu] at waits
    exact h.scheduled x waits

/-! ### Scenes -/

/-- A state with other scenes, all of which set offsets in range. -/
theorem levels_withScenes {s : State} (h : s.levels) (x : Scu)
    (opened : ∀ (f : Feed) es, x.opened[f] = some es → trimsFit es) (scheduled : ∀ y ∈ x.scheduled, trimsFit y.entries) :
    ({ s with scu := x } : State).levels := ⟨h.gains, h.taps, opened, scheduled⟩

theorem setOpenScene_levels {f : Feed} {es : List SceneEntry} {s : State} (h : s.levels) (fit : trimsFit es) :
    (setOpenScene f (some es) s).levels := by
  refine levels_withScenes h _ (fun g fs e => ?_) h.scheduled
  simp only [Fin.getElem_fin, put_entry] at e
  split at e
  · cases e
    exact fit
  · exact h.opened g fs e

theorem act_levels {f : Feed} {e : SceneEntry} {s : State} (fit : ∀ x, e.value = .trim x → inTrim x) (h : s.levels) :
    (e.act f s).levels := by
  unfold SceneEntry.act
  split
  · exact levels_of_still (change_still _ _ s) h
  · next offset trim => exact changeTap_levels h (Tap.trim_sound (h.taps _ _) (fit offset trim) _)
  · exact changeTap_levels h (Tap.setMute_sound (h.taps _ _) _)

theorem runEntries_levels (f : Feed) (es : List SceneEntry) (fit : trimsFit es) :
    ∀ (k : Nat) (s : State) (r : SceneResult), s.levels → (runEntries f k es s r).1.levels := by
  induction es with
  | nil => exact fun _ _ _ h => h
  | cons e es ih =>
    intro k s r h
    have rest := ih fun x listed => fit x (List.mem_cons_of_mem _ listed)
    unfold runEntries
    split
    · exact rest _ _ _ (act_levels (fit e List.mem_cons_self) h)
    · exact rest _ _ _ h

theorem executeScene_levels (f : Feed) {es : List SceneEntry} {s : State} (fit : trimsFit es) (h : s.levels) :
    (executeScene f es s).1.levels :=
  runEntries_levels f es fit 0 _ _ (levels_of_still (discardScene_still f s) h)

theorem sceneDue_levels {s : State} (h : s.levels) : (sceneDue s).levels := by
  unfold sceneDue
  split
  · exact h
  · next x rest waits =>
    split
    · have listed (y : Scheduled) (e : y ∈ x :: rest) : trimsFit y.entries := h.scheduled y (waits ▸ e)
      refine levels_of_still (notifyIf_still _ _ _ _) (runEntries_levels _ _ (listed x List.mem_cons_self) _ _ _ ?_)
      exact levels_withScenes h _ h.opened fun y e => listed y (List.mem_cons_of_mem _ e)
    · exact h

theorem scenesDue_levels {s : State} (h : s.levels) : (scenesDue s).levels :=
  sceneDue_levels (sceneDue_levels (sceneDue_levels (sceneDue_levels h)))

/-- A trim that SCN_ADD holds is limited (R112). -/
theorem parseScnAdd_trim {ps : List Byte} {p : SceneAddParams} (h : parseScnAdd ps = some p) {x : Int}
    (trim : p.value = .trim x) : inTrim x := by
  unfold parseScnAdd at h
  split at h
  · cases h
  · split at h
    · obtain ⟨v, parsed, rfl⟩ := Option.map_eq_some_iff.1 h
      unfold parseEntryValue at parsed
      split at parsed
      · obtain ⟨w, -, rfl⟩ := Option.map_eq_some_iff.1 parsed
        cases trim
      · cases parsed
        cases trim
        exact inTrim_clampTrim _
      · obtain ⟨w, -, rfl⟩ := Option.map_eq_some_iff.1 parsed
        cases trim
      · cases parsed
    · cases h

/-- An entry is placed in a scene (R112). -/
theorem placeEntry_trimsFit {scene : List SceneEntry} {e : SceneEntry} (h : trimsFit scene)
    (fit : ∀ x, e.value = .trim x → inTrim x) : trimsFit (placeEntry scene e) := by
  intro y listed
  unfold placeEntry at listed
  split at listed
  · obtain ⟨z, at_z, rfl⟩ := List.mem_map.1 listed
    split
    · exact fit
    · exact h z at_z
  · rcases List.mem_append.1 listed with listed | last
    · exact h y listed
    · rw [List.mem_singleton.1 last]
      exact fit

/-! ### Requests -/

theorem runRequest_levels {α : Type} {k : ReqKind} {parsed : Option α} {form : α → Bool} {f : Feed}
    {body : α → State → Reply} {s : State} (h : s.levels) (carries : ∀ p, parsed = some p → (body p s).1.levels) :
    (runRequest k parsed form f body s).1.levels := by
  unfold runRequest
  cases parsed with
  | none => exact h
  | some p =>
    dsimp only
    repeat' split
    · exact h
    · exact h
    · exact h
    · exact carries p rfl

theorem onInputs_levels {f : Feed} {set : ChannelSet} {check : State → Input → Option Result}
    {body : List Input → State → Reply} {s : State} (h : s.levels) (carries : ∀ is, (body is s).1.levels) :
    (onInputs f set check body s).1.levels := by
  unfold onInputs
  split
  · exact h
  · exact carries _

theorem accept_levels {r : Result} {fields : List Byte} {s : State} (h : s.levels) : (accept r fields s).1.levels := h

theorem executeKind_levels (f : Feed) (ps : List Byte) (k : ReqKind) {s : State} (h : s.levels) :
    (executeKind f ps k s).1.levels := by
  have quiet {t : State} (a : s.still t) : t.levels := levels_of_still a h
  cases k with
  | tapTrim =>
    exact runRequest_levels h fun p _ => onInputs_levels h fun is => accept_levels <|
      changeTaps_levels h fun a t _ sound => Tap.trim_sound sound (inTrim_clampTrim _) a
  | tapMode =>
    refine runRequest_levels h fun p _ => onInputs_levels h fun is => accept_levels <|
      changeTaps_levels h fun a t anchor sound => ?_
    split
    · exact Tap.toTrack_sound sound anchor
    · exact Tap.toFollow_sound sound
  | tapAnchor =>
    exact runRequest_levels h fun _ _ => onInputs_levels h fun is => accept_levels <|
      changeTaps_levels h fun a t anchor sound => Tap.reanchor_sound sound anchor
  | tapMute =>
    exact runRequest_levels h fun p _ => onInputs_levels h fun is => accept_levels <|
      changeTaps_levels h fun a t _ sound => Tap.setMute_sound sound p.2
  | plawApply =>
    refine runRequest_levels h fun _ _ => ?_
    split
    · exact h
    · split
      · exact h
      · next pass => exact accept_levels (applyPlaw_levels ((pltFault_none _).1 (by rw [pass]; rfl)) h)
  | scnOpen =>
    refine runRequest_levels h fun _ _ => ?_
    split
    · exact h
    · exact accept_levels (setOpenScene_levels h fun e listed => absurd listed List.not_mem_nil)
  | scnAdd =>
    refine runRequest_levels h fun p parsed => ?_
    split
    · exact h
    · next scene isOpen =>
      refine onInputs_levels h fun is => ?_
      dsimp only
      split
      · exact h
      · refine accept_levels (setOpenScene_levels h ?_)
        refine List.foldlRecOn _ _ (h.opened f scene isOpen) fun fs placed e listed => placeEntry_trimsFit placed ?_
        obtain ⟨i, -, rfl⟩ := List.mem_map.1 listed
        exact fun x trim => parseScnAdd_trim parsed trim
  | scnCommit =>
    refine runRequest_levels h fun mode _ => ?_
    split
    · exact h
    · exact h
    · next e es isOpen =>
      have fit := h.opened f _ isOpen
      split
      · exact executeScene_levels f fit h
      · repeat' split
        · exact executeScene_levels f fit h
        · exact h
        · exact h
        · refine levels_withScenes (levels_of_still (discardScene_still f s) h) _
            (levels_of_still (discardScene_still f s) h).opened fun y e => ?_
          rcases mem_insertScene.1 e with rfl | e
          · exact fit
          · exact h.scheduled y e
  | scnCancel =>
    refine runRequest_levels h fun mode _ => ?_
    split
    · split
      · exact h
      · exact accept_levels (quiet (discardScene_still f s))
    · split
      · exact accept_levels (levels_withScenes h _ h.opened fun y e => h.scheduled y (List.mem_of_mem_filter e))
      · exact h
  | haSet =>
    exact runRequest_levels h fun p _ => onInputs_levels h fun is => accept_levels <|
      quiet (foldl_still (fun s i => setHeadAmp (p.code.map codeOf) p.pad p.phantom i s)
        (fun t i => change_still i _ t) is s)
  | haNudge =>
    exact runRequest_levels h fun p _ => onInputs_levels h fun is => accept_levels <|
      quiet (foldl_still (fun s i => nudgeHeadAmp p.2 i s) (fun t i => change_still i _ t) is s)
  | ownRelease | ownAssign =>
    exact runRequest_levels h fun _ _ => onInputs_levels h fun is => accept_levels <|
      quiet (foldl_still _ (fun _ _ => setOwner_still _ _ _ _) is s)
  | ownClaim =>
    refine runRequest_levels h fun set _ => ?_
    dsimp only
    split
    · unfold refuseAt
      dsimp only
      split
      · exact quiet (foldl_still _ (fun _ _ => claimSeen_still _ _ _) _ s)
      · exact h
    · exact accept_levels (quiet (foldl_still _ (fun _ _ => setOwner_still _ _ _ _) _ s))
  | clockSet =>
    refine runRequest_levels h fun p _ => ?_
    dsimp only
    split
    · exact h
    · exact accept_levels (quiet (clockEvent_still _ s))
  | lawApply =>
    refine runRequest_levels h fun _ _ => ?_
    repeat' split
    · exact h
    · exact h
    · exact accept_levels (quiet (still_trans (t := { s with tgu := _ }) {} (notifyWhere_still _ _ _)))
  | devRestart =>
    refine runRequest_levels h fun _ _ => ?_
    split
    · exact h
    · exact accept_levels (quiet (restart_still s))
  | tapGet | haGet | clipGet | clipSet | clipAck =>
    exact runRequest_levels h fun _ _ => onInputs_levels h fun _ => accept_levels (quiet {})
  | devStatus | mapGet | feedGlide | scnList =>
    exact runRequest_levels h fun _ _ => accept_levels (quiet {})
  | mtrSubscribe =>
    refine runRequest_levels h fun p _ => ?_
    split
    · exact accept_levels (quiet {})
    · exact onInputs_levels h fun is => accept_levels (quiet {})
  | storeSave | mapWindows | lawStage | plawStage | lawGet | supervisorSet =>
    refine runRequest_levels h fun _ _ => ?_
    repeat' split
    all_goals exact quiet {}

theorem execute_levels (f : Feed) (m : Message) {s : State} (h : s.levels) : (execute f m s).1.levels := by
  unfold execute
  split
  · exact h
  · exact executeKind_levels f m.params _ h

/-! ### The round -/

theorem grant_levels (f : Feed) (m : Message) {s : State} (h : s.levels) : (grant f m s).levels :=
  levels_of_still (s := (execute f m s).1) {} (execute_levels f m h)

theorem consider_levels (f : Feed) {s : State} (h : s.levels) : (consider f s).levels := by
  unfold consider
  split
  · exact levels_of_still (s := s) {} h
  · split
    · exact grant_levels f _ (levels_of_still (s := s) {} h)
    · exact levels_of_still (s := s) {} h

theorem round_levels {s : State} (h : s.levels) : (round s).levels :=
  List.foldlRecOn _ _ h fun _ reached f _ => consider_levels f reached

theorem roundUpTo_levels (f : Feed) {s : State} (h : s.levels) : (roundUpTo f s).levels :=
  List.foldlRecOn _ _ h fun _ reached g _ => consider_levels g reached

/-! ### The frame -/

theorem effectiveEvents_levels {s : State} (h : s.levels) : (effectiveEvents s).levels := by
  unfold effectiveEvents
  exact List.foldlRecOn inputs _ h fun _ reached i _ => effective_levels i reached

theorem beforeStep_levels {s : State} (h : s.levels) : (beforeStep s).levels :=
  effectiveEvents_levels <| levels_of_still (missingConverters_still _) <| levels_of_still (lawInEffect_still _) <|
    levels_of_still (s := settleEnds s) {} <| levels_of_still (settleEnds_still s) h

theorem opened_still (s : State) : s.still s.opened := {}

theorem openFrame_levels {s : State} (h : s.levels) : (openFrame s).levels := by
  cases stepped : s.stepped with
  | true =>
    rw [openFrame_of_stepped stepped]
    exact h
  | false =>
    rw [openFrame_eq s stepped]
    have sampled := levels_of_still (takeSamples_still _) (stepTaps_levels (beforeStep_levels h))
    exact levels_of_still (opened_still _) sampled

theorem beforeRequests_levels {s : State} (h : s.levels) : (beforeRequests s).levels :=
  levels_of_still (periodEnds_still _) (openFrame_levels h)

theorem submit_levels (f : Feed) (m : Message) {s : State} (h : s.levels) : (submit f m s).levels := by
  unfold submit
  split
  · split
    · exact grant_levels f m (roundUpTo_levels f (beforeRequests_levels h))
    · exact levels_of_still (s := s) {} h
  · exact h

theorem busOpportunities_still (s : State) : s.still (busOpportunities s) :=
  foldl_still (fun t b => busOpportunity b t) (fun t b => busOpportunity_still b t) (List.finRange 6) s

theorem afterRound_levels {s : State} (h : s.levels) : (afterRound s).levels := by
  have late : s.still (lateArrivals s) := {}
  have timers : s.still (holdoverTimer (revertTimer (missingLinks (lateArrivals s)))) :=
    still_trans late (still_trans (missingLinks_still _) (still_trans (clockEvent_still _ _) (clockEvent_still _ _)))
  exact levels_of_still (busOpportunities_still _) (scenesDue_levels (levels_of_still timers h))

/-! ### Loads -/

/-- The settings a load takes: a preamp law and a pad value in their ranges, and offsets in range (R56, R92). -/
theorem settings_levels (j : Judgement) :
    plawSound j.settings.plt ∧ (-255 ≤ j.settings.padValue ∧ j.settings.padValue ≤ 0) ∧
      ∀ (f : Feed) (i : Input), inTrim j.settings.taps[f][i].offset := by
  cases j with
  | valid sections =>
    refine ⟨sectionPlt_sound sections, ?_, fun f i => ?_⟩
    · show -255 ≤ keepIn (-255) 0 (-160) _ ∧ keepIn (-255) 0 (-160) _ ≤ 0
      unfold keepIn
      split <;> omega
    · have tap : (Judgement.valid sections).settings.taps[f][i] = sectionTap sections f i :=
        (congrArg (·[i]) (tab_at _ f)).trans (tab_at _ i)
      rw [tap]
      exact inTrim_clampTrim _
  | invalid =>
    refine ⟨test_builtin_plaw_sound, ⟨by decide, by decide⟩, fun f i => ?_⟩
    have tap : Judgement.invalid.settings.taps[f][i] = { track := false, offset := 0, mute := false } :=
      (congrArg (·[i]) (tab_at _ f)).trans (tab_at _ i)
    rw [tap]
    exact inTrim_zero

/-- The gains after a load: those of the live values under the law and pad value loaded (R92, R93, R94). -/
theorem loadedHac_gain (kind : LoadKind) (x : Settings) (h : Hac) (i : Input) :
    (loadedHac kind x h).channels[i].gain = (loadedHac kind x h).gainOf (loadedHac kind x h).channels[i].live := by
  cases kind with
  | restart => simp [loadedHac, loadChannels, Hac.gainOf]
  | powerOn =>
    simp only [loadedHac, loadDesired, loadChannels, Fin.getElem_fin, mapAll_entry, Channel.releaseHold]
    split <;> rfl

theorem takeSettings_levels (kind : LoadKind) (j : Judgement) {s : State} (h : s.levels) : (takeSettings kind j s).levels := by
  obtain ⟨plt, pad, offsets⟩ := settings_levels j
  have gain := loadedHac_gain kind j.settings s.hac
  have fits : (loadedHac kind j.settings s.hac).lawFits := by
    cases kind <;> exact ⟨plt, pad.1, pad.2⟩
  refine ⟨(gainsSound_iff _).2 ⟨fits, gain⟩, fun f i => ?_, h.opened, h.scheduled⟩
  have anchor : (TapMode.track (loadAnchor kind (loadedHac kind j.settings s.hac)
      (loadedHac kind j.settings s.hac).channels[i])).anchored := by
    cases kind with
    | powerOn => exact gainOf_anchored fits _
    | restart =>
      rw [show loadAnchor .restart _ _ = _ from gain i]
      exact gainOf_anchored fits _
  have tap : (takeSettings kind j s).tap f i = _ := (congrArg (·[i]) (tab_at _ f)).trans (tab_at _ i)
  rw [tap]
  exact loadTap_sound (offsets f i) anchor _

theorem becomeReady_levels {s : State} (h : s.levels) : (becomeReady s).levels := by
  unfold becomeReady
  split
  · exact takeSettings_levels _ _ h
  · exact h

theorem tick_levels {s : State} (h : s.levels) : (tick s).levels := by
  have events : (frameEvents s).levels := afterRound_levels (round_levels (beforeRequests_levels h))
  unfold tick
  generalize frameEvents s = t at events
  exact becomeReady_levels (levels_of_still (s := t) {} events)

/-! ### Every command -/

theorem reset_tapsSound : State.reset.tapsSound := by
  intro f i
  have tap : State.reset.tap f i = Tap.reset := (congrArg (·[i]) (tab_at _ f)).trans (tab_at _ i)
  rw [tap]
  exact ⟨inTrim_zero, inTrim_zero, inTrim_zero, rfl, rfl⟩

theorem powerOn_tapsSound (s : State) : (powerOn s).tapsSound := reset_tapsSound

theorem next_tapsSound {s t : State} (h : s.tapsSound)
    (e : (Host.Outcome.next s : Host.Outcome State Fault Refusal) = .next t) : t.tapsSound := by
  cases e
  exact h

theorem exec_tapsSound (c : Instr) {s t : State} (h : s.levels) (e : exec c s = .next t) : t.tapsSound := by
  have quiet {u : State} (a : s.still u) : u.tapsSound := (levels_of_still a h).taps
  have opened := openFrame_levels h
  cases req : c.request with
  | some r =>
    obtain ⟨f, tag, kind, ps⟩ := r
    rw [exec_request req] at e
    exact next_tapsSound (submit_levels f _ h).taps e
  | none =>
    cases c with
    | reset => exact next_tapsSound (powerOn_tapsSound s) e
    | frameTick => exact next_tapsSound (tick_levels h).taps e
    | converterFrame g x => exact next_tapsSound (quiet (converterOutcome_still g _ s)) e
    | upstreamFrame p x late => exact next_tapsSound (quiet (portOutcome_still _ _ late (judgeUpstream x) s)) e
    | wordclockPresent =>
      refine next_tapsSound (quiet ?_) e
      unfold wordclockPresent
      split
      · exact still_refl s
      · exact still_trans (t := { s with ftu := _ }) {} (clockEvent_still _ _)
    | wordclockAbsent =>
      refine next_tapsSound (quiet ?_) e
      unfold wordclockAbsent
      split
      · exact still_trans (t := { s with ftu := _ }) {} (clockEvent_still _ _)
      · exact still_refl s
    | revertTimerExpiry => exact next_tapsSound (quiet (clockEvent_still _ s)) e
    | holdoverTimerExpiry => exact next_tapsSound (quiet (clockEvent_still _ s)) e
    | busSendOpportunity b => exact next_tapsSound (levels_of_still (busOpportunity_still b _) opened).taps e
    | effectiveEvent i => exact next_tapsSound (effective_levels i h).taps e
    | settleMuteEnd i => exact next_tapsSound (quiet (settleEnd_still i s)) e
    | sceneExecution => exact next_tapsSound (sceneDue_levels opened).taps e
    | meterPeriodEnd f => exact next_tapsSound (levels_of_still (periodEnd_still f _) opened).taps e
    | pendingMapInForce f => exact next_tapsSound (quiet {}) e
    | pendingLawInEffect => exact next_tapsSound (quiet (lawInEffect_still s)) e
    | loadComplete x => exact next_tapsSound (quiet (completeLoad_still x s)) e
    | saveComplete x => exact next_tapsSound (quiet (completeSave_still x s)) e
    | _ => cases req

/-- Settles O56: gains, taps and the offsets that scenes hold are kept together. -/
theorem tapsStaySound : Obligations.TapsStaySound := by
  intro s t gains scenes taps e
  have h := levels_of_sound gains scenes taps
  unfold step at e
  split at e
  · cases e
    exact taps
  · next c rest _ => exact exec_tapsSound c (s := { s with pending := rest }) (levels_of_still (s := s) {} h) e

end Sys2Proof.Machine
end

section
/-! PROOFS. Compensation: a preamp change and the total gain of an unclamped TRACK tap (R41). -/

namespace Sys2Proof.Machine

/-- The jump of an unclamped TRACK tap that stays in range: current and target move against the gain (R41). -/
theorem Tap.jump_unclamped {a d : Int} {t : Tap} (h : t.sound a) (tracks : t.tracks = true) (free : t.limit = false)
    (current : inTrim (t.current - d)) (target : inTrim (t.target - d)) :
    t.jump d (a + d) = { t with current := t.current - d, target := t.target - d } := by
  obtain ⟨mode, offset, target', current', mute, limit⟩ := t
  cases mode with
  | follow => cases tracks
  | track n =>
    obtain ⟨-, -, -, -, -, isTarget, isLimit⟩ := h
    dsimp only at free isTarget isLimit current target
    have unclamped : inTrim (offset + n - a) := by
      by_contra beyond
      exact Bool.false_ne_true (free.symm.trans (isLimit.2 beyond))
    have moved : offset + n - (a + d) = target' - d := by
      unfold inTrim at unclamped
      split at isTarget
      · omega
      · split at isTarget <;> omega
    simp only [Tap.jump, Tap.retarget, moved, clampTrim_of_inTrim _ current, clampTrim_of_inTrim _ target, free, ne_eq,
      not_true, decide_false]

/-- Settles O20: at the event the taps of the input jump by the change of its gain, and no other tap moves. -/
theorem compensationHoldsTotalGain : Obligations.CompensationHoldsTotalGain := by
  intro s t f i w sound flight now e rise
  have event : t = announceLive i (s.hac.gainOf w.value - (s.channel i).gain)
      { s with hac := s.hac.makeLive s.ftu.frame i w.value } := by
    rw [← effective_due flight ((due_iff _ _).2 now)]
    cases e
    rfl
  have gain : (t.channel i).gain = s.hac.gainOf w.value := by
    rw [event, announceLive_channel, makeLive_channel, if_pos rfl]
  have tap (j : Input) : t.tap f j = if j = i then (s.tap f i).jump rise ((s.channel i).gain + rise) else s.tap f j := by
    have total : (s.channel i).gain + rise = s.hac.gainOf w.value := by omega
    rw [event, announceLive_tap, makeLive_channel, if_pos rfl, total, show rise = _ from congrArg (· - _) gain]
    split
    · next e =>
      subst e
      rfl
    · rfl
  refine ⟨fun tracks free current target => ?_, fun follows => ?_, fun k other => ?_⟩
  · rw [tap, if_pos rfl, Tap.jump_unclamped (sound f i) tracks free current target]
    exact ⟨by dsimp only; omega, by dsimp only; omega, free⟩
  · rw [tap, if_pos rfl]
    cases mode : (s.tap f i).mode with
    | follow => rw [Tap.jump, mode]
    | track n => rw [Tap.tracks, mode] at follows; cases follows
  · rw [tap, if_neg other]

end Sys2Proof.Machine
end

section
/-! PROOFS. Changes of several taps of a feed at once, with their LIMIT notices in order (R36, R37). -/

namespace Sys2Proof.Machine

/-! ### Notices in order -/

theorem toFeed_append (f : Feed) (a b : List Notice) : (fun g => toFeed f a g ++ toFeed f b g) = toFeed f (a ++ b) := by
  funext g
  unfold toFeed
  split <;> rfl

theorem toFeed_nil (f : Feed) : toFeed f [] = fun _ => [] := by
  funext g
  exact ite_self _

/-- Notices before a change of the taps and the channels are notices after it: they touch lanes and feed records alone. -/
theorem told_withTgu (nts : Feed → List Notice) (s : State) (x : Tgu) :
    ({ told nts s with tgu := x } : State) = told nts { s with tgu := x } := rfl

theorem limitNotices_cons (f : Feed) (i : Input) (is : List Input) (new : Input → Tap) (u : State) :
    limitNotices f (i :: is) new u = limitNotices f [i] new u ++ limitNotices f is new u := by
  unfold limitNotices
  rw [← List.map_append, ← List.filter_append]
  rfl

/-- The LIMIT notices rest on the new taps, on the old flags and on the gains of the inputs named. -/
theorem limitNotices_congr {f : Feed} {is : List Input} {new new' : Input → Tap} {u v : State}
    (taps : ∀ i ∈ is, new i = new' i ∧ (u.tap f i).limit = (v.tap f i).limit)
    (gains : ∀ i, (u.channel i).gain = (v.channel i).gain) (frame : u.ftu.frame = v.ftu.frame) :
    limitNotices f is new u = limitNotices f is new' v := by
  unfold limitNotices
  rw [List.filter_congr fun i listed => by rw [(taps i listed).1, (taps i listed).2]]
  refine List.map_congr_left fun i listed => ?_
  rw [(taps i (List.mem_of_mem_filter listed)).1, gains, frame]

/-! ### Taps replaced -/

theorem tapsWith_nil (f : Feed) (new : Input → Tap) (u : State) : tapsWith f [] new u = u.tgu.taps := by
  refine entries_ext fun g => entries_ext fun i => ?_
  simp [tapsWith, State.tap]

/-- The taps after one of a feed's taps and then others of it are replaced. -/
theorem tapsWith_cons (f : Feed) (i : Input) (is : List Input) (new : Input → Tap) (u : State) :
    tapsWith f is new { u with tgu := u.tgu.onTap f i fun _ => new i } = tapsWith f (i :: is) new u := by
  unfold tapsWith
  refine congrArg tab (funext fun g => congrArg tab (funext fun j => ?_))
  rw [onTap_tap]
  by_cases feed : g = f
  · by_cases head : j = i
    · subst head
      simp [feed]
    · simp [feed, head]
  · simp [feed]

/-- Changes of distinct taps of a feed one after another are one replacement of them, with a LIMIT notice for each flag
that changes, in order (R37). -/
theorem changeTaps_told {f : Feed} {g : Int → Tap → Tap} {new : Input → Tap} {is : List Input} (distinct : is.Nodup)
    {u : State} (each : ∀ i ∈ is, g (u.channel i).gain (u.tap f i) = new i) :
    changeTaps f g is u =
      told (toFeed f (limitNotices f is new u)) { u with tgu := { u.tgu with taps := tapsWith f is new u } } := by
  induction is generalizing u with
  | nil =>
    rw [tapsWith_nil]
    show u = told (toFeed f []) u
    rw [toFeed_nil, told_nothing]
  | cons i is ih =>
    obtain ⟨fresh, distinct⟩ := List.nodup_cons.1 distinct
    have head := each i List.mem_cons_self
    have other (j : Input) (listed : j ∈ is) : ¬ j = i := fun e => fresh (e ▸ listed)
    have first : changeTap f i (g (u.channel i).gain) u =
        told (toFeed f (limitNotices f [i] new u)) { u with tgu := u.tgu.onTap f i fun _ => new i } := by
      rw [changeTap_told, head]
      refine congrArg (fun l => told (toFeed f l) _) (limitNotices_congr (fun j listed => ?_) (fun _ => rfl) rfl)
      rw [List.mem_singleton.1 listed]
      exact ⟨rfl, rfl⟩
    have rest : changeTaps f g (i :: is) u = changeTaps f g is (changeTap f i (g (u.channel i).gain) u) := rfl
    rw [rest, first, ih distinct fun j listed => ?kept, told_withTgu, told_told, toFeed_append, limitNotices_cons f i is]
    case kept =>
      rw [told_tap, onTap_tap, if_neg fun e => other j listed e.2]
      exact each j (List.mem_cons_of_mem _ listed)
    have later : limitNotices f is new
        (told (toFeed f (limitNotices f [i] new u)) { u with tgu := u.tgu.onTap f i fun _ => new i }) =
          limitNotices f is new u := by
      refine limitNotices_congr (fun j listed => ⟨rfl, ?_⟩) (fun _ => rfl) rfl
      rw [told_tap, onTap_tap, if_neg fun e => other j listed e.2]
    rw [later, ← tapsWith_cons]
    rfl

/-! ### Requests on the inputs of a set -/

/-- A request on the inputs of a set that its feed may send, all of which pass, is carried out on them (R33, R146). -/
theorem runRequest_onInputs {α : Type} {k : ReqKind} {parsed : Option α} {setOf : α → ChannelSet} {p : α} {f : Feed}
    {check : State → Input → Option Result} {body : α → List Input → State → Reply} {u : State} {is : List Input}
    (ready : u.sil.load = .ready) (free : privileged k = false) (parses : parsed = some p)
    (supervises : (setOf p).inputForm = true → f = u.cle.supervisor)
    (resolves : u.resolve f (setOf p) (check u) = .ok is) :
    runRequest k parsed (fun p => (setOf p).inputForm) f (fun p => onInputs f (setOf p) check (body p)) u =
      body p is u := by
  rw [parses, runRequest_passes k p (fun p => (setOf p).inputForm) _ _ _ (.inl (loading_of_ready ready))
    (fun h => absurd (free.symm.trans h) (by decide)) supervises]
  exact onInputs_ok _ _ _ _ _ _ resolves

/-- Inputs that translate and all pass a further check are those of the set under that check (R33). -/
theorem resolveFrom_recheck {u : State} {f : Feed} {form : Bool} {check : Input → Option Result} (ms : List Nat) :
    ∀ (pos : Nat) (found is : List Input), u.resolveFrom f form noCheck pos found ms = .ok is →
      (∀ i ∈ is, check i = none) → u.resolveFrom f form check pos found ms = .ok is := by
  induction ms with
  | nil => exact fun _ _ _ h _ => h
  | cons m ms ih =>
    intro pos found is h pass
    simp only [State.resolveFrom, noCheck] at h ⊢
    cases translated : u.translate f form m with
    | error e => simp [translated] at h
    | ok i =>
      simp only [translated] at h
      dsimp only
      split at h
      · next old => rw [if_pos old]; exact ih _ _ _ h pass
      · next fresh =>
        obtain ⟨-, joined⟩ := resolveFrom_ok _ _ _ _ h fun _ _ => rfl
        have passes : check i = none := pass i (by simp [joined])
        rw [if_neg fresh, passes]
        exact ih _ _ _ h pass

theorem resolve_recheck {u : State} {f : Feed} {set : ChannelSet} {check : Input → Option Result} {is : List Input}
    (h : u.resolve f set noCheck = .ok is) (pass : ∀ i ∈ is, check i = none) : u.resolve f set check = .ok is :=
  resolveFrom_recheck _ _ _ _ h pass

end Sys2Proof.Machine
end

section
/-! PROOFS. TAP_TRIM, TAP_MODE, TAP_ANCHOR, TAP_MUTE and FEED_GLIDE (R45 to R53). -/

namespace Sys2Proof.Machine

/-! ### Parameters -/

theorem parseBit_bit (on : Bool) : parseBit (if on then 1 else 0) = some on := by cases on <;> rfl

/-- A byte of at most 1 as a bit. -/
theorem parseBit_of_le {b : Byte} (h : b.toNat ≤ 1) : parseBit b = some (decide (b = 1)) := by
  have values : b = 0 ∨ b = 1 := by bv_omega
  rcases values with rfl | rfl <;> rfl

theorem parseSetBit_of_set {ps : List Byte} {set : ChannelSet} {on : Bool}
    (h : parseSet ps = some (set, [if on then 1 else 0])) : parseSetBit ps = some (set, on) := by
  rw [parseSetBit, h]
  dsimp only
  rw [parseBit_bit]
  rfl

theorem parseTrim_of_set {ps : List Byte} {set : ChannelSet} {kind hi lo : Byte}
    (h : parseSet ps = some (set, [kind, hi, lo])) (bit : kind.toNat ≤ 1) :
    parseTrim ps = some { set := set, relative := decide (kind = 1), value := signed16 hi lo } := by
  rw [parseTrim, h]
  dsimp only
  rw [parseBit_of_le bit]
  rfl

theorem glideOf_eq (g : Byte) : glideOf g = Fin.ofNat 16 (if 15 < g.toNat then 15 else g.toNat) := by
  unfold glideOf
  congr 1
  split <;> omega

theorem byte_glideOf (g : Byte) : byte (glideOf g).val = if 15 < g.toNat then 15 else g := by
  apply BitVec.eq_of_toNat_eq
  rw [glideOf_val, toNat_byte (by omega)]
  split
  · exact Nat.min_eq_right (by omega)
  · exact Nat.min_eq_left (by omega)

/-! ### What a request makes of one tap -/

/-- A new offset: the target and flag of R36 (R45). -/
theorem Tap.trim_eq (t : Tap) (o a : Int) :
    t.trim o a = match t.mode with
      | .follow => { t with offset := o, target := o, limit := false }
      | .track n => { t with offset := o, target := clampTrim (o + n - a)
                             limit := decide (o + n - a < -320 ∨ 192 < o + n - a) } := by
  unfold Tap.trim Tap.retarget
  cases t.mode with
  | follow => rfl
  | track n => simp only [clampTrim_limit]

/-- A TRACK tap set to FOLLOW takes its target as offset (R48). -/
theorem Tap.toFollow_eq (a : Int) (t : Tap) : t.toFollow a = match t.mode with
    | .follow => t
    | .track _ => { t with mode := .follow, offset := t.target, limit := false } := by
  unfold Tap.toFollow
  cases mode : t.mode <;> simp [Tap.retarget]

section
variable {a : Int} {t : Tap} (h : t.sound a)
include h

/-- A FOLLOW tap anchored at the live gain keeps its target, which is its offset (R47). -/
theorem Tap.toTrack_of_sound : t.toTrack a = match t.mode with
    | .follow => { t with mode := .track a }
    | .track _ => t := by
  obtain ⟨mode, offset, target, current, mute, limit⟩ := t
  cases mode with
  | track n => rfl
  | follow =>
    obtain ⟨fits, -, -, isTarget, isLimit⟩ := h
    dsimp only at fits isTarget isLimit
    subst isTarget isLimit
    simp only [Tap.toTrack, Tap.retarget, Int.add_sub_cancel, clampTrim_of_inTrim _ fits, ne_eq, not_true, decide_false]

/-- A TRACK tap anchored again at the live gain takes its target as offset (R49). -/
theorem Tap.reanchor_of_sound (tracks : t.tracks = true) :
    t.reanchor a = { t with mode := .track a, offset := t.target, limit := false } := by
  obtain ⟨mode, offset, target, current, mute, limit⟩ := t
  cases mode with
  | follow => cases tracks
  | track n =>
    obtain ⟨-, fits, -, -⟩ := h
    simp only [Tap.reanchor, Tap.retarget, Int.add_sub_cancel, clampTrim_of_inTrim _ fits, ne_eq, not_true, decide_false]

end

/-! ### The execution of the requests -/

theorem feedGlide_executes {f : Feed} {u : State} (ready : u.sil.load = .ready) (g : Byte) :
    executeKind f [g] .feedGlide u =
      ({ u with
        tgu :=
          { u.tgu with
            glide := tab fun k =>
              if k = f then Fin.ofNat 16 (if 15 < g.toNat then 15 else g.toNat) else u.tgu.glide[k] } },
        [if 15 < g.toNat then 1 else 0, if 15 < g.toNat then 15 else g]) := by
  have parses : parseByte [g] = some g := rfl
  show reqFeedGlide f [g] u = _
  rw [reqFeedGlide, runRequest_ready ready rfl parses, accept, okOrClamped_byte, byte_glideOf, put_eq_tab,
    glideOf_eq]
  simp only [decide_eq_true_iff]

section
variable {f : Feed} {u : State} {ps : List Byte} {set : ChannelSet} {is : List Input} (ready : u.sil.load = .ready)
  (supervises : set.inputForm = true → f = u.cle.supervisor) (resolves : u.resolve f set noCheck = .ok is)
include ready supervises resolves

/-- TAP_TRIM on the inputs of its set (R45). -/
theorem tapTrim_executes {p : TrimParams} (parses : parseTrim ps = some p) (named : p.set = set) :
    executeKind f ps .tapTrim u =
      (changeTaps f (fun a t => t.trim (clampTrim (p.wanted t)) a) is u, [(okOrClamped (p.clamps f is u)).byte]) := by
  subst named
  exact runRequest_onInputs (setOf := TrimParams.set) ready rfl parses supervises resolves

/-- TAP_MODE on the inputs of its set (R47, R48). -/
theorem tapMode_executes {track : Bool} (parses : parseSet ps = some (set, [if track then 1 else 0])) :
    executeKind f ps .tapMode u = (changeTaps f (if track then Tap.toTrack else Tap.toFollow) is u, [0]) :=
  runRequest_onInputs (setOf := fun p : ChannelSet × Bool => p.1) ready rfl (parseSetBit_of_set parses) supervises resolves

/-- TAP_MUTE on the inputs of its set (R51). -/
theorem tapMute_executes {on : Bool} (parses : parseSet ps = some (set, [if on then 1 else 0])) :
    executeKind f ps .tapMute u = (changeTaps f (fun _ => Tap.setMute on) is u, [0]) :=
  runRequest_onInputs (setOf := fun p : ChannelSet × Bool => p.1) ready rfl (parseSetBit_of_set parses) supervises resolves

/-- TAP_ANCHOR on the inputs of its set, all in TRACK (R49). -/
theorem tapAnchor_executes (parses : parseSet ps = some (set, [])) (track : ∀ i ∈ is, (u.tap f i).tracks = true) :
    executeKind f ps .tapAnchor u = (changeTaps f Tap.reanchor is u, [0]) := by
  have alone : parseSetAlone ps = some set := by rw [parseSetAlone, parses]
  exact runRequest_onInputs (setOf := fun set : ChannelSet => set) ready rfl alone supervises
    (resolve_recheck resolves fun i listed => mustHold_eq_none.2 (track i listed))

end

/-! ### The statements -/

/-- The result of a trim is CLAMPED when a limit changed an offset (R45). -/
theorem clamps_byte (p : TrimParams) (f : Feed) (is : List Input) (u : State) :
    (okOrClamped (p.clamps f is u)).byte =
      if ∃ i ∈ is, p.wanted (u.tap f i) < -320 ∨ 192 < p.wanted (u.tap f i) then 1 else 0 := by
  rw [okOrClamped_byte, TrimParams.clamps]
  simp only [clampTrim_limit, List.any_eq_true, decide_eq_true_iff]

/-- Settles O40. -/
theorem tapTrimMuteAndGlide : Obligations.TapTrimMuteAndGlide := by
  intro s f tag serves u ready
  refine ⟨fun ps set is supervises resolves => ?_, fun g => exec_answers (k := .feedGlide) rfl serves
    (feedGlide_executes ready g)⟩
  have distinct := (resolve_sound _ _ _ _ _ resolves).1
  refine ⟨?trim, fun on parses => ?mute⟩
  case trim =>
    intro kind hi lo parses bit wanted limited new
    have executes := tapTrim_executes ready supervises resolves (parseTrim_of_set parses bit) rfl
    rw [exec_answers (k := .tapTrim) rfl serves executes]
    clear_value u
    have asked (i : Input) :
        TrimParams.wanted { set := set, relative := decide (kind = 1), value := signed16 hi lo } (u.tap f i) = wanted i := by
      simp only [TrimParams.wanted, wanted, signed16, decide_eq_true_iff]
      split <;> omega
    rw [clamps_byte, changeTaps_told (new := new) distinct fun i _ => ?each]
    case each =>
      rw [asked, Tap.trim_eq]
      rfl
    simp only [asked]
    rfl
  case mute =>
    have executes := tapMute_executes ready supervises resolves parses
    rw [exec_answers (k := .tapMute) rfl serves executes]
    clear_value u
    have muted := changeTaps_told (f := f) (g := fun _ => Tap.setMute on)
      (new := fun i => { u.tap f i with mute := on }) distinct (u := u) fun _ _ => rfl
    have none : limitNotices f is (fun i => { u.tap f i with mute := on }) u = [] := by simp [limitNotices]
    rw [none, toFeed_nil, told_nothing] at muted
    rw [muted]
    rfl

/-- Settles O41: in a sound state the retargeting that each request brings leaves every target where it was. -/
theorem tapModeAndAnchorKeepLevels : Obligations.TapModeAndAnchorKeepLevels := by
  intro s f tag ps set is serves u ready supervises sound resolves result
  have distinct := (resolve_sound _ _ _ _ _ resolves).1
  refine ⟨fun parses => ?track, fun parses => ?follow, fun parses tracks => ?anchor⟩
  case track =>
    have executes := tapMode_executes (track := true) ready supervises resolves parses
    rw [exec_answers (k := .tapMode) rfl serves executes, if_pos rfl]
    clear_value u
    rw [changeTaps_told distinct fun i _ => Tap.toTrack_of_sound (sound f i)]
    rfl
  case follow =>
    have executes := tapMode_executes (track := false) ready supervises resolves parses
    rw [exec_answers (k := .tapMode) rfl serves executes, if_neg Bool.false_ne_true]
    clear_value u
    rw [changeTaps_told distinct fun i _ => Tap.toFollow_eq (u.channel i).gain (u.tap f i)]
    rfl
  case anchor =>
    have executes := tapAnchor_executes ready supervises resolves parses tracks
    rw [exec_answers (k := .tapAnchor) rfl serves executes]
    clear_value u
    rw [changeTaps_told distinct fun i listed => Tap.reanchor_of_sound (sound f i) (tracks i listed)]
    rfl

end Sys2Proof.Machine
end

section
/-! PROOFS. The frame step and the samples of a frame (R38, R40, R58, R154, R156, R157). -/

namespace Sys2Proof.Machine

/-! ### The glide -/

/-- A glide step leaves the distance to the target less the rate, and none at rate 0 (R40). -/
theorem glideStep_distance (g : Nat) (current target : Int) :
    (target - glideStep g current target).natAbs = if g = 0 then 0 else (target - current).natAbs - g := by
  unfold glideStep
  split
  · omega
  · split <;> omega

/-- A glide step goes straight to the target (R40). -/
theorem glideStep_straight (g : Nat) (current target : Int) :
    (glideStep g current target - current).natAbs + (target - glideStep g current target).natAbs =
      (target - current).natAbs := by
  have between := glideStep_between g current target
  omega

/-! ### The output samples -/

/-- A channel is under settle mute during the start-up hold and up to its end frame (R81). -/
theorem settleMuted_iff (c : Channel) (n : FrameNo) :
    c.settleMuted n = true ↔ c.settle = .held ∨ ∃ x, c.settle = .ends x ∧ 0 ≤ lead x n := by
  unfold Channel.settleMuted
  cases c.settle with
  | absent => simp
  | held => simp
  | ends x => simp [notAfter_iff]

/-- The output sample of a tap (R58). -/
theorem tapOutput_eq (w : State) (t : Tap) (i : Input) :
    w.tapOutput t i =
      if t.mute = true ∨ w.cvp.ports[groupOf i].state = .fault ∨ (w.channel i).settle = .held ∨
          (∃ x, (w.channel i).settle = .ends x ∧ 0 ≤ lead x w.ftu.frame) then 0
      else BitVec.ofInt 24 (outputValue (w.tgu.law w.ftu.frame) w.cvp.samples[i].toInt t.current) := by
  have silent : (t.mute || (w.channel i).settleMuted w.ftu.frame ||
      decide (w.cvp.ports[groupOf i].state = .fault)) = true ↔
        (t.mute = true ∨ w.cvp.ports[groupOf i].state = .fault ∨ (w.channel i).settle = .held ∨
          (∃ x, (w.channel i).settle = .ends x ∧ 0 ≤ lead x w.ftu.frame)) := by
    rw [Bool.or_eq_true, Bool.or_eq_true, decide_eq_true_iff, settleMuted_iff, or_assoc]
    exact or_congr_right or_comm
  unfold State.tapOutput
  by_cases quiet : (t.mute || (w.channel i).settleMuted w.ftu.frame ||
      decide (w.cvp.ports[groupOf i].state = .fault)) = true
  · rw [if_pos quiet, if_pos (silent.1 quiet)]
  · have loud := mt silent.2 quiet
    rw [if_neg quiet, if_neg loud]
    have running : w.cvp.ports[groupOf i].state = .running := by
      cases port : w.cvp.ports[groupOf i].state with
      | running => rfl
      | fault => exact absurd (.inr (.inl port)) loud
    rw [outputSample, State.sample, if_pos running]

/-! ### Meters and clip records -/

/-- The magnitude that an input's sample has for meters and clip records: 0 in FAULT (R6, R154). -/
theorem magnitude_sample (w : State) (i : Input) :
    magnitude (w.sample i) =
      if w.cvp.ports[groupOf i].state = .fault then 0
      else if 8388607 < w.cvp.samples[i].toInt.natAbs then 8388607
      else w.cvp.samples[i].toInt.natAbs := by
  unfold State.sample magnitude
  cases w.cvp.ports[groupOf i].state with
  | fault => rfl
  | running =>
    rw [if_pos rfl, if_neg (by decide)]
    split <;> omega

/-- The test of a sample by a clip record (R156). -/
theorem Clip.test_eq (frame : FrameNo) (live : HeadAmp) (mag : Nat) (c : Clip) :
    c.test frame live mag =
      if c.mode ≠ .off ∧ c.state = .armed ∧ c.threshold ≤ mag then
        { c with
          state := match c.mode with
            | .oneShot => .captured
            | _ => .waitRearm
          frame := frame, code := live.code, pad := live.pad, magnitude := mag
          count := if c.count < 255 then c.count + 1 else 255 }
      else if c.mode ≠ .off ∧ c.state = .waitRearm ∧ mag < c.rearm then { c with state := .armed }
      else c := by
  have count : min (c.count + 1) 255 = if c.count < 255 then c.count + 1 else 255 := by
    split <;> omega
  unfold Clip.test Clip.captures
  simp only [decide_eq_true_iff]
  refine if_congr Iff.rfl ?_ rfl
  unfold Clip.capture
  rw [count]
  cases c.mode <;> rfl

theorem Subscription.take_eq (mag : Input → Nat) (u : Subscription) :
    u.take mag = { u with peaks := u.peaks.map fun (i, m) => (i, if m < mag i then mag i else m) } := by
  unfold Subscription.take
  refine congrArg (fun p => ({ u with peaks := p } : Subscription)) (List.map_congr_left fun p _ => ?_)
  dsimp only
  split
  · rw [Nat.max_eq_right (by omega)]
  · rw [Nat.max_eq_left (by omega)]

/-- The CLIP notice that reports a captured record (R157). -/
def Clip.notice (i : Input) (c : Clip) : Notice := .clip i c.frame c.code c.pad c.magnitude c.count

/-- The CLIP notices of several inputs, in order, each for the feeds that carry the input (R157). -/
theorem foldl_clipNotice (captured : Input → Bool) (l : List Input) (u : State) :
    l.foldl (fun t i => clipNotice captured i t) u =
      told (fun g => (l.filter fun i => captured i && u.carries g i).map fun i => u.lmu.clips[i].notice i) u := by
  induction l generalizing u with
  | nil => exact (told_nothing u).symm
  | cons i l ih =>
    rw [List.foldl_cons, clipNotice, notifyWhere_told, ih]
    refine (told_told _ _ u).trans (congrArg (fun nts => told nts u) (funext fun g => ?_))
    have carries (k : Input) (nts : Feed → List Notice) : (told nts u).carries g k = u.carries g k := rfl
    simp only [carries, List.filter_cons, toFeeds]
    split <;> rfl

/-- The samples of a frame: every accumulator and every clip record, with a CLIP notice for each capture (R154, R156,
R157). -/
theorem takeSamples_told (v : State) :
    takeSamples v =
      told (fun g => (inputs.filter fun i => v.lmu.clips[i].captures (magnitude (v.sample i)) && v.carries g i).map fun i =>
          (v.testedClip i).notice i)
        { v with lmu := { subscriptions := v.sampledSubscriptions, clips := tab v.testedClip } } := by
  unfold takeSamples
  rw [foldl_clipNotice]
  simp only [Fin.getElem_fin, tab_entry]
  rfl

/-! ### The frame step -/

theorem stepTaps_out (w : State) (f : Feed) (i : Input) :
    (stepTaps w).tgu.out[f][i] = w.tapOutput ((w.tap f i).glide w.tgu.glide[f]) i := by simp [stepTaps, State.tap]

/-- The frame step and the samples, on a frame whose earlier events are taken. -/
theorem frameStep_told (w : State) :
    (takeSamples (stepTaps w)).opened =
      told (fun g => (inputs.filter fun i => w.lmu.clips[i].captures (magnitude (w.sample i)) && w.carries g i).map fun i =>
          (w.testedClip i).notice i)
        { w with
          tgu := { w.tgu with taps := (stepTaps w).tgu.taps, out := (stepTaps w).tgu.out }
          lmu := { subscriptions := w.sampledSubscriptions, clips := tab w.testedClip }
          stepped := true } := by
  rw [takeSamples_told]
  rfl

/-- Settles O6. -/
theorem frameStepGlidesTaps : Obligations.FrameStepGlidesTaps := by
  intro s closed w t
  have once : openFrame t = t := openFrame_of_stepped (openFrame_stepped s)
  have frame : w.ftu = s.ftu := (beforeStep_quiet s).1
  have opened : t = (takeSamples (stepTaps w)).opened := openFrame_eq s closed
  rw [frameStep_told] at opened
  clear_value t w
  refine ⟨fun f i => ?tap, once, ?rest⟩
  case tap =>
    have tap : t.tap f i = (w.tap f i).glide w.tgu.glide[f] := by
      rw [← stepTaps_tap, opened]
      rfl
    have out : t.tgu.out[f][i] = w.tapOutput ((w.tap f i).glide w.tgu.glide[f]) i := by
      rw [← stepTaps_out, opened]
      rfl
    intro old new g
    have current : new.current = glideStep g old.current old.target := congrArg Tap.current tap
    refine ⟨?_, ?_, ?_, ?_⟩
    · rw [current]
      exact tap
    · rw [current]
      exact glideStep_distance _ _ _
    · rw [current]
      exact glideStep_straight _ _ _
    · rw [out, tapOutput_eq, current]
      rfl
  case rest =>
    intro level captures clip
    have magnitudes (i : Input) : magnitude (w.sample i) = level i := magnitude_sample w i
    have capture (i : Input) : w.lmu.clips[i].captures (magnitude (w.sample i)) = decide (captures i) := by
      rw [magnitudes]
      exact decide_eq_decide.2 Iff.rfl
    have tested (i : Input) : w.testedClip i = clip i := by
      have at_level : w.testedClip i = w.lmu.clips[i].test s.ftu.frame (w.channel i).live (level i) := by
        unfold State.testedClip
        rw [magnitudes, frame]
      exact at_level.trans (Clip.test_eq _ _ _ _)
    have subscriptions : w.sampledSubscriptions = tab fun f =>
        match w.lmu.subscriptions[f] with
        | none => none
        | some u => some { u with peaks := u.peaks.map fun (i, m) => (i, if m < level i then level i else m) } := by
      refine congrArg tab (funext fun f => ?_)
      cases w.lmu.subscriptions[f] with
      | none => rfl
      | some u =>
        refine congrArg some ((Subscription.take_eq _ u).trans ?_)
        simp only [magnitudes]
    rw [show w.testedClip = clip from funext tested, subscriptions] at opened
    have notices : (fun g : Feed =>
        (inputs.filter fun i => w.lmu.clips[i].captures (magnitude (w.sample i)) && w.carries g i).map fun i =>
          (clip i).notice i) = fun g => ((List.finRange 48).filter fun i => decide (captures i ∧ w.carries g i = true)).map
            fun i => (clip i).notice i := by
      simp only [capture, Bool.decide_and, Bool.decide_eq_true]
      rfl
    rw [notices] at opened
    rw [opened]
    rfl

end Sys2Proof.Machine
end

section
/-! PROOFS. The execution of a scene (R116 to R118): what it counts, and its entries one after another as one change of the
feed's taps and of the head-amp values. -/

namespace Sys2Proof.Machine

/-! ### What an entry changes -/

/-- A change of head-amp values sets the desired values of its channel (R73). -/
theorem change_desired (h : Hac) (i : Input) (v : HeadAmp) : (h.change i v).channels[i].desired = v := by
  unfold Hac.change
  rw [Fin.getElem_fin, upd_entry, if_pos rfl]

/-- An entry leaves every owner as it is (R117). -/
theorem act_owner (f : Feed) (e : SceneEntry) (s : State) (i : Input) :
    ((e.act f s).channel i).owner = (s.channel i).owner := by
  unfold SceneEntry.act
  split
  · exact change_owner s.hac _ _ i
  · rfl
  · rfl

/-- Whether an entry applies rests on the owners alone (R116, R117). -/
theorem applies_congr {f : Feed} {s t : State} (owners : ∀ i, (t.channel i).owner = (s.channel i).owner)
    (e : SceneEntry) : e.applies f t = e.applies f s := by
  unfold SceneEntry.applies State.owns
  simp only [owners]

/-- An entry is skipped when it is a HEADAMP entry of a channel that the feed does not own (R117). -/
theorem applies_eq_false_iff (f : Feed) (s : State) (e : SceneEntry) :
    e.applies f s = false ↔ e.value.kind = 0 ∧ (s.channel e.input).owner ≠ some f := by
  unfold SceneEntry.applies State.owns EntryValue.kind
  cases e.value <;> simp

/-! ### The counts -/

/-- The results of entries taken from place `k` on, of which those with `skips` are skipped (R118). -/
def tally (skips : SceneEntry → Bool) : Nat → List SceneEntry → SceneResult → SceneResult
  | _, [], r => r
  | k, e :: es, r => tally skips (k + 1) es (if skips e then r.skip k else { r with applied := r.applied + 1 })

theorem runEntries_tally (f : Feed) (es : List SceneEntry) : ∀ (k : Nat) (s : State) (r : SceneResult),
    (runEntries f k es s r).2 = tally (fun e => !e.applies f s) k es r := by
  induction es with
  | nil => exact fun _ _ _ => rfl
  | cons e es ih =>
    intro k s r
    unfold runEntries tally
    split
    · next applies =>
      have same : (fun d => !SceneEntry.applies f (e.act f s) d) = fun d => !d.applies f s :=
        funext fun d => congrArg _ (applies_congr (act_owner f e s) d)
      rw [ih, same, applies]
      rfl
    · next skipped =>
      rw [ih, Bool.eq_false_of_not_eq_true skipped]
      rfl

section
variable (skips : SceneEntry → Bool) (es : List SceneEntry)

theorem tally_counts : ∀ (k : Nat) (r : SceneResult),
    (tally skips k es r).applied + (tally skips k es r).skipped = r.applied + r.skipped + es.length ∧
      (tally skips k es r).skipped = r.skipped + es.countP skips := by
  induction es with
  | nil => exact fun _ _ => ⟨rfl, rfl⟩
  | cons e es ih =>
    intro k r
    obtain ⟨total, skipped⟩ := ih (k + 1) (if skips e then r.skip k else { r with applied := r.applied + 1 })
    unfold tally
    rw [total, skipped, List.length_cons, List.countP_cons]
    cases skips e <;> simp [SceneResult.skip] <;> omega

/-- Once an entry has been skipped, or if none is, the index stays. -/
theorem tally_first_stays : ∀ (k : Nat) (r : SceneResult), (r.skipped ≠ 0 ∨ ∀ e ∈ es, skips e = false) →
    (tally skips k es r).first = r.first := by
  induction es with
  | nil => exact fun _ _ _ => rfl
  | cons e es ih =>
    intro k r h
    unfold tally
    cases now : skips e with
    | false =>
      exact ih _ _ (h.imp_right fun all d listed => all d (List.mem_cons_of_mem _ listed))
    | true =>
      have before : r.skipped ≠ 0 := h.resolve_right fun all => absurd (now.symm.trans (all e List.mem_cons_self)) (by decide)
      rw [if_pos rfl, ih _ _ (.inl (Nat.succ_ne_zero _))]
      exact if_neg before

/-- The index is the place of the first skipped entry (R118). -/
theorem tally_first : ∀ (n k : Nat) (r : SceneResult) (e : SceneEntry), r.skipped = 0 → es[k]? = some e → skips e = true →
    (∀ j d, j < k → es[j]? = some d → skips d = false) → (tally skips n es r).first = n + k := by
  induction es with
  | nil => exact fun _ _ _ _ _ place => nomatch place
  | cons x es ih =>
    intro n k r e fresh place now earlier
    unfold tally
    cases k with
    | zero =>
      cases place
      rw [now, if_pos rfl, tally_first_stays _ _ _ _ (.inl (Nat.succ_ne_zero _))]
      exact if_pos fresh
    | succ k =>
      have head : skips x = false := earlier 0 x (Nat.succ_pos k) rfl
      rw [head, if_neg Bool.false_ne_true]
      rw [ih (n + 1) k { r with applied := r.applied + 1 } e fresh place now fun j d less listed =>
        earlier (j + 1) d (Nat.succ_lt_succ less) listed]
      omega

end

/-! ### A scene as one change -/

/-- The offset that an entry sets for the tap of input `i`, if it sets one (R109). -/
def SceneEntry.trimOf (i : Input) (e : SceneEntry) : Option Int :=
  match e.value with
  | .trim x => if e.input = i then some x else none
  | _ => none

/-- The mute that an entry sets for the tap of input `i`, if it sets one (R109). -/
def SceneEntry.muteOf (i : Input) (e : SceneEntry) : Option Bool :=
  match e.value with
  | .mute on => if e.input = i then some on else none
  | _ => none

/-- Feed `f`'s tap of input `i` with the offset that a scene sets (R36, R116). -/
def sceneTrimmed (f : Feed) (es : List SceneEntry) (u : State) (i : Input) : Tap :=
  match es.findSome? (SceneEntry.trimOf i) with
  | none => u.tap f i
  | some o => (u.tap f i).trim o (u.channel i).gain

/-- Feed `f`'s tap of input `i` after a scene (R116). -/
def sceneTap (f : Feed) (es : List SceneEntry) (u : State) (i : Input) : Tap :=
  { sceneTrimmed f es u i with mute := (es.findSome? (SceneEntry.muteOf i)).getD (u.tap f i).mute }

/-- The HAC `h` after an entry, whose head-amp values are changed from those in `u` where feed `f` owns the channel (R73,
R117). -/
def sceneHac (f : Feed) (u : State) (h : Hac) (e : SceneEntry) : Hac :=
  match e.value with
  | .headAmp code pad phantom =>
    if (u.channel e.input).owner = some f then
      h.change e.input ((u.channel e.input).desired.override code pad phantom)
    else h
  | _ => h

/-- The inputs that the TRIM entries of a scene name, in entry order. -/
def trimInputs (es : List SceneEntry) : List Input := (es.filter fun e => decide (e.value.kind = 1)).map (·.input)

/-- Feed `f`'s taps replaced by those of a scene. -/
def sceneTaps (f : Feed) (es : List SceneEntry) (u : State) : Vector (Vector Tap 48) 4 :=
  tab fun g => tab fun i => if g = f then sceneTap f es u i else u.tap g i

/-- The state after a scene of feed `f` (R116, R117). -/
def sceneOutcome (f : Feed) (es : List SceneEntry) (u : State) : State :=
  told (toFeed f (limitNotices f (trimInputs es) (sceneTrimmed f es u) u))
    { u with hac := es.foldl (sceneHac f u) u.hac, tgu := { u.tgu with taps := sceneTaps f es u } }

theorem sceneOutcome_nil (f : Feed) (u : State) : sceneOutcome f [] u = u := by
  have taps : sceneTaps f [] u = u.tgu.taps := by
    refine entries_ext fun g => entries_ext fun i => ?_
    have entry : (sceneTaps f [] u)[g][i] = if g = f then u.tap f i else u.tap g i :=
      (congrArg (·[i]) (tab_at _ g)).trans (tab_at _ i)
    rw [entry]
    split
    · next feed => rw [feed]; rfl
    · rfl
  unfold sceneOutcome
  rw [taps]
  show told (toFeed f []) u = u
  rw [toFeed_nil, told_nothing]

/-- One change and then the entries `es` are the entries `ds`, where they agree in the taps, the head-amp values and the
LIMIT notices. -/
theorem sceneOutcome_congr {f : Feed} {es ds : List SceneEntry} {u v : State} {nts : List Notice} {hac : Hac}
    {taps : Vector (Vector Tap 48) 4}
    (change : v = told (toFeed f nts) { u with hac := hac, tgu := { u.tgu with taps := taps } })
    (own : ∀ i, sceneTap f es v i = sceneTap f ds u i) (others : ∀ g i, g ≠ f → v.tap g i = u.tap g i)
    (headAmps : es.foldl (sceneHac f v) v.hac = ds.foldl (sceneHac f u) u.hac)
    (limits : nts ++ limitNotices f (trimInputs es) (sceneTrimmed f es v) v =
      limitNotices f (trimInputs ds) (sceneTrimmed f ds u) u) : sceneOutcome f es v = sceneOutcome f ds u := by
  have tap : sceneTaps f es v = sceneTaps f ds u := by
    refine congrArg tab (funext fun g => congrArg tab (funext fun i => ?_))
    by_cases feed : g = f
    · rw [if_pos feed, if_pos feed, own]
    · rw [if_neg feed, if_neg feed, others g i feed]
  unfold sceneOutcome
  rw [headAmps, tap, ← limits, ← toFeed_append, ← told_told]
  refine congrArg (told _) ?_
  rw [change]
  rfl

/-- Entries change the head-amp values of a state alike where two states agree in the channels they name. -/
theorem foldl_sceneHac_congr {f : Feed} {es : List SceneEntry} {u v : State}
    (same : ∀ e ∈ es, e.value.kind = 0 → v.channel e.input = u.channel e.input) (h : Hac) :
    es.foldl (sceneHac f v) h = es.foldl (sceneHac f u) h := by
  refine List.foldl_ext _ _ _ fun h e listed => ?_
  unfold sceneHac
  split
  · next value => rw [same e listed (by rw [value]; rfl)]
  · rfl

/-! ### Entries with distinct keys -/

theorem trimOf_eq_some {i : Input} {e : SceneEntry} {x : Int} : e.trimOf i = some x ↔ e = ⟨i, .trim x⟩ := by
  obtain ⟨j, value⟩ := e
  cases value <;> simp [SceneEntry.trimOf, and_comm]

theorem muteOf_eq_some {i : Input} {e : SceneEntry} {on : Bool} : e.muteOf i = some on ↔ e = ⟨i, .mute on⟩ := by
  obtain ⟨j, value⟩ := e
  cases value <;> simp [SceneEntry.muteOf, and_comm]

/-- Entries of other keys are of another kind, or name another input (R109). -/
theorem sameKey_eq_false {a b : SceneEntry} (h : a.sameKey b = false) (kind : a.value.kind = b.value.kind) :
    b.input ≠ a.input := by
  intro input
  unfold SceneEntry.sameKey at h
  exact of_decide_eq_false h ⟨input.symm, kind⟩

section
variable {i : Input} {es : List SceneEntry}

/-- A field of entries that entries of one key alone can hold is not held by entries of other keys. -/
theorem findSome?_eq_none_of_distinct {α : Type} {read : SceneEntry → Option α} {a : SceneEntry} {x : α}
    (key : ∀ a b x y, read a = some x → read b = some y → a.sameKey b = true) (reads : read a = some x)
    (distinct : ∀ e ∈ es, a.sameKey e = false) : es.findSome? read = none := by
  rw [List.findSome?_eq_none_iff]
  intro e listed
  cases found : read e with
  | none => rfl
  | some y => exact absurd ((distinct e listed).symm.trans (key a e x y reads found)) Bool.false_ne_true

/-- The entry that holds such a field is the one that is found. -/
theorem findSome?_eq_some_of_distinct {α : Type} {read : SceneEntry → Option α} {a : SceneEntry} {x : α}
    (key : ∀ a b x y, read a = some x → read b = some y → a.sameKey b = true) (reads : read a = some x)
    (distinct : es.Pairwise fun a b => a.sameKey b = false) (listed : a ∈ es) : es.findSome? read = some x := by
  induction es with
  | nil => cases listed
  | cons e es ih =>
    obtain ⟨first, later⟩ := List.pairwise_cons.1 distinct
    rw [List.findSome?_cons]
    rcases List.mem_cons.1 listed with rfl | listed
    · rw [reads]
    · cases found : read e with
      | none => exact ih later listed
      | some y => exact absurd ((first a listed).symm.trans (key e a y x found reads)) Bool.false_ne_true

theorem trimOf_key (a b : SceneEntry) (x y : Int) (ha : a.trimOf i = some x) (hb : b.trimOf i = some y) :
    a.sameKey b = true := by
  rw [trimOf_eq_some.1 ha, trimOf_eq_some.1 hb]
  exact decide_eq_true ⟨rfl, rfl⟩

theorem muteOf_key (a b : SceneEntry) (x y : Bool) (ha : a.muteOf i = some x) (hb : b.muteOf i = some y) :
    a.sameKey b = true := by
  rw [muteOf_eq_some.1 ha, muteOf_eq_some.1 hb]
  exact decide_eq_true ⟨rfl, rfl⟩

theorem mem_trimInputs {j : Input} : j ∈ trimInputs es ↔ ∃ e ∈ es, e.value.kind = 1 ∧ e.input = j := by
  simp [trimInputs, and_assoc]

end

/-! ### The mute and the levels of a tap do not touch each other -/

theorem Tap.trim_setMute (t : Tap) (on : Bool) (o a : Int) : (t.setMute on).trim o a = (t.trim o a).setMute on := by
  obtain ⟨mode, offset, target, current, mute, limit⟩ := t
  cases mode <;> rfl

theorem Tap.trim_keeps (t : Tap) (o a : Int) :
    (t.trim o a).mute = t.mute ∧ (t.trim o a).mode = t.mode ∧ (t.trim o a).current = t.current ∧
      (t.trim o a).offset = o := by
  obtain ⟨mode, offset, target, current, mute, limit⟩ := t
  cases mode <;> exact ⟨rfl, rfl, rfl, rfl⟩

theorem limitNotices_setMute (f : Feed) (is : List Input) (new : Input → Tap) (on : Input → Bool) (u : State) :
    limitNotices f is (fun i => (new i).setMute (on i)) u = limitNotices f is new u := rfl

/-! ### The first entry of a scene -/

section
variable {f : Feed} {i : Input} {es : List SceneEntry} {u : State}

/-- A HEADAMP entry at the head of a scene. -/
theorem sceneOutcome_headAmp {code : Option (Fin 64)} {pad phantom : Option Bool}
    (distinct : ∀ e ∈ es, SceneEntry.sameKey ⟨i, .headAmp code pad phantom⟩ e = false) :
    sceneOutcome f es { u with hac := sceneHac f u u.hac ⟨i, .headAmp code pad phantom⟩ } =
      sceneOutcome f (⟨i, .headAmp code pad phantom⟩ :: es) u := by
  have other (j : Input) (ne : j ≠ i) :
      (sceneHac f u u.hac ⟨i, .headAmp code pad phantom⟩).channels[j] = u.channel j := by
    unfold sceneHac
    dsimp only
    split
    · exact change_channel_other u.hac i _ j ne
    · rfl
  have gain (j : Input) :
      (sceneHac f u u.hac ⟨i, .headAmp code pad phantom⟩).channels[j].gain = (u.channel j).gain := by
    unfold sceneHac
    dsimp only
    split
    · exact change_gain u.hac i _ j
    · rfl
  have trimmed : sceneTrimmed f es { u with hac := sceneHac f u u.hac ⟨i, .headAmp code pad phantom⟩ } =
      sceneTrimmed f (⟨i, .headAmp code pad phantom⟩ :: es) u := by
    funext j
    unfold sceneTrimmed
    rw [State.channel, gain]
    rfl
  refine sceneOutcome_congr (nts := []) (taps := u.tgu.taps) (by rw [toFeed_nil, told_nothing]) (fun j => ?_)
    (fun _ _ _ => rfl) (foldl_sceneHac_congr (fun e listed kind => ?_) _) ?_
  · unfold sceneTap
    rw [trimmed]
    rfl
  · exact other _ (sameKey_eq_false (distinct e listed) kind.symm)
  · rw [List.nil_append, trimmed]
    exact limitNotices_congr (fun _ _ => ⟨rfl, rfl⟩) gain rfl

/-- A TRIM entry at the head of a scene. -/
theorem sceneOutcome_trim {x : Int} (distinct : ∀ e ∈ es, SceneEntry.sameKey ⟨i, .trim x⟩ e = false) :
    sceneOutcome f es (changeTap f i (Tap.trim x (u.channel i).gain) u) = sceneOutcome f (⟨i, .trim x⟩ :: es) u := by
  generalize changed : changeTap f i (Tap.trim x (u.channel i).gain) u = v
  have change : v = told (toFeed f (limitNotices f [i] (sceneTrimmed f (⟨i, .trim x⟩ :: es) u) u))
      { u with tgu := u.tgu.onTap f i fun _ => (u.tap f i).trim x (u.channel i).gain } := by
    rw [← changed, changeTap_told]
    refine congrArg (fun l => told (toFeed f l) _) (limitNotices_congr (fun j listed => ⟨?_, rfl⟩) (fun _ => rfl) rfl)
    rw [List.mem_singleton.1 listed]
    simp [sceneTrimmed, SceneEntry.trimOf]
  have tap (g : Feed) (j : Input) :
      v.tap g j = if g = f ∧ j = i then (u.tap f i).trim x (u.channel i).gain else u.tap g j := by
    rw [← changed, changeTap_tap]
  have channel (j : Input) : v.channel j = u.channel j := by
    rw [← changed]
    rfl
  have trimmed : sceneTrimmed f es v = sceneTrimmed f (⟨i, .trim x⟩ :: es) u := by
    funext j
    unfold sceneTrimmed
    rw [tap, channel, List.findSome?_cons]
    by_cases here : j = i
    · subst here
      rw [findSome?_eq_none_of_distinct trimOf_key (trimOf_eq_some.2 rfl) distinct]
      simp [SceneEntry.trimOf]
    · simp [SceneEntry.trimOf, here, Ne.symm here]
  refine sceneOutcome_congr (hac := u.hac) change (fun j => ?_) (fun g j other => ?_) ?_ ?_
  · unfold sceneTap
    rw [trimmed, tap]
    have mute : ∀ b, (if f = f ∧ j = i then (u.tap f i).trim x b else u.tap f j).mute = (u.tap f j).mute := by
      intro b
      split
      · next here => rw [(Tap.trim_keeps _ _ _).1, here.2]
      · rfl
    rw [mute]
    rfl
  · rw [tap, if_neg fun h => other h.1]
  · have hac : v.hac = u.hac := by rw [← changed, changeTap_hac]
    rw [hac]
    exact foldl_sceneHac_congr (fun e _ _ => channel e.input) _
  · rw [trimmed, show trimInputs (⟨i, .trim x⟩ :: es) = i :: trimInputs es from rfl, limitNotices_cons f i (trimInputs es)]
    refine congrArg (_ ++ ·) (limitNotices_congr (fun j listed => ⟨rfl, ?_⟩) (fun j => by rw [channel]) ?_)
    · obtain ⟨e, at_e, kind, rfl⟩ := mem_trimInputs.1 listed
      rw [tap, if_neg fun h => sameKey_eq_false (distinct e at_e) kind.symm h.2]
    · rw [← changed]
      rfl

/-- A MUTE entry at the head of a scene. -/
theorem sceneOutcome_mute {on : Bool} (distinct : ∀ e ∈ es, SceneEntry.sameKey ⟨i, .mute on⟩ e = false) :
    sceneOutcome f es (changeTap f i (Tap.setMute on) u) = sceneOutcome f (⟨i, .mute on⟩ :: es) u := by
  generalize changed : changeTap f i (Tap.setMute on) u = v
  have change : v = told (toFeed f []) { u with tgu := u.tgu.onTap f i fun _ => (u.tap f i).setMute on } := by
    have none : limitNotices f [i] (fun _ => (u.tap f i).setMute on) u = [] := by simp [limitNotices, Tap.setMute]
    rw [← changed, changeTap_told, none]
  have tap (g : Feed) (j : Input) : v.tap g j = if g = f ∧ j = i then (u.tap f i).setMute on else u.tap g j := by
    rw [← changed, changeTap_tap]
  have channel (j : Input) : v.channel j = u.channel j := by
    rw [← changed]
    rfl
  have trimmed : sceneTrimmed f es v = fun j => (sceneTrimmed f es u j).setMute (v.tap f j).mute := by
    funext j
    have muted : v.tap f j = (u.tap f j).setMute (v.tap f j).mute := by
      rw [tap]
      split
      · next here => rw [here.2]; rfl
      · rfl
    unfold sceneTrimmed
    rw [channel]
    split
    · exact muted
    · rw [← Tap.trim_setMute, ← muted]
  refine sceneOutcome_congr (hac := u.hac) change (fun j => ?_) (fun g j other => ?_) ?_ ?_
  · unfold sceneTap
    have mute : (es.findSome? (SceneEntry.muteOf j)).getD (v.tap f j).mute =
        ((⟨i, .mute on⟩ :: es).findSome? (SceneEntry.muteOf j)).getD (u.tap f j).mute := by
      rw [tap, List.findSome?_cons]
      by_cases here : j = i
      · subst here
        rw [findSome?_eq_none_of_distinct muteOf_key (muteOf_eq_some.2 rfl) distinct]
        simp [SceneEntry.muteOf, Tap.setMute]
      · simp [SceneEntry.muteOf, here, Ne.symm here]
    rw [trimmed, mute]
    rfl
  · rw [tap, if_neg fun h => other h.1]
  · have hac : v.hac = u.hac := by rw [← changed, changeTap_hac]
    rw [hac]
    exact foldl_sceneHac_congr (fun e _ _ => channel e.input) _
  · rw [List.nil_append, trimmed, limitNotices_setMute]
    refine limitNotices_congr (fun j _ => ⟨rfl, ?_⟩) (fun j => by rw [channel]) ?_
    · rw [tap]
      split
      · next here => rw [here.2]; rfl
      · rfl
    · rw [← changed]
      rfl

end

/-- The entries of a scene, taken one after another, are one change (R116, R117). -/
theorem runEntries_outcome (f : Feed) (es : List SceneEntry) (distinct : es.Pairwise fun a b => a.sameKey b = false) :
    ∀ (k : Nat) (u : State) (r : SceneResult), (runEntries f k es u r).1 = sceneOutcome f es u := by
  induction es with
  | nil => exact fun _ u _ => (sceneOutcome_nil f u).symm
  | cons e es ih =>
    intro k u r
    obtain ⟨first, later⟩ := List.pairwise_cons.1 distinct
    obtain ⟨i, value⟩ := e
    cases value with
    | headAmp code pad phantom =>
      rw [← sceneOutcome_headAmp first, ← ih later (k + 1) _ r, sceneHac]
      dsimp only
      by_cases own : (u.channel i).owner = some f
      · rw [if_pos own, ih later, ← ih later (k + 1) _ { r with applied := r.applied + 1 }]
        exact congrArg Prod.fst (if_pos (decide_eq_true own))
      · rw [if_neg own, ih later, ← ih later (k + 1) _ (r.skip k)]
        exact congrArg Prod.fst (if_neg fun applies => own (of_decide_eq_true applies))
    | trim x => rw [← sceneOutcome_trim first, ← ih later (k + 1) _ { r with applied := r.applied + 1 }]; rfl
    | mute on => rw [← sceneOutcome_mute first, ← ih later (k + 1) _ { r with applied := r.applied + 1 }]; rfl

/-! ### Reads of the outcome -/

theorem sceneOutcome_tap (f : Feed) (es : List SceneEntry) (u : State) (g : Feed) (i : Input) :
    (sceneOutcome f es u).tap g i = if g = f then sceneTap f es u i else u.tap g i :=
  (congrArg (·[i]) (tab_at _ g)).trans (tab_at _ i)

section
variable {f : Feed} {u : State} {i : Input}

theorem sceneHac_channel_other {h : Hac} {e : SceneEntry} (other : e.input = i → e.value.kind ≠ 0) :
    (sceneHac f u h e).channels[i] = h.channels[i] := by
  obtain ⟨j, value⟩ := e
  unfold sceneHac
  cases value with
  | headAmp code pad phantom =>
    have ne : i ≠ j := fun e => other e.symm rfl
    dsimp only
    split
    · exact change_channel_other h j _ i ne
    · rfl
  | trim x => rfl
  | mute on => rfl

/-- What has no HEADAMP entry stays (R117). -/
theorem foldl_sceneHac_other (es : List SceneEntry) (h : Hac) (other : ∀ e ∈ es, e.input = i → e.value.kind ≠ 0) :
    (es.foldl (sceneHac f u) h).channels[i] = h.channels[i] :=
  List.foldlRecOn (motive := fun k : Hac => k.channels[i] = h.channels[i]) es _ rfl fun _ reached e listed =>
    (sceneHac_channel_other (other e listed)).trans reached

/-- A HEADAMP entry replaces the present fields of the desired values of a channel that the feed owns (R117). -/
theorem foldl_sceneHac_desired {code : Option (Fin 64)} {pad phantom : Option Bool} {es : List SceneEntry}
    (distinct : es.Pairwise fun a b => a.sameKey b = false) (listed : ⟨i, .headAmp code pad phantom⟩ ∈ es) (h : Hac)
    (start : h.channels[i].desired = (u.channel i).desired) :
    (es.foldl (sceneHac f u) h).channels[i].desired =
      if (u.channel i).owner = some f then (u.channel i).desired.override code pad phantom else (u.channel i).desired := by
  induction es generalizing h with
  | nil => cases listed
  | cons e es ih =>
    obtain ⟨first, later⟩ := List.pairwise_cons.1 distinct
    rw [List.foldl_cons]
    rcases List.mem_cons.1 listed with rfl | listed
    · rw [foldl_sceneHac_other es _ fun d at_d input kind => sameKey_eq_false (first d at_d) kind.symm input]
      unfold sceneHac
      dsimp only
      split
      · exact change_desired h i _
      · exact start
    · refine ih later listed _ ?_
      rw [sceneHac_channel_other fun input kind => sameKey_eq_false (first _ listed) kind input.symm]
      exact start

/-- No entry changes an owner, live values or a gain (R117). -/
theorem foldl_sceneHac_keeps (es : List SceneEntry) (h : Hac) :
    (es.foldl (sceneHac f u) h).channels[i].owner = h.channels[i].owner ∧
      (es.foldl (sceneHac f u) h).channels[i].live = h.channels[i].live ∧
      (es.foldl (sceneHac f u) h).channels[i].gain = h.channels[i].gain := by
  refine List.foldlRecOn (motive := fun k : Hac => k.channels[i].owner = h.channels[i].owner ∧
    k.channels[i].live = h.channels[i].live ∧ k.channels[i].gain = h.channels[i].gain) es _ ⟨rfl, rfl, rfl⟩ ?_
  intro k ⟨owner, live, gain⟩ e _
  unfold sceneHac
  split
  · split
    · exact ⟨(change_owner k _ _ i).trans owner, (change_live k _ _ i).trans live, (change_gain k _ _ i).trans gain⟩
    · exact ⟨owner, live, gain⟩
  · exact ⟨owner, live, gain⟩

variable {es : List SceneEntry}

/-- What a scene leaves of a tap of its feed (R116). -/
theorem sceneTap_keeps : (sceneTap f es u i).mode = (u.tap f i).mode ∧ (sceneTap f es u i).current = (u.tap f i).current := by
  unfold sceneTap sceneTrimmed
  dsimp only
  split
  · exact ⟨rfl, rfl⟩
  · obtain ⟨-, mode, current, -⟩ := Tap.trim_keeps (u.tap f i) ‹Int› (u.channel i).gain
    exact ⟨mode, current⟩

theorem sceneTap_offset :
    (sceneTap f es u i).offset = (es.findSome? (SceneEntry.trimOf i)).getD (u.tap f i).offset := by
  unfold sceneTap sceneTrimmed
  dsimp only
  split
  · next none => rw [none]; rfl
  · next o some =>
    rw [some]
    exact (Tap.trim_keeps _ _ _).2.2.2

/-- Without an entry that sets it, a field has none. -/
theorem findSome?_trimOf_absent (absent : ∀ e ∈ es, e.input = i → e.value.kind ≠ 1) :
    es.findSome? (SceneEntry.trimOf i) = none := by
  rw [List.findSome?_eq_none_iff]
  intro e listed
  cases found : e.trimOf i with
  | none => rfl
  | some y =>
    rw [trimOf_eq_some.1 found] at listed
    exact absurd rfl (absent _ listed rfl)

theorem findSome?_muteOf_absent (absent : ∀ e ∈ es, e.input = i → e.value.kind ≠ 2) :
    es.findSome? (SceneEntry.muteOf i) = none := by
  rw [List.findSome?_eq_none_iff]
  intro e listed
  cases found : e.muteOf i with
  | none => rfl
  | some y =>
    rw [muteOf_eq_some.1 found] at listed
    exact absurd rfl (absent _ listed rfl)

end

/-- Settles O22: the counts by the tally of the entries, the rest read off the one change that the entries are. -/
theorem sceneAppliesEntries : Obligations.SceneAppliesEntries := by
  intro f es u distinct v r skips
  have outcome : v = sceneOutcome f es u := runEntries_outcome f es distinct 0 u _
  have counted : r = tally (fun e => !e.applies f u) 0 es { applied := 0, skipped := 0, first := 255 } :=
    runEntries_tally f es 0 u _
  have skip (e : SceneEntry) : (!e.applies f u) = true ↔ skips e := by
    rw [Bool.not_eq_true']
    exact applies_eq_false_iff f u e
  have stays (e : SceneEntry) : (!e.applies f u) = false ↔ ¬ skips e := by
    rw [← skip, Bool.not_eq_true]
  have tap (g : Feed) (i : Input) : v.tap g i = if g = f then sceneTap f es u i else u.tap g i := by
    rw [outcome, sceneOutcome_tap]
  have own (i : Input) : v.tap f i = sceneTap f es u i := (tap f i).trans (if_pos rfl)
  have channel (i : Input) : v.channel i = (es.foldl (sceneHac f u) u.hac).channels[i] := by
    rw [outcome]
    rfl
  obtain ⟨total, skipped⟩ :=
    tally_counts (fun e => !e.applies f u) es 0 { applied := 0, skipped := 0, first := 255 }
  rw [← counted, Nat.zero_add] at total skipped
  have none_skipped : r.skipped = 0 ↔ ∀ e ∈ es, ¬ skips e := by
    rw [skipped, List.countP_eq_zero]
    exact forall₂_congr fun e _ => not_congr (skip e)
  clear_value v r
  refine ⟨fun e listed => ?entry, fun i => ?untouched, by simpa using total, none_skipped, fun none => ?noIndex,
    fun k e place now earlier => ?index, ?blocks, ?full⟩
  case entry =>
    obtain ⟨i, value⟩ := e
    cases value with
    | trim x =>
      show (v.tap f i).offset = x
      rw [own, sceneTap_offset,
        findSome?_eq_some_of_distinct trimOf_key (trimOf_eq_some.2 rfl) distinct listed]
      rfl
    | mute on =>
      show (v.tap f i).mute = on
      rw [own, sceneTap, findSome?_eq_some_of_distinct muteOf_key (muteOf_eq_some.2 rfl) distinct listed]
      rfl
    | headAmp code pad phantom =>
      show (v.channel i).desired = _
      rw [channel]
      exact foldl_sceneHac_desired distinct listed u.hac rfl
  case untouched =>
    obtain ⟨owner, live, gain⟩ := foldl_sceneHac_keeps (f := f) (u := u) (i := i) es u.hac
    obtain ⟨mode, current⟩ := sceneTap_keeps (f := f) (es := es) (u := u) (i := i)
    rw [channel, own]
    refine ⟨fun absent => ?_, fun absent => ?_, fun absent => ?_, owner, live, gain, mode, current, fun g other => ?_⟩
    · rw [foldl_sceneHac_other es u.hac absent]
      rfl
    · rw [sceneTap_offset, findSome?_trimOf_absent absent]
      rfl
    · rw [sceneTap, findSome?_muteOf_absent absent]
      rfl
    · rw [tap, if_neg other]
  case noIndex =>
    rw [counted]
    exact tally_first_stays _ _ _ _ (.inr fun e listed => (stays e).2 (none_skipped.1 none e listed))
  case index =>
    rw [counted, tally_first _ es 0 k _ e rfl place ((skip e).2 now) fun j d less at_d => (stays d).2 (earlier j d less at_d),
      Nat.zero_add]
  case blocks =>
    rw [outcome]
    refine ⟨fun b outside => ?_, rfl, rfl⟩
    cases b with
    | tgu | hac | cle | lnk => exact absurd (by decide) outside
    | _ => rfl
  case full =>
    intro limited trims mutes trimmed new
    have same (i : Input) : trimmed i = sceneTrimmed f es u i := by
      have found : trims i = es.findSome? (SceneEntry.trimOf i) := rfl
      unfold sceneTrimmed
      rw [← found]
      show (match trims i with | none => u.tap f i | some o => _) = _
      cases trims i with
      | none => rfl
      | some o => exact (Tap.trim_eq _ _ _).symm
    have taps : new = sceneTap f es u := by
      funext i
      show ({ trimmed i with mute := _ } : Tap) = _
      rw [same]
      rfl
    rw [outcome, taps]
    rfl

end Sys2Proof.Machine
end

section
/-! PROOFS. Gain laws, analogue gains, maps, meters and clip records: what it is for each to stay sound, and the changes of
the part that leave them alone (R18, R22, R63, R72, R153, R156). -/

namespace Sys2Proof.Machine

/-! ### The condition -/

/-- What a step keeps of the tables and records (R18, R22, R63, R66, R72, R153, R156). -/
structure State.keepsTables (s t : State) : Prop where
  laws : s.lawsSound → t.lawsSound := by exact id
  gains : s.gainsSound → t.gainsSound := by exact id
  maps : s.mapsSound → t.mapsSound := by exact id
  meters : s.metersSound → t.metersSound := by exact id

/-- No meter period ends in the frame in progress or before it, so that the frame may end (R154). -/
def State.periodsAhead (s : State) : Prop :=
  ∀ (f : Feed) u, s.lmu.subscriptions[f] = some u → lead s.ftu.frame u.ends < 0

/-- What a change within a frame keeps of the tables and records. -/
structure State.steady (s t : State) : Prop extends s.keepsTables t where
  periods : s.periodsAhead → t.periodsAhead := by exact id

theorem keepsTables_trans {s t u : State} (a : s.keepsTables t) (b : t.keepsTables u) : s.keepsTables u where
  laws h := b.laws (a.laws h)
  gains h := b.gains (a.gains h)
  maps h := b.maps (a.maps h)
  meters h := b.meters (a.meters h)

theorem steady_refl (s : State) : s.steady s := {}

theorem steady_trans {s t u : State} (a : s.steady t) (b : t.steady u) : s.steady u :=
  { keepsTables_trans a.1 b.1 with periods := fun h => b.periods (a.periods h) }

theorem foldl_steady {α : Type} (step : State → α → State) (h : ∀ (s : State) (a : α), s.steady (step s a)) (l : List α)
    (s : State) : s.steady (l.foldl step s) :=
  List.foldlRecOn l step (steady_refl s) fun t reached a _ => steady_trans reached (h t a)

/-- The gains rest on the law, the pad value and the live values alone (R72). -/
theorem still_gains {s t : State} (a : s.still t) (h : s.gainsSound) : t.gainsSound :=
  gainsSound_of_same a.plt a.padValue a.live a.gain h

/-- A change of other blocks, and of the clock but for its frame and rate. -/
theorem blocks_steady {s t : State} (frame : t.ftu.frame = s.ftu.frame) (rate : t.ftu.rate = s.ftu.rate)
    (smu : t.smu = s.smu) (tgu : t.tgu = s.tgu) (hac : t.hac = s.hac) (lmu : t.lmu = s.lmu) : s.steady t where
  laws h := by
    unfold State.lawsSound
    rw [tgu]
    exact h
  gains := gainsSound_of_same (by rw [hac]) (by rw [hac]) (fun i => by rw [State.channel, hac]; rfl)
    fun i => by rw [State.channel, hac]; rfl
  maps h := by
    unfold State.mapsSound
    rw [smu, rate]
    exact h
  meters h := by
    unfold State.metersSound
    rw [lmu, frame]
    exact h
  periods h := by
    unfold State.periodsAhead
    rw [lmu, frame]
    exact h

/-- A change of the HAC that leaves law, pad value, live values and gains alone. -/
theorem hac_steady {s : State} {h : Hac} (a : s.still { s with hac := h }) : s.steady { s with hac := h } :=
  { gains := still_gains a }

/-! ### Notices, taps and channels -/

theorem notifyIf_steady (b : Bool) (f : Feed) (nt : Notice) (s : State) : s.steady (notifyIf b f nt s) := {}

theorem notifyWhere_steady (p : Feed → Bool) (nt : Notice) (s : State) : s.steady (notifyWhere p nt s) := {}

theorem changeTap_steady (f : Feed) (i : Input) (g : Tap → Tap) (s : State) : s.steady (changeTap f i g s) := {}

theorem changeTaps_steady (f : Feed) (g : Int → Tap → Tap) (is : List Input) (s : State) :
    s.steady (changeTaps f g is s) :=
  foldl_steady _ (fun _ _ => changeTap_steady _ _ _ _) is s

/-- A change of the four taps of an input. -/
theorem changeInput_steady (i : Input) (g : Feed → Tap → Tap) (s : State) :
    s.steady (changeTap 3 i (g 3) (changeTap 2 i (g 2) (changeTap 1 i (g 1) (changeTap 0 i (g 0) s)))) :=
  steady_trans (changeTap_steady 0 i _ s) (steady_trans (changeTap_steady 1 i _ _)
    (steady_trans (changeTap_steady 2 i _ _) (changeTap_steady 3 i _ _)))

theorem compensate_steady (i : Input) (d : Int) (s : State) : s.steady (compensate i d s) :=
  changeInput_steady i (fun _ => Tap.jump d (s.channel i).gain) s

theorem rebase_steady (i : Input) (d : Int) (s : State) : s.steady (rebase i d s) :=
  changeInput_steady i (fun f => Tap.rebase s.ftu.frame f i d (s.channel i).gain) s

theorem stepTaps_steady (s : State) : s.steady (stepTaps s) := {}

theorem setOwner_steady (new : Option Feed) (cause : OwnerCause) (i : Input) (s : State) :
    s.steady (setOwner new cause i s) := by
  unfold setOwner
  dsimp only
  split
  · exact steady_refl s
  · exact steady_trans (hac_steady (onChannel_still i (fun c => { c with owner := new }) s (fun _ => rfl) fun _ => rfl))
      (notifyWhere_steady _ _ _)

theorem claimSeen_steady (f : Feed) (s : State) (i : Input) : s.steady (claimSeen f s i) := by
  unfold claimSeen
  split
  · exact notifyIf_steady _ _ _ _
  · exact steady_refl s

/-- A change of desired values (R73). -/
theorem change_steady (i : Input) (v : HeadAmp) (s : State) : s.steady { s with hac := s.hac.change i v } :=
  hac_steady (change_still i v s)

theorem settleEnd_steady (i : Input) (s : State) : s.steady (settleEnd i s) :=
  hac_steady (settleEnd_still i s)

theorem settleEnds_steady (s : State) : s.steady (settleEnds s) :=
  hac_steady (settleEnds_still s)

theorem busOpportunity_steady (b : Group) (s : State) : s.steady (busOpportunity b s) :=
  hac_steady (busOpportunity_still b s)

theorem converterOutcome_steady (g : Group) (x : Option (List Sample)) (s : State) : s.steady (converterOutcome g x s) :=
  blocks_steady (by rw [converterOutcome_ftu]) (by rw [converterOutcome_ftu]) (converterOutcome_smu g x s)
    (converterOutcome_tgu g x s) (converterOutcome_hac g x s) (converterOutcome_lmu g x s)

theorem missingConverters_steady (s : State) : s.steady (missingConverters s) := by
  refine foldl_steady _ (fun t g => ?_) _ s
  unfold missingConverter
  split
  · exact steady_refl t
  · exact converterOutcome_steady _ _ _

/-! ### Clock, link ports and feeds -/

theorem clockEvent_steady {g : Ftu → Ftu} {s : State} (frame : (g s.ftu).frame = s.ftu.frame)
    (rate : (g s.ftu).rate = s.ftu.rate) : s.steady (clockEvent g s) :=
  steady_trans (blocks_steady (t := { s with ftu := g s.ftu }) frame rate rfl rfl rfl rfl) (notifyWhere_steady _ _ _)

/-- An event of the FTU leaves the frame and the rate alone. -/
theorem ftuEvent_steady {g : Ftu → Ftu} {s : State} (same : s.ftu.sameBut (g s.ftu)) : s.steady (clockEvent g s) :=
  clockEvent_steady (by rw [same]) (by rw [same])

theorem reportCame_steady (x : ClockSource) (s : State) : s.steady (reportCame x s) := by
  refine ftuEvent_steady ?_
  split
  · exact sourceCame_sameBut _ _ _
  · rfl

theorem reportGone_steady (x : ClockSource) (s : State) : s.steady (reportGone x s) := by
  refine ftuEvent_steady ?_
  split
  · exact sourceGone_sameBut _ _ _
  · rfl

theorem wordclockPresent_steady (s : State) : s.steady (wordclockPresent s) := by
  unfold wordclockPresent
  split
  · exact steady_refl s
  · exact steady_trans (t := { s with ftu := _ }) {} (reportCame_steady _ _)

theorem wordclockAbsent_steady (s : State) : s.steady (wordclockAbsent s) := by
  unfold wordclockAbsent
  split
  · exact steady_trans (t := { s with ftu := _ }) {} (reportGone_steady _ _)
  · exact steady_refl s

/-- The evaluation of a new list leaves the frame and the rate alone (R13, R14). -/
theorem evaluateList_frame_rate (a : ClockSource → Bool) (x : List ClockSource) (lengths : Option (Byte × BitVec 16))
    (u : Ftu) :
    ((u.replaceList x lengths).evaluate a).frame = u.frame ∧ ((u.replaceList x lengths).evaluate a).rate = u.rate := by
  rw [evaluate_sameBut a (u.replaceList x lengths)]
  exact ⟨rfl, rfl⟩

theorem setClock_steady (x : List ClockSource) (lengths : Option (Byte × BitVec 16)) (s : State) :
    s.steady (setClock x lengths s) :=
  clockEvent_steady (evaluateList_frame_rate _ _ _ _).1 (evaluateList_frame_rate _ _ _ _).2

end Sys2Proof.Machine
end

section
/-! PROOFS. Gain laws, maps, analogue gains, meters and clip records: the changes that touch them keep them sound (R25, R67,
R84, R89, R153 to R158). -/

namespace Sys2Proof.Machine

/-! ### Gain laws and maps -/

/-- A pending law takes effect as it was accepted (R67). -/
theorem lawInEffect_steady (s : State) : s.steady (lawInEffect s) where
  laws h := by
    obtain ⟨glt, pending⟩ := h
    unfold State.lawsSound lawInEffect Tgu.advance
    dsimp only
    split
    · next p waits =>
      split
      · exact ⟨pending p waits, fun q e => nomatch e⟩
      · exact ⟨glt, pending⟩
    · exact ⟨glt, pending⟩

/-- A sound law pending, or none (R67). -/
theorem lawPending_steady (s : State) {table : Vector Mantissa 48} (sound : lawSound table) (start : FrameNo)
    (marks : Vector Bool 4) :
    s.steady { s with tgu := { s.tgu with pending := some { table := table, start := start }, marks := marks } } where
  laws h := ⟨h.1, fun p e => by cases e; exact sound⟩

/-- The maps of a feed, in force and pending, at a rate mode (R18, R22, R25). -/
def FeedMap.sound (rate : Rate) (m : FeedMap) : Prop :=
  m.inForce.sound rate ∧ ∀ p, m.pending = some p → p.map.sound rate

theorem mapsSound_iff (s : State) : s.mapsSound ↔ ∀ f : Feed, s.smu.maps[f].sound s.ftu.rate := Iff.rfl

/-- A list of windows in range, expanded at a rate mode, is a sound map (R22). -/
theorem ofWindows_sound (rate : Rate) {ws : List Window} (few : ws.length ≤ 8) (fit : ∀ w ∈ ws, w.sound) :
    (SlotMap.ofWindows rate ws).sound rate :=
  ⟨few, fit, by cases rate <;> rfl⟩

/-- The change of one feed's maps that leaves them sound. -/
theorem onMap_steady (f : Feed) (g : FeedMap → FeedMap) (s : State)
    (sound : s.smu.maps[f].sound s.ftu.rate → (g s.smu.maps[f]).sound s.ftu.rate) :
    s.steady { s with smu := { s.smu with maps := upd s.smu.maps f g } } where
  maps h := by
    intro k
    show FeedMap.sound s.ftu.rate (upd s.smu.maps f g)[k]
    rw [Fin.getElem_fin, upd_entry]
    split
    · next e =>
      obtain rfl := Fin.ext e
      exact sound (h f)
    · exact h k

/-- A pending map comes into force as it was accepted (R25). -/
theorem FeedMap.advance_sound {rate : Rate} {m : FeedMap} (n : FrameNo) (h : m.sound rate) : (m.advance n).sound rate := by
  unfold FeedMap.advance
  split
  · next p waits =>
    split
    · exact ⟨h.2 p waits, fun q e => nomatch e⟩
    · exact h
  · exact h

theorem mapInForce_steady (f : Feed) (s : State) : s.steady (mapInForce f s) :=
  onMap_steady f _ s (FeedMap.advance_sound _)

theorem mapsInForce_steady (s : State) : s.steady (mapsInForce s) := by
  rw [mapsInForce_eq]
  exact foldl_steady _ (fun t f => mapInForce_steady f t) _ s

theorem acceptWindows_steady (f : Feed) {ws : List Window} (s : State) (few : ws.length ≤ 8) (fit : ∀ w ∈ ws, w.sound) :
    s.steady (acceptWindows f ws s) :=
  onMap_steady f _ s fun h => ⟨h.1, fun p e => by cases e; exact ofWindows_sound _ few fit⟩

/-- The windows that the checks take lie in their ranges, and are no more than those sent (R24). -/
theorem checkWindows_sound {l : List (Nat × Nat × Nat × Nat)} {ws : List Window} {reduced : Bool}
    (h : checkWindows 0 l = .ok (ws, reduced)) : ws.length ≤ l.length ∧ ∀ w ∈ ws, w.sound := by
  by_cases refused : ∃ e ∈ l, takenWindow e = none
  · obtain ⟨place, error⟩ := checkWindows_refused 0 l refused
    exact nomatch h.symm.trans error
  · obtain ⟨_, taken⟩ := checkWindows_taken 0 l refused
    cases h.symm.trans taken
    refine ⟨List.length_filterMap_le _ _, fun w listed => ?_⟩
    obtain ⟨e, -, he⟩ := List.mem_filterMap.1 listed
    exact takenWindow_sound he

/-- At most eight windows are sent (R23). -/
theorem parseWindows_few {ps : List Byte} {l : List (Nat × Nat × Nat × Nat)} (h : parseWindows ps = some l) :
    l.length ≤ 8 := by
  unfold parseWindows at h
  split at h
  · cases h
  · next n rest =>
    split at h
    · next fits =>
      cases h
      have := windowFields_length rest
      omega
    · cases h

/-! ### Analogue gains -/

/-- An effective event gives the channel the gain of its new live values (R84). -/
theorem makeLive_steady (n : FrameNo) (i : Input) (v : HeadAmp) (s : State) :
    s.steady { s with hac := s.hac.makeLive n i v } where
  gains h := by
    obtain ⟨fits, gain⟩ := (gainsSound_iff s).1 h
    refine (gainsSound_iff _).2 ⟨fits, fun j => ?_⟩
    rw [makeLive_channel]
    split
    · rfl
    · exact gain j

theorem effective_steady (i : Input) (s : State) : s.steady (effective i s) := by
  rcases effective_eq i s with same | ⟨v, event⟩
  · rw [same]
    exact steady_refl s
  · rw [event]
    exact steady_trans (makeLive_steady s.ftu.frame i v s)
      (steady_trans (compensate_steady i _ _) (notifyWhere_steady _ _ _))

/-- The inputs regained one after another under a law in range: their gains are right, and so are those that were right
before (R89). -/
theorem foldl_regain_gains (l : List Input) {s : State} (fits : s.hac.lawFits) :
    let t := l.foldl (fun s i => regain i s) s
    t.hac.lawFits ∧ ∀ j, (j ∈ l ∨ (s.channel j).gain = s.hac.gainOf (s.channel j).live) →
      (t.channel j).gain = t.hac.gainOf (t.channel j).live := by
  induction l generalizing s with
  | nil => exact ⟨fits, fun j h => h.resolve_left List.not_mem_nil⟩
  | cons i l ih =>
    obtain ⟨fits', gain⟩ := ih (s := regain i s) ((regain_lawFits i s).2 fits)
    refine ⟨fits', fun j h => gain j ?_⟩
    rw [regain_gainOf, regain_channel]
    by_cases e : j = i
    · subst e
      exact .inr (by simp)
    · rw [if_neg e]
      exact h.imp_left fun listed => (List.mem_cons.1 listed).resolve_left e

theorem regain_steady (i : Input) (s : State) : s.steady (regain i s) := by
  have regained : s.steady { s with hac := s.hac.onChannel i fun c => { c with gain := s.hac.gainOf (s.channel i).live } } :=
    { gains := fun h => by
        obtain ⟨fits, gain⟩ := (gainsSound_iff s).1 h
        refine (gainsSound_iff _).2 ⟨fits, fun j => ?_⟩
        rw [onChannel_channel]
        split
        · rfl
        · exact gain j }
  unfold regain
  exact steady_trans regained (rebase_steady i _ _)

/-- The acceptance of a preamp law in range: every gain is computed again (R89). -/
theorem applyPlaw_steady {s : State} (staged : plawSound s.hac.staging) : s.steady (applyPlaw s) := by
  unfold applyPlaw
  dsimp only
  refine steady_trans ?_ (notifyWhere_steady _ _ _)
  have regained := foldl_regain_gains inputs
    (s := { s with hac := { s.hac with plt := s.hac.staging, marks := noMarks } })
  have kept := foldl_steady (fun s i => regain i s) (fun t i => regain_steady i t) inputs
    { s with hac := { s.hac with plt := s.hac.staging, marks := noMarks } }
  dsimp only at regained
  generalize inputs.foldl (fun s i => regain i s) _ = t at regained kept ⊢
  refine ⟨⟨kept.laws, fun h => ?_, kept.maps, kept.meters⟩, kept.periods⟩
  obtain ⟨⟨-, low, high⟩, -⟩ := (gainsSound_iff s).1 h
  obtain ⟨fits, gain⟩ := regained ⟨staged, low, high⟩
  exact (gainsSound_iff t).2 ⟨fits, fun i => gain i (.inl (List.mem_finRange i))⟩

/-! ### Clip records -/

/-- Clip records replaced by sound ones. -/
theorem clips_steady (s : State) (x : Vector Clip 48)
    (sound : (∀ i : Input, s.lmu.clips[i].sound) → ∀ i : Input, x[i].sound) :
    s.steady { s with lmu := { s.lmu with clips := x } } where
  meters h := ⟨sound h.1, h.2⟩

/-- An ARMED record with its numbers in their ranges (R156). -/
theorem Clip.sound_of_armed {c : Clip} (armed : c.state = .armed) (low : 1 ≤ c.threshold) (high : c.threshold ≤ 8388607)
    (below : c.rearm ≤ c.threshold) (held : c.magnitude ≤ 8388607) (count : c.count ≤ 255) : c.sound :=
  ⟨low, high, below, held, count, fun e => absurd (armed.symm.trans e) (by decide),
    fun e => absurd (armed.symm.trans e) (by decide)⟩

/-- A record with its captured fields cleared (R156, R158, R160). -/
theorem cleared_sound (mode : ClipMode) {threshold rearm : Nat} (low : 1 ≤ threshold) (high : threshold ≤ 8388607)
    (below : rearm ≤ threshold) :
    ({ Clip.reset with mode := mode, threshold := threshold, rearm := rearm } : Clip).sound :=
  Clip.sound_of_armed rfl low high below (Nat.zero_le _) (Nat.zero_le _)

theorem Clip.rearmed_sound {c : Clip} (h : c.sound) : c.rearmed.sound := by
  obtain ⟨low, high, below, -⟩ := h
  exact cleared_sound c.mode low high below

theorem changeClips_steady (g : Clip → Clip) (is : List Input) (s : State) (sound : ∀ c : Clip, c.sound → (g c).sound) :
    s.steady (changeClips g is s) :=
  clips_steady s _ fun h i => by
    rw [Fin.getElem_fin, mapAll_entry]
    split
    · exact sound _ (h i)
    · exact h i

/-- A capture leaves the state that the mode allows, and a record is tested within its ranges (R156). -/
theorem Clip.test_sound {c : Clip} (h : c.sound) (frame : FrameNo) (live : HeadAmp) {mag : Nat} (fits : mag ≤ 8388607) :
    (c.test frame live mag).sound := by
  obtain ⟨low, high, below, held, count, oneShot, cyclic⟩ := h
  unfold Clip.test
  split
  · next captures =>
    obtain ⟨on, -⟩ := of_decide_eq_true captures
    refine ⟨low, high, below, fits, Nat.min_le_right _ _, fun captured => ?_, fun waits => ?_⟩
    · by_contra other
      exact absurd (captured.symm.trans (if_neg other)) (by decide)
    · cases mode : c.mode with
      | off => exact absurd mode on
      | oneShot => exact absurd (waits.symm.trans (if_pos mode)) (by decide)
      | cyclic => exact mode
  · split
    · exact Clip.sound_of_armed rfl low high below held count
    · exact ⟨low, high, below, held, count, oneShot, cyclic⟩

theorem magnitude_le (x : Sample) : magnitude x ≤ 8388607 := Nat.min_le_right _ _

/-! ### Meter subscriptions -/

theorem Subscription.take_sound {n : FrameNo} {u : Subscription} (h : u.sound n) {mag : Input → Nat}
    (fits : ∀ i, mag i ≤ 8388607) : (u.take mag).sound n := by
  obtain ⟨period, some_, few, nodup, peaks, ends⟩ := h
  have names : (u.take mag).peaks.map (·.1) = u.peaks.map (·.1) := by simp [Subscription.take]
  have count : (u.take mag).peaks.length = u.peaks.length := List.length_map _
  refine ⟨period, count ▸ some_, count ▸ few, names ▸ nodup, fun p listed => ?_, ends⟩
  obtain ⟨q, hq, rfl⟩ := List.mem_map.1 listed
  exact Nat.max_le.2 ⟨peaks q hq, fits q.1⟩

/-- The samples of a frame, taken into accumulators and clip records (R154, R156). -/
theorem takeSamples_steady (s : State) : s.steady (takeSamples s) := by
  have sampled (f : Feed) : s.sampledSubscriptions[f] =
      s.lmu.subscriptions[f].map (Subscription.take fun i => magnitude (s.sample i)) := mapAll_entry _ _ f.val f.isLt
  have taken (f : Feed) (v : Subscription) (e : s.sampledSubscriptions[f] = some v) :
      ∃ u, s.lmu.subscriptions[f] = some u ∧ v = u.take fun i => magnitude (s.sample i) := by
    rw [sampled] at e
    obtain ⟨u, sub, rfl⟩ := Option.map_eq_some_iff.1 e
    exact ⟨u, sub, rfl⟩
  rw [takeSamples_told]
  refine { meters := fun h => ⟨fun i => ?_, fun f v e => ?_⟩, periods := fun h f v e => ?_ }
  · show (tab s.testedClip)[i].sound
    rw [tab_at]
    exact Clip.test_sound (h.1 i) _ _ (magnitude_le _)
  · obtain ⟨u, sub, rfl⟩ := taken f v e
    exact Subscription.take_sound (h.2 f u sub) fun i => magnitude_le _
  · obtain ⟨u, sub, rfl⟩ := taken f v e
    exact h f u sub

/-- A subscription replaced by a sound one that ends its period after the frame in progress, or by none (R153). -/
theorem setSubscription_steady (f : Feed) (x : Option Subscription) (s : State)
    (sound : s.metersSound → ∀ u, x = some u → u.sound s.ftu.frame)
    (ahead : s.periodsAhead → ∀ u, x = some u → lead s.ftu.frame u.ends < 0) : s.steady (setSubscription f x s) where
  meters h := by
    refine ⟨h.1, fun g u e => ?_⟩
    simp only [setSubscription, Fin.getElem_fin, put_entry] at e
    split at e
    · exact sound h u e
    · exact h.2 g u e
  periods h g u e := by
    simp only [setSubscription, Fin.getElem_fin, put_entry] at e
    split at e
    · exact ahead h u e
    · exact h g u e

theorem noSubscription_steady (f : Feed) (s : State) : s.steady (setSubscription f none s) :=
  setSubscription_steady f none s (fun _ _ e => nomatch e) fun _ _ e => nomatch e

/-- The lead of a period end at the start of the period (R153, R154). -/
theorem lead_unitsAfter_eq (n : FrameNo) (k : Byte) : lead (unitsAfter n k.toNat) n = k.toNat * 256 := by
  rw [unitsAfter, lead_add n _ (by omega)]
  rfl

/-- The next period begins where the one that is due ends (R154). -/
theorem Subscription.restart_sound {n : FrameNo} {u : Subscription} (h : u.sound n) (now : due u.ends n = true) :
    u.restart.sound n := by
  obtain ⟨period, some_, few, nodup, -, ahead, -⟩ := h
  have names : u.restart.peaks.map (·.1) = u.peaks.map (·.1) := by simp [Subscription.restart]
  have count : u.restart.peaks.length = u.peaks.length := List.length_map _
  have ends : lead u.restart.ends n = u.period.toNat * 256 := by
    rw [Subscription.restart, eq_of_due ahead now]
    exact lead_unitsAfter_eq n u.period
  refine ⟨period, count ▸ some_, count ▸ few, names ▸ nodup, fun p listed => ?_, by omega, ends.le⟩
  obtain ⟨q, -, rfl⟩ := List.mem_map.1 listed
  exact Nat.zero_le _

theorem meterBlock_steady (f : Feed) (peaks : List (Input × Nat)) (s : State) : s.steady (meterBlock f peaks s) := by
  unfold meterBlock
  split
  · exact steady_refl s
  · exact notifyIf_steady _ _ _ _

theorem periodEnd_steady (f : Feed) (s : State) : s.steady (periodEnd f s) := by
  unfold periodEnd
  split
  · next u sub =>
    split
    · next now =>
      refine steady_trans (setSubscription_steady f (some u.restart) s (fun h v e => ?_) fun h v e => ?_)
        (steady_trans (meterBlock_steady _ _ _) (steady_trans (meterBlock_steady _ _ _) (meterBlock_steady _ _ _)))
      · cases e
        exact Subscription.restart_sound (h.2 f u sub) now
      · exact absurd ((due_iff _ _).1 now) (Int.not_le.2 (h f u sub))
    · exact steady_refl s
  · exact steady_refl s

theorem periodEnds_steady (s : State) : s.steady (periodEnds s) :=
  steady_trans (periodEnd_steady 0 s) (steady_trans (periodEnd_steady 1 _)
    (steady_trans (periodEnd_steady 2 _) (periodEnd_steady 3 _)))

/-- After the period ends of a frame no period ends in it or before it (R154). -/
theorem periodEnds_ahead {s : State} (h : s.metersSound) : (periodEnds s).periodsAhead := by
  intro f v e
  rw [(periodEnds_near s).ftu]
  rw [periodEnds_subscription] at e
  obtain ⟨u, sub, rfl⟩ := Option.map_eq_some_iff.1 e
  obtain ⟨period, -, -, -, -, ahead, -⟩ := h.2 f u sub
  exact renewed_ahead period ahead

/-- A restart ends every subscription (R165). -/
theorem restart_steady (s : State) : s.steady (restart s) where
  meters h := ⟨h.1, fun f u e => by simp [restart] at e⟩
  periods h f u e := by simp [restart] at e

end Sys2Proof.Machine
end

section
/-! PROOFS. Gain laws, analogue gains, maps, meters and clip records kept sound by every step (R18, R22, R63, R66, R72, R153,
R156). -/

namespace Sys2Proof.Machine

/-! ### Link ports, timers and scenes -/

theorem goOnline_steady (f : Feed) (r : Role) (s : State) : s.steady (goOnline f r s) :=
  steady_trans (t := resetAssembler f { s with lnk := _ }) {} (reportCame_steady _ _)

theorem moveControl_steady (f : Feed) (r : Role) (s : State) : s.steady (moveControl f r s) := {}

theorem goOffline_steady (f : Feed) (s : State) : s.steady (goOffline f s) :=
  steady_trans (noSubscription_steady f s)
    (steady_trans (t := { setSubscription f none s with lnk := _, cle := _, scu := _ }) {} (reportGone_steady _ _))

theorem portUp_steady (f : Feed) (r : Role) (s : State) : s.steady (portUp f r s) := by
  unfold portUp
  split
  · exact goOnline_steady f r s
  · split
    · exact moveControl_steady f .main s
    · exact steady_refl s

theorem portDown_steady (f : Feed) (r : Role) (s : State) : s.steady (portDown f r s) := by
  unfold portDown
  split
  · split
    · exact moveControl_steady f r.other s
    · exact goOffline_steady f s
  · exact steady_refl s

theorem takeOutcome_steady (f : Feed) (r : Role) (good : Bool) (s : State) : s.steady (takeOutcome f r good s) := by
  unfold takeOutcome
  dsimp only
  split
  · exact steady_trans {} (portUp_steady _ _ _)
  · split
    · exact steady_trans {} (portDown_steady _ _ _)
    · exact {}

theorem takeHeld_steady (f : Feed) (r : Role) (s : State) : s.steady (takeHeld f r s) := by
  unfold takeHeld
  split
  · exact takeOutcome_steady f r false s
  · exact steady_refl s

theorem portOutcome_steady (f : Feed) (r : Role) (late : Bool) (o : UpOutcome) (s : State) :
    s.steady (portOutcome f r late o s) := by
  unfold portOutcome
  split
  · next som bytes =>
    exact steady_trans (t := deliverBytes f r late som bytes s) {}
      (steady_trans (takeOutcome_steady _ _ _ _) (takeHeld_steady _ _ _))
  · split
    · exact {}
    · exact steady_trans (takeOutcome_steady _ _ _ _) (takeHeld_steady _ _ _)

theorem missingLinks_steady (s : State) : s.steady (missingLinks s) := by
  refine foldl_steady _ (fun t p => ?_) _ s
  unfold missingLink
  split
  · exact steady_refl t
  · exact portOutcome_steady _ _ _ _ t

theorem revertTimer_steady (s : State) : s.steady (revertTimer s) := ftuEvent_steady (revertExpiry_sameBut _)

theorem holdoverTimer_steady (s : State) : s.steady (holdoverTimer s) := ftuEvent_steady (holdoverExpiry_sameBut _)

theorem act_steady (f : Feed) (e : SceneEntry) (s : State) : s.steady (e.act f s) := by
  unfold SceneEntry.act
  split
  · exact change_steady _ _ s
  · exact changeTap_steady _ _ _ _
  · exact changeTap_steady _ _ _ _

theorem runEntries_steady (f : Feed) (es : List SceneEntry) :
    ∀ (k : Nat) (s : State) (r : SceneResult), s.steady (runEntries f k es s r).1 := by
  induction es with
  | nil => exact fun _ s _ => steady_refl s
  | cons e es ih =>
    intro k s r
    unfold runEntries
    split
    · exact steady_trans (act_steady f e s) (ih _ _ _)
    · exact ih _ _ _

theorem executeScene_steady (f : Feed) (es : List SceneEntry) (s : State) : s.steady (executeScene f es s).1 :=
  steady_trans (t := setOpenScene f none s) {} (runEntries_steady f es 0 _ _)

theorem sceneDue_steady (s : State) : s.steady (sceneDue s) := by
  unfold sceneDue
  split
  · exact steady_refl s
  · split
    · exact steady_trans (t := { s with scu := _ }) {}
        (steady_trans (runEntries_steady _ _ 0 _ _) (notifyIf_steady _ _ _ _))
    · exact steady_refl s

theorem scenesDue_steady (s : State) : s.steady (scenesDue s) :=
  steady_trans (sceneDue_steady s) (steady_trans (sceneDue_steady _)
    (steady_trans (sceneDue_steady _) (sceneDue_steady _)))

/-! ### Subscribed inputs -/

/-- A channel set has a member (R30). -/
theorem parseSet_members {ps after : List Byte} {set : ChannelSet} (h : parseSet ps = some (set, after)) :
    set.members ≠ [] := by
  unfold parseSet at h
  split at h
  · cases h
  · split at h
    · cases h
    · split at h
      · cases h
        exact List.cons_ne_nil _ _
      · split at h
        · next fits =>
          cases h
          simp only [ne_eq, List.map_eq_nil_iff, List.range_eq_nil]
          omega
        · cases h
      · split at h
        · next fits =>
          cases h
          intro empty
          have count := congrArg List.length empty
          simp only [List.length_map, List.length_take, List.length_nil] at count
          omega
        · cases h
      · cases h

/-- The set of a subscription has a member (R153). -/
theorem parseSubscribe_members {ps : List Byte} {p : Byte × Option ChannelSet} {set : ChannelSet}
    (h : parseSubscribe ps = some p) (listed : p.2 = some set) : set.members ≠ [] := by
  have parsed := parseSubscribe_set h
  rw [listed] at parsed
  obtain ⟨⟨_, after⟩, parses, rfl⟩ := Option.map_eq_some_iff.1 parsed
  exact parseSet_members parses

/-- A set whose members all pass gives an input at least (R31 to R33). -/
theorem resolve_ne_nil {u : State} {f : Feed} {set : ChannelSet} {check : Input → Option Result} {is : List Input}
    (members : set.members ≠ []) (h : u.resolve f set check = .ok is) : is ≠ [] := by
  obtain ⟨passes, e⟩ := resolveFrom_ok set.members 0 [] is h fun i hi => absurd hi List.not_mem_nil
  obtain ⟨m, ms, first⟩ := List.exists_cons_of_ne_nil members
  obtain ⟨i, translated, -⟩ := passes m (first ▸ List.mem_cons_self)
  refine List.ne_nil_of_mem (a := i) ?_
  rw [e, first]
  simp [translations, translated, Except.toOption]

/-- A new subscription on the inputs of a set (R153). -/
theorem newSubscription_sound {is : List Input} (nodup : is.Nodup) (some_ : is ≠ []) (n : FrameNo) (b : Byte) :
    Subscription.sound n { period := periodOf b, ends := unitsAfter n (periodOf b).toNat
                           peaks := is.map fun i => (i, 0) } := by
  have names : (is.map fun i => (i, 0)).map (·.1) = is := by
    rw [List.map_map]
    exact List.map_id is
  have ends := lead_unitsAfter_eq n (periodOf b)
  refine ⟨periodOf_ne_zero b, ?_, ?_, ?_, fun p listed => ?_, ?_, ends.le⟩
  · rw [List.length_map]
    exact List.length_pos_of_ne_nil some_
  · rw [List.length_map]
    exact nodup.length_le_card.trans_eq (Fintype.card_fin 48)
  · rw [names]
    exact nodup
  · obtain ⟨i, -, rfl⟩ := List.mem_map.1 listed
    exact Nat.zero_le _
  · show 0 ≤ lead (unitsAfter n (periodOf b).toNat) n
    omega

/-! ### Requests -/

theorem runRequest_steady {α : Type} {k : ReqKind} {parsed : Option α} {form : α → Bool} {f : Feed}
    {body : α → State → Reply} {s : State} (h : ∀ p, parsed = some p → s.steady (body p s).1) :
    s.steady (runRequest k parsed form f body s).1 := by
  unfold runRequest
  cases parsed with
  | none => exact steady_refl s
  | some p =>
    dsimp only
    repeat' split
    · exact steady_refl s
    · exact steady_refl s
    · exact steady_refl s
    · exact h p rfl

theorem onInputs_steady {f : Feed} {set : ChannelSet} {check : State → Input → Option Result}
    {body : List Input → State → Reply} {s : State} (h : ∀ is, s.resolve f set (check s) = .ok is → s.steady (body is s).1) :
    s.steady (onInputs f set check body s).1 := by
  unfold onInputs
  split
  · exact steady_refl s
  · next is resolves => exact h is resolves

theorem accept_steady {s t : State} {r : Result} {fields : List Byte} (h : s.steady t) :
    s.steady (accept r fields t).1 := h

theorem reqMapWindows_steady (f : Feed) (ps : List Byte) (s : State) : s.steady (reqMapWindows f ps s).1 := by
  refine runRequest_steady fun fields parsed => ?_
  split
  · exact steady_refl s
  · next ws reduced checked =>
    obtain ⟨count, fit⟩ := checkWindows_sound checked
    exact acceptWindows_steady f s (count.trans (parseWindows_few parsed)) fit

theorem reqLawApply_steady (f : Feed) (ps : List Byte) (s : State) : s.steady (reqLawApply f ps s).1 := by
  refine runRequest_steady fun _ _ => ?_
  split
  · exact steady_refl s
  · split
    · exact steady_refl s
    · next pass =>
      have sound : lawSound s.tgu.staging := (gltFault_none _).1 (by rw [pass]; rfl)
      exact accept_steady (steady_trans (lawPending_steady s sound _ _) (notifyWhere_steady _ _ _))

theorem reqPlawApply_steady (f : Feed) (ps : List Byte) (s : State) : s.steady (reqPlawApply f ps s).1 := by
  refine runRequest_steady fun _ _ => ?_
  split
  · exact steady_refl s
  · split
    · exact steady_refl s
    · next pass => exact applyPlaw_steady ((pltFault_none _).1 (by rw [pass]; rfl))

theorem reqMtrSubscribe_steady (f : Feed) (ps : List Byte) (s : State) : s.steady (reqMtrSubscribe f ps s).1 := by
  refine runRequest_steady fun p parsed => ?_
  split
  · exact noSubscription_steady f s
  · next set listed =>
    refine onInputs_steady fun is resolves => ?_
    have some_ := resolve_ne_nil (parseSubscribe_members parsed listed) resolves
    obtain ⟨nodup, -⟩ := resolve_sound _ _ _ _ _ resolves
    refine setSubscription_steady f _ s (fun _ u e => ?_) fun _ u e => ?_
    · cases e
      exact newSubscription_sound nodup some_ _ p.1
    · cases e
      exact lead_unitsAfter _ _ (periodOf_ne_zero p.1)

theorem reqClipSet_steady (f : Feed) (ps : List Byte) (s : State) : s.steady (reqClipSet f ps s).1 := by
  refine runRequest_steady fun p _ => onInputs_steady fun is _ => changeClips_steady _ is s fun c _ => ?_
  exact cleared_sound p.mode (Nat.le_max_left _ _) (Nat.max_le.2 ⟨by decide, Nat.min_le_right _ _⟩) (Nat.min_le_right _ _)

theorem reqScnCommit_steady (f : Feed) (ps : List Byte) (s : State) : s.steady (reqScnCommit f ps s).1 := by
  refine runRequest_steady fun mode _ => ?_
  split
  · exact steady_refl s
  · exact steady_refl s
  · split
    · exact executeScene_steady f _ s
    · split
      · exact executeScene_steady f _ s
      · split
        · exact steady_refl s
        · split
          · exact steady_refl s
          · exact {}

theorem reqOwnClaim_steady (f : Feed) (ps : List Byte) (s : State) : s.steady (reqOwnClaim f ps s).1 := by
  refine runRequest_steady fun set _ => ?_
  dsimp only
  split
  · unfold refuseAt
    dsimp only
    split
    · exact foldl_steady _ (fun _ _ => claimSeen_steady _ _ _) _ s
    · exact steady_refl s
  · exact accept_steady (foldl_steady _ (fun _ _ => setOwner_steady _ _ _ _) _ s)

theorem executeKind_steady (f : Feed) (ps : List Byte) (k : ReqKind) (s : State) : s.steady (executeKind f ps k s).1 := by
  cases k with
  | mapWindows => exact reqMapWindows_steady f ps s
  | lawApply => exact reqLawApply_steady f ps s
  | plawApply => exact reqPlawApply_steady f ps s
  | mtrSubscribe => exact reqMtrSubscribe_steady f ps s
  | clipSet => exact reqClipSet_steady f ps s
  | scnCommit => exact reqScnCommit_steady f ps s
  | ownClaim => exact reqOwnClaim_steady f ps s
  | clipAck =>
    exact runRequest_steady fun _ _ => onInputs_steady fun is _ =>
      changeClips_steady _ is s fun _ sound => Clip.rearmed_sound sound
  | tapTrim | tapMode | tapAnchor | tapMute =>
    exact runRequest_steady fun _ _ => onInputs_steady fun is _ => accept_steady (changeTaps_steady _ _ is s)
  | haSet =>
    exact runRequest_steady fun p _ => onInputs_steady fun is _ => accept_steady
      (foldl_steady (fun s i => setHeadAmp (p.code.map codeOf) p.pad p.phantom i s) (fun t i => change_steady i _ t) is s)
  | haNudge =>
    exact runRequest_steady fun p _ => onInputs_steady fun is _ => accept_steady
      (foldl_steady (fun s i => nudgeHeadAmp p.2 i s) (fun t i => change_steady i _ t) is s)
  | ownRelease | ownAssign =>
    exact runRequest_steady fun _ _ => onInputs_steady fun is _ => accept_steady
      (foldl_steady _ (fun _ _ => setOwner_steady _ _ _ _) is s)
  | clockSet =>
    refine runRequest_steady fun p _ => ?_
    dsimp only
    split
    · exact steady_refl s
    · exact accept_steady (setClock_steady _ _ s)
  | devRestart =>
    refine runRequest_steady fun _ _ => ?_
    split
    · exact steady_refl s
    · exact accept_steady (restart_steady s)
  | tapGet | haGet | clipGet => exact runRequest_steady fun _ _ => onInputs_steady fun _ _ => accept_steady (steady_refl s)
  | mapGet | scnList => exact runRequest_steady fun _ _ => accept_steady (steady_refl s)
  | devStatus | feedGlide => exact runRequest_steady fun _ _ => accept_steady {}
  | scnAdd =>
    refine runRequest_steady fun p _ => ?_
    split
    · exact steady_refl s
    · refine onInputs_steady fun is _ => ?_
      dsimp only
      split <;> exact {}
  | storeSave | lawStage | plawStage | lawGet | supervisorSet | scnOpen | scnCancel =>
    refine runRequest_steady fun _ _ => ?_
    repeat' split
    all_goals exact {}

theorem execute_steady (f : Feed) (m : Message) (s : State) : s.steady (execute f m s).1 := by
  unfold execute
  split
  · exact steady_refl s
  · exact executeKind_steady f m.params _ s

/-! ### The round -/

theorem grant_steady (f : Feed) (m : Message) (s : State) : s.steady (grant f m s) :=
  steady_trans (execute_steady f m s) {}

theorem consider_steady (f : Feed) (s : State) : s.steady (consider f s) := by
  unfold consider
  split
  · exact {}
  · split
    · exact steady_trans (t := popRequest f s) {} (grant_steady f _ _)
    · exact {}

theorem round_steady (s : State) : s.steady (round s) := foldl_steady _ (fun t f => consider_steady f t) _ s

theorem roundUpTo_steady (f : Feed) (s : State) : s.steady (roundUpTo f s) :=
  foldl_steady _ (fun t g => consider_steady g t) _ s

/-! ### The frame -/

theorem beforeStep_steady (s : State) : s.steady (beforeStep s) :=
  steady_trans (settleEnds_steady s) (steady_trans (mapsInForce_steady _) (steady_trans (lawInEffect_steady _)
    (steady_trans (missingConverters_steady _) (foldl_steady _ (fun t i => effective_steady i t) inputs _))))

theorem opened_steady (s : State) : s.steady s.opened := {}

theorem openFrame_steady (s : State) : s.steady (openFrame s) := by
  cases stepped : s.stepped with
  | true =>
    rw [openFrame_of_stepped stepped]
    exact steady_refl s
  | false =>
    rw [openFrame_eq s stepped]
    exact steady_trans (beforeStep_steady s) (steady_trans (stepTaps_steady _) (steady_trans (takeSamples_steady _)
      (opened_steady _)))

theorem beforeRequests_steady (s : State) : s.steady (beforeRequests s) :=
  steady_trans (openFrame_steady s) (periodEnds_steady _)

theorem submit_steady (f : Feed) (m : Message) (s : State) : s.steady (submit f m s) := by
  unfold submit
  split
  · split
    · exact steady_trans (beforeRequests_steady s) (steady_trans (roundUpTo_steady f _) (grant_steady f m _))
    · exact {}
  · exact steady_refl s

theorem afterRound_steady (s : State) : s.steady (afterRound s) :=
  steady_trans (t := lateArrivals s) {} (steady_trans (missingLinks_steady _) (steady_trans (revertTimer_steady _)
    (steady_trans (holdoverTimer_steady _) (steady_trans (scenesDue_steady _)
      (foldl_steady (fun t b => busOpportunity b t) (fun t b => busOpportunity_steady b t) (List.finRange 6) _)))))

/-- Everything of a frame after its period ends. -/
theorem frameEvents_steady (s : State) : (beforeRequests s).steady (frameEvents s) :=
  steady_trans (round_steady _) (afterRound_steady _)

/-- A frame number after the one in progress is one frame nearer in the next (R1). -/
theorem lead_nextFrame {x n : FrameNo} (ahead : 0 < lead x n) : lead x (n + 1) = lead x n - 1 := by
  have one : (1 : FrameNo).toNat = 1 := rfl
  simp only [lead, BitVec.toInt_eq_toNat_cond, BitVec.toNat_sub, BitVec.toNat_add, one] at *
  omega

/-- The end of a frame in which no period end is left (R1, R154). -/
theorem nextFrame_metersSound {s : State} (h : s.metersSound) (periods : s.periodsAhead) : (nextFrame s).metersSound := by
  refine ⟨h.1, fun f u e => ?_⟩
  obtain ⟨period, some_, few, nodup, peaks, first, last⟩ := h.2 f u e
  have ahead := periods f u e
  rw [lead_swap first] at ahead
  have next : lead u.ends (s.ftu.frame + 1) = lead u.ends s.ftu.frame - 1 := lead_nextFrame (by omega)
  refine ⟨period, some_, few, nodup, peaks, ?_, ?_⟩
  · show 0 ≤ lead u.ends (s.ftu.frame + 1)
    omega
  · show lead u.ends (s.ftu.frame + 1) ≤ _
    omega

/-! ### Loads -/

theorem settings_sound (j : Judgement) : j.settings.sound := by
  cases j with
  | valid sections => exact ofSections_sound sections
  | invalid => exact witness_StoredImageGivesBackSettings

/-- The blocks take the loaded values: tables and records in their ranges, maps expanded at the rate they are sent at, and
gains of the live values under the law loaded (R28, R70, R92 to R94, R160). -/
theorem takeSettings_steady (kind : LoadKind) (j : Judgement) (s : State) : s.steady (takeSettings kind j s) := by
  obtain ⟨-, -, -, -, padLow, padHigh, clips, glt, plt, windows, -⟩ := settings_sound j
  have fits : (loadedHac kind j.settings s.hac).lawFits := by cases kind <;> exact ⟨plt, padLow, padHigh⟩
  refine { laws := fun _ => ⟨glt, fun p e => nomatch e⟩
           gains := fun _ => (gainsSound_iff _).2 ⟨fits, loadedHac_gain kind j.settings s.hac⟩
           maps := fun _ f => ?_
           meters := fun h => ⟨fun i => ?_, h.2⟩ }
  · obtain ⟨few, fit⟩ := windows f
    show FeedMap.sound _ (loadSmu _ j.settings).maps[f]
    rw [loadSmu, tab_at]
    exact ⟨ofWindows_sound _ few fit, fun p e => nomatch e⟩
  · obtain ⟨low, high, below⟩ := clips i
    show (loadClips j.settings s.lmu).clips[i].sound
    rw [loadClips, tab_at]
    exact cleared_sound _ low high below

theorem becomeReady_steady (s : State) : s.steady (becomeReady s) := by
  unfold becomeReady
  split
  · exact takeSettings_steady _ _ s
  · exact steady_refl s

theorem completeLoad_steady (r : EepromRead) (s : State) : s.steady (completeLoad r s) := by
  unfold completeLoad
  split
  · next kind _ =>
    cases kind with
    | restart => exact {}
    | powerOn =>
      exact blocks_steady (evaluateList_frame_rate _ _ _ _).1 (evaluateList_frame_rate _ _ _ _).2 rfl rfl rfl rfl
  · exact steady_refl s

theorem completeSave_steady (x : SaveEnd) (s : State) : s.steady (completeSave x s) := by
  unfold completeSave
  split
  · exact steady_refl s
  · exact steady_trans (t := { s with sil := _ }) {} (notifyIf_steady _ _ _ _)

theorem transmit_steady (s : State) : s.steady (transmit s) := {}

/-- The next frame begins with the tables and records of this one, as long as no period end is left behind (R1, R154). -/
theorem nextFrame_keepsTables {s t : State} (kept : s.keepsTables t) (periods : s.metersSound → t.periodsAhead) :
    s.keepsTables (nextFrame t) where
  laws h := kept.laws h
  gains h := kept.gains h
  maps h := kept.maps h
  meters h := nextFrame_metersSound (kept.meters h) (periods h)

theorem tick_keepsTables (s : State) : s.keepsTables (tick s) := by
  have events := steady_trans (frameEvents_steady s) (transmit_steady _)
  have kept := (steady_trans (beforeRequests_steady s) events).1
  have ended := nextFrame_keepsTables kept fun h => events.periods (periodEnds_ahead ((openFrame_steady s).meters h))
  exact keepsTables_trans ended (becomeReady_steady _).1

/-! ### Reset -/

theorem powerOn_steady (s : State) : s.steady (powerOn s) := by
  refine { laws := fun _ => ⟨test_builtin_law_sound, fun p e => nomatch e⟩
           gains := fun _ => ?_
           maps := fun _ f => ?_
           meters := fun _ => ⟨fun i => ?_, fun f u e => ?_⟩
           periods := fun _ f u e => ?_ }
  · refine (gainsSound_iff _).2 ⟨⟨test_builtin_plaw_sound, (by decide : (-255 : Int) ≤ -160),
      (by decide : (-160 : Int) ≤ 0)⟩, fun i => ?_⟩
    have channel : (powerOn s).channel i = Channel.reset := tab_at _ i
    rw [channel]
    show 0 = gainOf builtinPlt (-160) HeadAmp.zero
    decide
  · show FeedMap.sound .k48 Smu.reset.maps[f]
    rw [Smu.reset, tab_at]
    exact ⟨⟨by decide, fun w h => absurd h List.not_mem_nil, rfl⟩, fun p e => nomatch e⟩
  · show Lmu.reset.clips[i].sound
    rw [Lmu.reset, tab_at]
    exact cleared_sound .off (by decide) (by decide) (by decide)
  · exact nomatch (tab_at (fun _ => none) f).symm.trans e
  · exact nomatch (tab_at (fun _ => none) f).symm.trans e

/-! ### Every command -/

theorem next_keepsTables {r s t : State} (h : r.keepsTables s)
    (e : (Host.Outcome.next s : Host.Outcome State Fault Refusal) = .next t) : r.keepsTables t := by
  cases e
  exact h

theorem exec_keepsTables (c : Instr) {s t : State} (e : exec c s = .next t) : s.keepsTables t := by
  have opened {u : State} (a : (openFrame s).steady u) : s.keepsTables u := (steady_trans (openFrame_steady s) a).1
  cases req : c.request with
  | some r =>
    obtain ⟨f, tag, kind, ps⟩ := r
    rw [exec_request req] at e
    exact next_keepsTables (submit_steady f _ s).1 e
  | none =>
    cases c with
    | reset => exact next_keepsTables (powerOn_steady s).1 e
    | frameTick => exact next_keepsTables (tick_keepsTables s) e
    | converterFrame g x => exact next_keepsTables (converterOutcome_steady g _ s).1 e
    | upstreamFrame p x late => exact next_keepsTables (portOutcome_steady _ _ late (judgeUpstream x) s).1 e
    | wordclockPresent => exact next_keepsTables (wordclockPresent_steady s).1 e
    | wordclockAbsent => exact next_keepsTables (wordclockAbsent_steady s).1 e
    | revertTimerExpiry => exact next_keepsTables (revertTimer_steady s).1 e
    | holdoverTimerExpiry => exact next_keepsTables (holdoverTimer_steady s).1 e
    | busSendOpportunity b => exact next_keepsTables (opened (busOpportunity_steady b _)) e
    | effectiveEvent i => exact next_keepsTables (effective_steady i s).1 e
    | settleMuteEnd i => exact next_keepsTables (settleEnd_steady i s).1 e
    | sceneExecution => exact next_keepsTables (opened (sceneDue_steady _)) e
    | meterPeriodEnd f => exact next_keepsTables (opened (periodEnd_steady f _)) e
    | pendingMapInForce f => exact next_keepsTables (mapInForce_steady f s).1 e
    | pendingLawInEffect => exact next_keepsTables (lawInEffect_steady s).1 e
    | loadComplete x => exact next_keepsTables (completeLoad_steady x s).1 e
    | saveComplete x => exact next_keepsTables (completeSave_steady x s).1 e
    | _ => cases req

/-- Settles O55: a step takes the command at the front of the queue, and every command keeps tables and records sound. -/
theorem tablesAndRecordsStaySound : Obligations.TablesAndRecordsStaySound := by
  intro s t e
  have kept : s.keepsTables t := by
    unfold step at e
    split at e
    · cases e
      exact {}
    · next c rest _ => exact keepsTables_trans (t := { s with pending := rest }) {} (exec_keepsTables c e)
  exact ⟨kept.laws, kept.gains, kept.maps, kept.meters⟩

end Sys2Proof.Machine
end

section
/-! PROOFS. The samples of the slots, and the coefficient arithmetic (R17, R59 to R62, R66). -/

namespace Sys2Proof.Machine

/-! ### Slots -/

theorem loading_iff (s : State) : s.loading = true ↔ s.sil.load ≠ .ready := decide_eq_true_iff

/-- The pattern value is the frame number modulo 2^24, read as a sample (R62). -/
theorem patternValue_toInt (n : FrameNo) :
    (patternValue n).toInt =
      let u : Int := (n.toNat % 16777216 : Nat)
      if u ≤ 8388607 then u else u - 16777216 := by
  unfold patternValue
  simp only [BitVec.toInt_eq_toNat_cond, BitVec.toNat_setWidth]
  split <;> split <;> omega

/-- Settles O5: only the pattern value needs an argument, as the frame number cut to 24 bits. -/
theorem silenceAndPatternSlots : Obligations.SilenceAndPatternSlots := by
  intro s f
  refine ⟨rfl, ?_, fun i => ?_⟩
  · simp only [State.slotSample, loading_iff]
    split
    · rfl
    · exact patternValue_toInt _
  · simp only [State.slotSample, loading_iff]

/-! ### The parts of a trim -/

/-- The octave and step of a trim in range (R59). -/
theorem trim_split {t : Int} (h : inTrim t) :
    t = 48 * octave t + (stepPart t).val ∧ -7 ≤ octave t ∧ octave t ≤ 4 := by
  unfold inTrim at h
  unfold octave stepPart
  dsimp only
  omega

/-- The shift of a trim in range (R59). -/
theorem shiftOf_eq {t : Int} (h : inTrim t) : (shiftOf t : Int) = 23 - octave t := by
  have := trim_split h
  unfold shiftOf
  omega

/-- The step part lies in the table, and octave and step order trims (R59). -/
theorem trim_order {t v : Int} (le : t ≤ v) :
    octave t < octave v ∨ octave t = octave v ∧ stepPart t ≤ stepPart v := by
  unfold octave stepPart
  simp only [Fin.mk_le_mk]
  omega

/-! ### Rounding -/

/-- The rounded quotient is the integer nearest to p / 2^h, halves upward (R60). -/
theorem roundShift_nearest (p : Int) (h : Nat) :
    2 ^ h * roundShift p h ≤ p + 2 ^ (h - 1) ∧ p + 2 ^ (h - 1) < 2 ^ h * (roundShift p h + 1) := by
  have pos : (0 : Int) < 2 ^ h := by positivity
  rw [mul_add, mul_one]
  exact ⟨Int.mul_ediv_self_le pos.ne', Int.lt_mul_ediv_self_add pos⟩

theorem roundShift_mono {p v : Int} (le : p ≤ v) (h : Nat) : roundShift p h ≤ roundShift v h :=
  Int.ediv_le_ediv (by positivity) (Int.add_le_add_right le _)

/-- Half of the divisor that a shift stands for. -/
theorem two_pow_half {h : Nat} (pos : 1 ≤ h) : (2 : Int) ^ h = 2 * 2 ^ (h - 1) := by
  rw [← pow_succ', Nat.sub_add_cancel pos]

/-- A multiple of the divisor loses nothing (R60). -/
theorem roundShift_exact (x : Int) {h : Nat} (pos : 1 ≤ h) : roundShift (x * 2 ^ h) h = x := by
  have half := two_pow_half pos
  have low : (0 : Int) < 2 ^ (h - 1) := by positivity
  rw [roundShift, add_comm, Int.add_mul_ediv_right _ _ (by omega), Int.ediv_eq_zero_of_lt (by omega) (by omega), zero_add]

/-- A product at a shift is the product taken `k` places up at a shift of `k` more (R60). -/
theorem roundShift_scale (p : Int) {h : Nat} (pos : 1 ≤ h) (k : Nat) :
    roundShift (p * 2 ^ k) (h + k) = roundShift p h := by
  have half : (2 : Int) ^ (h + k - 1) = 2 ^ (h - 1) * 2 ^ k := by
    rw [← pow_add]
    congr 1
    omega
  rw [roundShift, half, ← add_mul, pow_add, Int.mul_ediv_mul_of_pos_left _ _ (by positivity), roundShift]

theorem roundShift_zero {h : Nat} (pos : 1 ≤ h) : roundShift 0 h = 0 := by
  simpa using roundShift_exact 0 pos

/-! ### The output sample -/

theorem saturate_eq (y : Int) :
    saturate y = if 8388607 < y then 8388607 else if y < -8388608 then -8388608 else y := by
  unfold saturate clampTo
  split <;> split <;> omega

/-- A number in the sample range is a sample (R61). -/
theorem outputSample_toInt (m : Vector Mantissa 48) (x : Sample) (t : Int) :
    (outputSample m x t).toInt = saturate (roundShift (x.toInt * (m[stepPart t].toNat : Int)) (shiftOf t)) := by
  have range : -8388608 ≤ outputValue m x.toInt t ∧ outputValue m x.toInt t ≤ 8388607 := by
    rw [outputValue, saturate_eq]
    split <;> omega
  rw [outputSample, BitVec.toInt_ofInt_eq_self (by decide) range.1 (by omega)]
  rfl

theorem sample_range (x : Sample) : -8388608 ≤ x.toInt ∧ x.toInt ≤ 8388607 :=
  ⟨x.le_toInt, Int.le_of_lt_add_one x.toInt_lt⟩

/-- The product of a sample and a mantissa (R60). -/
theorem product_natAbs_lt (x : Sample) (m : Mantissa) : (x.toInt * (m.toNat : Int)).natAbs < 2 ^ 47 := by
  have range := sample_range x
  have le : x.toInt.natAbs * m.toNat ≤ 8388608 * 16777215 := Nat.mul_le_mul (by omega) (by omega)
  rw [Int.natAbs_mul, Int.natAbs_natCast]
  omega

/-- Settles O7: the octave, step and shift of the trim, and the rounding of the product at that shift. -/
theorem outputSampleArithmetic : Obligations.OutputSampleArithmetic := by
  intro m x t low high
  obtain ⟨split, least, most⟩ := trim_split ⟨low, high⟩
  have shift := shiftOf_eq ⟨low, high⟩
  have mantissa : 0 ≤ (m[stepPart t].toNat : Int) := Int.natCast_nonneg _
  have pos : 1 ≤ shiftOf t := by omega
  have zero := roundShift_zero pos
  obtain ⟨below, above⟩ := roundShift_nearest (x.toInt * (m[stepPart t].toNat : Int)) (shiftOf t)
  refine ⟨octave t, stepPart t, shiftOf t, roundShift (x.toInt * (m[stepPart t].toNat : Int)) (shiftOf t), split, least,
    most, by omega, by omega, shift, by omega, by omega, product_natAbs_lt x _, below, above, fun sign => ?_,
    fun sign => ?_, fun unity gain => ?_, ?_⟩
  · rw [← zero]
    exact roundShift_mono (mul_nonneg sign mantissa) _
  · rw [← zero]
    exact roundShift_mono (mul_nonpos_of_nonpos_of_nonneg sign mantissa) _
  · subst unity
    rw [show m[stepPart 0].toNat = 8388608 from gain]
    exact roundShift_exact x.toInt (h := 23) (by decide)
  · rw [outputSample_toInt, saturate_eq]

/-! ### The gain law -/

/-- The multiplier of a trim in units of 2^-30, the finest shift of R59. -/
def multiplier (m : Vector Mantissa 48) (t : Int) : Nat := m[stepPart t].toNat * 2 ^ (30 - shiftOf t)

/-- The output sample by its multiplier (R60, R61). -/
theorem outputSample_multiplier (m : Vector Mantissa 48) (x : Sample) {t : Int} (h : inTrim t) :
    (outputSample m x t).toInt = saturate (roundShift (x.toInt * (multiplier m t : Int)) 30) := by
  obtain ⟨-, least, most⟩ := trim_split h
  have shift := shiftOf_eq h
  have whole : shiftOf t + (30 - shiftOf t) = 30 := by omega
  have scaled := roundShift_scale (x.toInt * (m[stepPart t].toNat : Int)) (h := shiftOf t) (by omega) (30 - shiftOf t)
  rw [whole] at scaled
  rw [outputSample_toInt, ← scaled, multiplier, Nat.cast_mul, mul_assoc, Nat.cast_pow, Nat.cast_ofNat]

/-- Under a sound law the multiplier never falls as the trim rises: within an octave by the order of the entries, over
octaves because M[47] is at most twice M[0] (R66). -/
theorem multiplier_mono {m : Vector Mantissa 48} (sound : lawSound m) {t v : Int} (low : inTrim t) (high : inTrim v)
    (le : t ≤ v) : multiplier m t ≤ multiplier m v := by
  obtain ⟨-, order, last⟩ := sound
  have shiftT := shiftOf_eq low
  have shiftV := shiftOf_eq high
  obtain ⟨-, least, most⟩ := trim_split low
  obtain ⟨-, least', most'⟩ := trim_split high
  unfold multiplier
  rcases trim_order le with octaves | ⟨same, steps⟩
  · have double : m[stepPart t].toNat ≤ 2 * m[stepPart v].toNat := by
      have top : m[stepPart t].toNat ≤ m[47].toNat := order (stepPart t) 47 (Fin.le_last _)
      have bottom : m[0].toNat ≤ m[stepPart v].toNat := order 0 (stepPart v) (Fin.zero_le _)
      omega
    calc m[stepPart t].toNat * 2 ^ (30 - shiftOf t)
        ≤ 2 * m[stepPart v].toNat * 2 ^ (30 - shiftOf t) := Nat.mul_le_mul_right _ double
      _ = m[stepPart v].toNat * 2 ^ (30 - shiftOf t + 1) := by ring
      _ ≤ m[stepPart v].toNat * 2 ^ (30 - shiftOf v) :=
        Nat.mul_le_mul_left _ (Nat.pow_le_pow_right (by decide) (by omega))
  · rw [show shiftOf t = shiftOf v by omega]
    exact Nat.mul_le_mul_right _ (order _ _ steps)

/-- Saturation never lowers the larger of two magnitudes on the same side of 0 (R61). -/
theorem saturate_natAbs_mono {y z : Int} (h : 0 ≤ y ∧ y ≤ z ∨ z ≤ y ∧ y ≤ 0) :
    (saturate y).natAbs ≤ (saturate z).natAbs := by
  simp only [saturate_eq]
  split_ifs <;> omega

/-- Settles O8: product, rounding and saturation are monotone in the multiplier, on either side of 0. -/
theorem outputMagnitudeNeverFalls : Obligations.OutputMagnitudeNeverFalls := by
  intro m sound x t v low le high
  have inT : inTrim t := ⟨low, le.trans high⟩
  have inV : inTrim v := ⟨low.trans le, high⟩
  have rises : (multiplier m t : Int) ≤ multiplier m v := Int.ofNat_le.2 (multiplier_mono sound inT inV le)
  have positive : (0 : Int) ≤ multiplier m t := Int.natCast_nonneg _
  have zero := roundShift_zero (h := 30) (by decide)
  rw [outputSample_multiplier m x inT, outputSample_multiplier m x inV]
  refine saturate_natAbs_mono ?_
  rw [← zero]
  rcases le_total 0 x.toInt with sign | sign
  · exact .inl ⟨roundShift_mono (mul_nonneg sign positive) 30,
      roundShift_mono (mul_le_mul_of_nonneg_left rises sign) 30⟩
  · exact .inr ⟨roundShift_mono (mul_le_mul_of_nonpos_left rises sign) 30,
      roundShift_mono (mul_nonpos_of_nonpos_of_nonneg sign positive) 30⟩

/-- Twice each built-in mantissa, one less and one more, to the 48th power, on either side of 2^(24·48 + r) (R64). -/
theorem builtinGlt_nearest (r : Fin 48) :
    (2 * builtinGlt[r].toNat - 1) ^ 48 < 2 ^ (24 * 48 + r.val) ∧
      2 ^ (24 * 48 + r.val) < (2 * builtinGlt[r].toNat + 1) ^ 48 := by
  revert r
  decide +kernel

/-- Settles O9: the table is evaluated entry by entry. -/
theorem builtInGainLaw : Obligations.BuiltInGainLaw :=
  ⟨builtinGlt_nearest, by decide, by decide, by decide, test_builtin_law_sound, rfl, rfl⟩

end Sys2Proof.Machine
end

section
/-! PROOFS. LAW_STAGE, PLAW_STAGE and LAW_APPLY (R65 to R68, R87): the staging copies block by block, and the first failing
entry of a table. -/

namespace Sys2Proof.Machine

/-- A privileged request without a channel set, from the supervising feed, while the part is READY (R96, R146). -/
theorem runRequest_supervisor {α : Type} {k : ReqKind} {parsed : Option α} {p : α} {f : Feed} {body : α → State → Reply}
    {s : State} (ready : s.sil.load = .ready) (supervises : f = s.cle.supervisor) (parses : parsed = some p) :
    runRequest k parsed noSet f body s = body p s := by
  rw [parses]
  exact runRequest_passes _ _ _ _ _ _ (.inl (loading_of_ready ready)) (fun _ => supervises)
    fun h => absurd h Bool.false_ne_true

/-! ### Staging -/

/-- The values of a block as sent: entry `j` is the number at its offset (R65, R87). -/
theorem groupsOf_getD (k n : Nat) (bytes : List Byte) (j : Nat) (h : j < n) :
    (groupsOf k n bytes).getD j 0 = atBe bytes (k * j) k := by
  induction n generalizing bytes j with
  | zero => exact absurd h (Nat.not_lt_zero j)
  | succ n ih =>
    cases j with
    | zero => rfl
    | succ j =>
      rw [groupsOf, List.getD_cons_succ, ih _ _ (by omega), atBe, atBe, List.drop_drop, Nat.mul_succ, Nat.add_comm k]

theorem parseStage_of_length {k n : Nat} {block : Byte} {bytes : List Byte} (h : bytes.length = k * n) :
    parseStage k n (block :: bytes) = some { block := block.toNat, values := groupsOf k n bytes } := if_pos h

/-- A staging copy after a block of it is written, each entry by its own bytes (R65, R87). -/
theorem stageBlock_eq {n w : Nat} {size block : Nat} {values : List Nat} {value : Nat → Nat}
    (sent : ∀ j < size, values.getD j 0 = value j) (pos : 0 < size) (t : Vector (BitVec w) n) :
    stageBlock size block values t =
      tab fun i => if i.val / size = block then BitVec.ofNat w (value (i.val % size)) else t[i] := by
  rw [stageBlock, mapAll_eq_tab]
  exact congrArg tab (funext fun i => by rw [sent _ (Nat.mod_lt _ pos)])

theorem setMark_eq (block : Nat) (m : Vector Bool 4) :
    setMark block m = tab fun k => if k.val = block then true else m[k] := by
  rw [setMark, mapAll_eq_tab]
  refine congrArg tab (funext fun k => ?_)
  split
  · next h => rw [decide_eq_true h, Bool.or_true]
  · next h => rw [decide_eq_false h, Bool.or_false]

section
variable {f : Feed} {u : State} {block : Byte} {bytes : List Byte} (ready : u.sil.load = .ready)
  (supervises : f = u.cle.supervisor)
include ready supervises

/-- LAW_STAGE by its block number and the bytes of its entries (R65). -/
theorem lawStage_executes (length : bytes.length = 36) :
    executeKind f (block :: bytes) .lawStage u =
      if 3 < block.toNat then (u, [7])
      else ({ u with tgu := { u.tgu with
          staging := tab fun r =>
            if r.val / 12 = block.toNat then BitVec.ofNat 24 (atBe bytes (3 * (r.val % 12)) 3) else u.tgu.staging[r]
          marks := tab fun k => if k.val = block.toNat then true else u.tgu.marks[k] } }, [0]) := by
  show reqLawStage f (block :: bytes) u = _
  rw [reqLawStage, runRequest_supervisor ready supervises (parseStage_of_length (k := 3) (n := 12) length)]
  simp only [stageBlock_eq (groupsOf_getD 3 12 bytes) (by decide : 0 < 12), setMark_eq]
  rfl

/-- PLAW_STAGE by its block number and the bytes of its entries (R87). -/
theorem plawStage_executes (length : bytes.length = 32) :
    executeKind f (block :: bytes) .plawStage u =
      if 3 < block.toNat then (u, [7])
      else ({ u with hac := { u.hac with
          staging := tab fun k =>
            if k.val / 16 = block.toNat then BitVec.ofNat 16 (atBe bytes (2 * (k.val % 16)) 2) else u.hac.staging[k]
          marks := tab fun k => if k.val = block.toNat then true else u.hac.marks[k] } }, [0]) := by
  show reqPlawStage f (block :: bytes) u = _
  rw [reqPlawStage, runRequest_supervisor ready supervises (parseStage_of_length (k := 2) (n := 16) length)]
  simp only [stageBlock_eq (groupsOf_getD 2 16 bytes) (by decide : 0 < 16), setMark_eq]
  rfl

end

/-- A granted request command that is refused, or else carried out, by a condition on its parameters. -/
theorem exec_answers_ite {s u v : State} {c : Instr} {f : Feed} {tag : Byte} {k : ReqKind} {ps a b : List Byte} {p : Prop}
    [Decidable p] (request : c.request = some (f, tag, k.code, ps)) (serves : s.serves f)
    (executes : executeKind f ps k (reach f s) = if p then (u, a) else (v, b)) :
    exec c s = .next (if p then answered f tag k.code a u else answered f tag k.code b v) := by
  by_cases h : p
  · rw [if_pos h] at executes ⊢
    exact exec_answers request serves executes
  · rw [if_neg h] at executes ⊢
    exact exec_answers request serves executes

/-- Settles O42: both requests write the block that they name, entry by entry. -/
theorem stagingWritesOneBlock : Obligations.StagingWritesOneBlock := by
  intro s f tag block bytes serves u ready supervises at8
  refine ⟨fun length => ?_, fun length => ?_⟩
  · have value (j : Nat) (h : j < 12) :
        atBe bytes (3 * j) 3 = 65536 * at8 (3 * j) + 256 * at8 (3 * j + 1) + at8 (3 * j + 2) := by
      rw [atBe_three bytes (3 * j) (by omega)]
      show 256 * (256 * at8 (3 * j) + at8 (3 * j + 1)) + at8 (3 * j + 2) = _
      omega
    have executes := lawStage_executes (block := block) ready supervises length
    simp only [value _ (Nat.mod_lt _ (by decide : 0 < 12))] at executes
    exact exec_answers_ite (k := .lawStage) rfl serves executes
  · have value (j : Nat) (h : j < 16) : atBe bytes (2 * j) 2 = 256 * at8 (2 * j) + at8 (2 * j + 1) :=
      atBe_two bytes (2 * j) (by omega)
    have executes := plawStage_executes (block := block) ready supervises length
    simp only [value _ (Nat.mod_lt _ (by decide : 0 < 16))] at executes
    exact exec_answers_ite (k := .plawStage) rfl serves executes

/-! ### The first failing entry of a table -/

/-- An entry in its range and not below the one before it (R66, R88). -/
def entryFine (lo hi : Nat) (before : Option Nat) (x : Nat) : Prop := (lo ≤ x ∧ x ≤ hi) ∧ ∀ p, before = some p → p ≤ x

/-- The entry before place `k` of a list that `prev` precedes. -/
def entryBefore (prev : Option Nat) (l : List Nat) : Nat → Option Nat
  | 0 => prev
  | k + 1 => l[k]?

theorem entryBefore_cons (prev : Option Nat) (x : Nat) (l : List Nat) (k : Nat) :
    entryBefore (some x) l k = entryBefore prev (x :: l) (k + 1) := by
  cases k <;> rfl

theorem firstFault_cons (lo hi idx : Nat) (prev : Option Nat) (x : Nat) (l : List Nat) :
    firstFault lo hi idx prev (x :: l) =
      if x < lo ∨ hi < x then some (0, idx)
      else if prev.any (fun p => decide (x < p)) then some (1, idx)
      else firstFault lo hi (idx + 1) (some x) l := rfl

theorem any_above_iff (prev : Option Nat) (x : Nat) :
    prev.any (fun p => decide (x < p)) = true ↔ ¬ ∀ p, prev = some p → p ≤ x := by
  cases prev <;> simp

/-- The pass goes on after an entry that is fine. -/
theorem firstFault_fine {lo hi : Nat} {prev : Option Nat} {x : Nat} (fine : entryFine lo hi prev x) (idx : Nat)
    (l : List Nat) : firstFault lo hi idx prev (x :: l) = firstFault lo hi (idx + 1) (some x) l := by
  obtain ⟨range, order⟩ := fine
  rw [firstFault_cons, if_neg (by omega), if_neg fun falls => (any_above_iff prev x).1 falls order]

/-- The pass stops at an entry that is not, and looks at its range first. -/
theorem firstFault_fault {lo hi : Nat} {prev : Option Nat} {x : Nat} (fault : ¬ entryFine lo hi prev x) (idx : Nat)
    (l : List Nat) : firstFault lo hi idx prev (x :: l) = some (if x < lo ∨ hi < x then 0 else 1, idx) := by
  rw [firstFault_cons]
  by_cases out : x < lo ∨ hi < x
  · rw [if_pos out, if_pos out]
  · rw [if_neg out, if_neg out]
    exact if_pos ((any_above_iff prev x).2 fun order => fault ⟨by omega, order⟩)

/-- The one pass over a table answers with its first failing entry, and with range before order (R66, R88). -/
theorem firstFault_first (lo hi : Nat) (l : List Nat) : ∀ (idx : Nat) (prev : Option Nat) (k x : Nat), l[k]? = some x →
    (∀ j y, j < k → l[j]? = some y → entryFine lo hi (entryBefore prev l j) y) →
    ¬ entryFine lo hi (entryBefore prev l k) x →
    firstFault lo hi idx prev l = some (if x < lo ∨ hi < x then 0 else 1, idx + k) := by
  induction l with
  | nil => exact fun _ _ _ _ place => nomatch place
  | cons y l ih =>
    intro idx prev k x place earlier fault
    cases k with
    | zero =>
      cases place
      exact firstFault_fault fault idx l
    | succ k =>
      have fine : entryFine lo hi prev y := earlier 0 y k.succ_pos rfl
      rw [firstFault_fine fine]
      have rest := ih (idx + 1) (some y) k x place (fun j z less found => by
        rw [entryBefore_cons prev]
        exact earlier (j + 1) z (Nat.succ_lt_succ less) found) (by
        rw [entryBefore_cons prev]
        exact fault)
      rw [rest, Nat.add_right_comm, Nat.add_assoc]

section
variable {n w : Nat} (t : Vector (BitVec w) n) (lo hi : Nat)

theorem entries_getElem? (r : Fin n) : (entries t)[r.val]? = some t[r].toNat := by
  have inside : r.val < (entries t).length := by rw [entries_length]; exact r.isLt
  rw [List.getElem?_eq_getElem inside, entries_getElem]
  rfl

/-- An entry of a table lies in its range and is not below the one before it (R66, R88). -/
def tableFine (r : Fin n) : Prop :=
  (lo ≤ t[r].toNat ∧ t[r].toNat ≤ hi) ∧ ¬ ∃ p : Fin n, p.val + 1 = r.val ∧ t[r].toNat < t[p].toNat

/-- In the list of its entries a table's entry is fine when it is so in the table. -/
theorem entryFine_entries_iff (r : Fin n) :
    entryFine lo hi (entryBefore none (entries t) r.val) t[r].toNat ↔ tableFine t lo hi r := by
  refine and_congr_right fun _ => ⟨?_, ?_⟩
  · rintro order ⟨p, next, falls⟩
    have before : entryBefore none (entries t) r.val = some t[p].toNat := by
      rw [← next]
      exact entries_getElem? t p
    exact absurd (order _ before) (by omega)
  · intro order x before
    obtain ⟨_ | k, inside⟩ := r
    · exact nomatch before
    · have found := entries_getElem? t ⟨k, by omega⟩
      cases found.symm.trans before
      exact Nat.le_of_not_lt fun falls => order ⟨⟨k, by omega⟩, rfl, falls⟩

/-- The check of a table answers with its first failing entry (R66, R88). -/
theorem firstFault_table (r : Fin n) (earlier : ∀ k, k < r → tableFine t lo hi k) (fault : ¬ tableFine t lo hi r) :
    firstFault lo hi 0 none (entries t) =
      some (if t[r].toNat < lo ∨ hi < t[r].toNat then 0 else 1, r.val) := by
  rw [firstFault_first lo hi (entries t) 0 none r.val t[r].toNat (entries_getElem? t r) ?_
    (mt (entryFine_entries_iff t lo hi r).1 fault), Nat.zero_add]
  intro j y less place
  cases (entries_getElem? t ⟨j, less.trans r.isLt⟩).symm.trans place
  exact (entryFine_entries_iff t lo hi ⟨j, less.trans r.isLt⟩).2 (earlier _ less)

/-- The check of a table passes when no entry fails (R66, R88). -/
theorem firstFault_tableFine (fine : ∀ r, tableFine t lo hi r) : firstFault lo hi 0 none (entries t) = none := by
  rw [firstFault_none, Option.toList_none, List.nil_append, List.isChain_iff_getElem]
  simp only [entries_getElem, entries_length, List.forall_mem_iff_getElem]
  refine ⟨fun r inside => (fine ⟨r, inside⟩).1, fun r inside => ?_⟩
  obtain ⟨_, order⟩ := fine ⟨r + 1, inside⟩
  exact Nat.le_of_not_lt fun falls => order ⟨⟨r, by omega⟩, rfl, falls⟩

end

/-! ### The checks of a gain law -/

/-- A mantissa fails its range check only by being too small: it has 24 bits (R66). -/
theorem mantissa_out_iff (x : Mantissa) : (x.toNat < 4194304 ∨ 16777215 < x.toNat) ↔ x.toNat < 4194304 := by
  have width := x.isLt
  omega

theorem gltFine_iff (m : Vector Mantissa 48) (r : Fin 48) :
    tableFine m 4194304 16777215 r ↔
      ¬ m[r].toNat < 4194304 ∧ ¬ ∃ p : Fin 48, p.val + 1 = r.val ∧ m[r].toNat < m[p].toNat := by
  refine and_congr_left fun _ => ?_
  have width := m[r].isLt
  omega

/-- A gain law with a failing entry fails by the first one (R66). -/
theorem gltFault_first (m : Vector Mantissa 48) (r : Fin 48) (earlier : ∀ k, k < r → tableFine m 4194304 16777215 k)
    (fault : ¬ tableFine m 4194304 16777215 r) :
    gltFault m = some (if m[r].toNat < 4194304 then 0 else 1, r.val) := by
  rw [gltFault, firstFault_table m _ _ r earlier fault]
  simp only [mantissa_out_iff]

/-- A gain law without a failing entry fails by its span (R66). -/
theorem gltFault_span (m : Vector Mantissa 48) (fine : ∀ r, tableFine m 4194304 16777215 r)
    (wide : 2 * m[0].toNat < m[47].toNat) : gltFault m = some (2, 47) := by
  rw [gltFault, firstFault_tableFine m _ _ fine]
  exact if_neg (Nat.not_le.2 wide)

theorem allMarked_iff (marks : Vector Bool 4) : allMarked marks = true ↔ ∀ b : Fin 4, marks[b] = true := by
  simp [allMarked, Fin.forall_fin_succ, and_assoc]

/-! ### LAW_APPLY -/

section
variable {f : Feed} {u : State} (ready : u.sil.load = .ready) (supervises : f = u.cle.supervisor)
include ready supervises

theorem lawApply_executes : executeKind f [] .lawApply u =
    if !allMarked u.tgu.marks then (u, [8])
    else
      match gltFault u.tgu.staging with
      | some (check, entry) => (u, [7, byte check, byte entry])
      | none =>
        (told (toFeeds (fun _ => true) (.law .glt (u.ftu.frame + 1)))
          { u with tgu := { u.tgu with
              pending := some { table := u.tgu.staging, start := u.ftu.frame + 1 }, marks := tab fun _ => false } }, [0]) := by
  show reqLawApply f [] u = _
  rw [reqLawApply, runRequest_supervisor ready supervises parseNone_nil, ← notifyWhere_told]
  rfl

/-- Without all four marks the request is refused STATE (R66). -/
theorem lawApply_unmarked (h : ¬ allMarked u.tgu.marks = true) : executeKind f [] .lawApply u = (u, [8]) := by
  rw [lawApply_executes ready supervises, if_pos (by simpa using h)]

/-- A staging copy that fails a check is refused with the check and the entry (R66). -/
theorem lawApply_faulty (marked : allMarked u.tgu.marks = true) {check entry : Nat}
    (fault : gltFault u.tgu.staging = some (check, entry)) :
    executeKind f [] .lawApply u = (u, [7, byte check, byte entry]) := by
  rw [lawApply_executes ready supervises, marked, fault]
  rfl

/-- A staging copy that passes is pending from the next frame on (R67, R68). -/
theorem lawApply_accepted (marked : allMarked u.tgu.marks = true) (sound : lawSound u.tgu.staging) :
    executeKind f [] .lawApply u =
      (told (toFeeds (fun _ => true) (.law .glt (u.ftu.frame + 1)))
        { u with tgu := { u.tgu with
            pending := some { table := u.tgu.staging, start := u.ftu.frame + 1 }, marks := tab fun _ => false } }, [0]) := by
  rw [lawApply_executes ready supervises, marked, Option.isNone_iff_eq_none.1 ((gltFault_none _).2 sound)]
  rfl

end

/-- Settles O43: the checks are one pass over the staging copy, which stops at its first failing entry. -/
theorem lawApplyPendsStagedLaw : Obligations.LawApplyPendsStagedLaw := by
  intro s f tag serves u ready supervises m marked low falls
  have answers {v : State} {bytes : List Byte} (h : executeKind f [] .lawApply u = (v, bytes)) :
      exec (.lawApply f tag []) s = .next (answered f tag 0x19 bytes v) := exec_answers (k := .lawApply) rfl serves h
  have allMarks := allMarked_iff u.tgu.marks
  refine ⟨fun unmarked => ?_, fun marks r fault earlier => ?_, fun marks fine wide => ?_, fun marks sound => ?_⟩
  · exact answers (lawApply_unmarked ready supervises (mt allMarks.1 unmarked))
  · have first := gltFault_first m r (fun k less => (gltFine_iff m k).2 (earlier k less))
      (mt (gltFine_iff m r).1 fun ⟨inRange, inOrder⟩ => fault.elim inRange inOrder)
    refine ⟨fun small => ?_, fun inRange => ?_⟩
    · rw [if_pos small] at first
      exact answers (lawApply_faulty ready supervises (allMarks.2 marks) first)
    · rw [if_neg inRange] at first
      exact answers (lawApply_faulty ready supervises (allMarks.2 marks) first)
  · have span := gltFault_span m (fun r => (gltFine_iff m r).2 (fine r)) wide
    exact answers (lawApply_faulty ready supervises (allMarks.2 marks) span)
  · exact answers (lawApply_accepted ready supervises (allMarks.2 marks) sound)

end Sys2Proof.Machine
end

section
/-! PROOFS. The write queues of the buses: what each operation of the HAC makes of them, and that a channel has an entry exactly
when its desired values differ from its last-sent values (R71, R73, R78, R80, R93). -/

namespace Sys2Proof.Machine

/-! ### Inputs by group and place -/

theorem groupOf_inputAt (g : Group) (j : Fin 8) : groupOf (inputAt g j) = g := by
  apply Fin.ext
  show (8 * g.val + j.val) / 8 = g.val
  omega

theorem placeOf_inputAt (g : Group) (j : Fin 8) : placeOf (inputAt g j) = j := by
  apply Fin.ext
  show (8 * g.val + j.val) % 8 = j.val
  omega

theorem inputAt_groupOf (i : Input) : inputAt (groupOf i) (placeOf i) = i := by
  apply Fin.ext
  show 8 * (i.val / 8) + i.val % 8 = i.val
  omega

theorem inputAt_eq_iff {g : Group} {j : Fin 8} {i : Input} : inputAt g j = i ↔ g = groupOf i ∧ j = placeOf i := by
  constructor
  · rintro rfl
    exact ⟨(groupOf_inputAt g j).symm, (placeOf_inputAt g j).symm⟩
  · rintro ⟨rfl, rfl⟩
    exact inputAt_groupOf i

/-! ### Entries of a queue -/

theorem mem_withdraw {j : Fin 8} {q : List QueueEntry} {e : QueueEntry} :
    e ∈ withdraw j q ↔ e ∈ q ∧ e.channel ≠ j := by
  simp [withdraw]

theorem queuedAt_iff {j : Fin 8} {q : List QueueEntry} : queuedAt j q = true ↔ ∃ e ∈ q, e.channel = j := by
  simp [queuedAt]

/-- After step 3 of R73 the place's one value is the new one, and the entries of the other places are those of before. -/
theorem mem_enqueue {j : Fin 8} {v : HeadAmp} {q : List QueueEntry} {e : QueueEntry} :
    e ∈ enqueue j v q ↔ if e.channel = j then e.value = v else e ∈ q := by
  obtain ⟨c, w⟩ := e
  unfold enqueue
  split
  · next waits =>
    obtain ⟨x, listed, rfl⟩ := queuedAt_iff.1 waits
    rw [List.mem_map]
    by_cases same : c = x.channel
    · subst same
      rw [if_pos rfl]
      refine ⟨fun ⟨y, _, e⟩ => ?_, fun e => ⟨x, listed, by rw [if_pos rfl]; exact congrArg _ e.symm⟩⟩
      split at e
      · exact (congrArg QueueEntry.value e).symm
      · next other => exact absurd (congrArg QueueEntry.channel e) other
    · rw [if_neg same]
      refine ⟨fun ⟨y, at_y, e⟩ => ?_, fun h => ⟨_, h, if_neg same⟩⟩
      split at e
      · next place => exact absurd ((congrArg QueueEntry.channel e).symm.trans place) same
      · exact e ▸ at_y
  · next absent =>
    have free : ⟨c, w⟩ ∈ q → c ≠ j := fun listed e => absent (queuedAt_iff.2 ⟨_, listed, e⟩)
    rw [List.mem_append, List.mem_singleton, QueueEntry.mk.injEq]
    by_cases same : c = j
    · rw [if_pos same]
      exact ⟨fun h => h.elim (fun listed => absurd same (free listed)) And.right, fun e => .inr ⟨same, e⟩⟩
    · rw [if_neg same]
      exact ⟨fun h => h.elim id fun e => absurd e.1 same, .inl⟩

theorem withdraw_channels_nodup {j : Fin 8} {q : List QueueEntry} (h : (q.map (·.channel)).Nodup) :
    ((withdraw j q).map (·.channel)).Nodup :=
  h.sublist (List.filter_sublist.map _)

theorem enqueue_channels_nodup {j : Fin 8} {v : HeadAmp} {q : List QueueEntry} (h : (q.map (·.channel)).Nodup) :
    ((enqueue j v q).map (·.channel)).Nodup := by
  unfold enqueue
  split
  · rw [List.map_map, List.map_congr_left (g := (·.channel)) fun e _ => by
      dsimp only [Function.comp]
      split <;> rfl]
    exact h
  · next absent =>
    rw [List.map_append, List.map_singleton]
    refine h.append (List.nodup_singleton _) (List.disjoint_singleton.2 fun listed => absent ?_)
    exact queuedAt_iff.2 (List.mem_map.1 listed)

/-- The entry of a place in a queue without two entries of one place. -/
theorem find?_place_eq_some {j : Fin 8} {q : List QueueEntry} {e : QueueEntry} (distinct : (q.map (·.channel)).Nodup) :
    (q.find? fun x => decide (x.channel = j)) = some e ↔ e ∈ q ∧ e.channel = j := by
  constructor
  · intro found
    exact ⟨List.mem_of_find?_eq_some found, of_decide_eq_true (List.find?_some found :)⟩
  · rintro ⟨listed, rfl⟩
    have place : (q.find? fun x => decide (x.channel = e.channel)).isSome = true :=
      List.find?_isSome.2 ⟨e, listed, decide_eq_true rfl⟩
    obtain ⟨x, found⟩ := Option.isSome_iff_exists.1 place
    have same : x.channel = e.channel := of_decide_eq_true (List.find?_some found :)
    rw [found, List.inj_on_of_nodup_map distinct (List.mem_of_find?_eq_some found) listed same]

/-! ### Queues and desired values -/

/-- An entry that channel `c` of a bus is to have: it holds the desired values, and these are not the last-sent ones (R73). -/
def Channel.awaits (c : Channel) (v : HeadAmp) : Prop := v = c.desired ∧ c.desired ≠ c.lastSent

/-- W and K lie in their ranges (R79). -/
def PreampBus.timed (b : PreampBus) : Prop := 1 ≤ b.spacing ∧ b.spacing ≤ 16 ∧ b.delay ≤ 63

/-- Every bus has its W and K in range and, for each channel whose desired values are not its last-sent ones, the one entry of
the channel's desired values (R73, R78, R79). -/
def Hac.queuesAgree (h : Hac) : Prop :=
  ∀ g : Group, h.buses[g].timed ∧ (h.buses[g].queue.map (·.channel)).Nodup ∧
    ∀ e, e ∈ h.buses[g].queue ↔ h.channels[inputAt g e.channel].awaits e.value

/-- Nothing is queued, in flight or scheduled before the power-on load ends (R91, R123). -/
def State.bootIdle (s : State) : Prop :=
  s.poweringOn → s.scu.scheduled = [] ∧ (∀ g : Group, s.hac.buses[g].queue = []) ∧
    ∀ i : Input, (s.channel i).inFlight = none

/-- The channel's entry in its queue, as the condition on writes has it, says which entries of it the queue holds. -/
theorem queued_eq_iff {s : State} {g : Group} {j : Fin 8} {i : Input} (place : inputAt g j = i)
    (distinct : (s.hac.buses[g].queue.map (·.channel)).Nodup) :
    (s.queued i = if (s.channel i).desired = (s.channel i).lastSent then none
      else some { channel := placeOf i, value := (s.channel i).desired }) ↔
    ∀ v, { channel := j, value := v } ∈ s.hac.buses[g].queue ↔ (s.channel i).awaits v := by
  obtain ⟨rfl, rfl⟩ := inputAt_eq_iff.1 place
  have entry (e : QueueEntry) : s.queued i = some e ↔ e ∈ s.hac.buses[groupOf i].queue ∧ e.channel = placeOf i :=
    find?_place_eq_some distinct
  have listed (v : HeadAmp) : { channel := placeOf i, value := v } ∈ s.hac.buses[groupOf i].queue ↔
      s.queued i = some { channel := placeOf i, value := v } := ((entry _).trans (and_iff_left rfl)).symm
  simp only [listed, Channel.awaits]
  generalize s.channel i = c
  constructor
  · intro h v
    rw [h]
    split
    · next sent => simp [sent]
    · next differ => simp [differ, eq_comm]
  · intro h
    split
    · next sent =>
      rw [Option.eq_none_iff_forall_ne_some]
      rintro ⟨k, v⟩ waits
      obtain rfl : k = placeOf i := ((entry _).1 waits).2
      exact ((h v).1 waits).2 sent
    · next differ => exact (h c.desired).2 ⟨rfl, differ⟩

theorem writesSound_iff (s : State) : s.writesSound ↔ s.hac.queuesAgree ∧ s.bootIdle := by
  constructor
  · rintro ⟨buses, entries, boot⟩
    refine ⟨fun g => ?_, boot⟩
    obtain ⟨w, w', k, distinct⟩ := buses g
    exact ⟨⟨w, w', k⟩, distinct, fun e => (queued_eq_iff rfl distinct).1 (entries _) e.value⟩
  · rintro ⟨agree, boot⟩
    refine ⟨fun g => ?_, fun i => ?_, boot⟩
    · obtain ⟨⟨w, w', k⟩, distinct, -⟩ := agree g
      exact ⟨w, w', k, distinct⟩
    · obtain ⟨-, distinct, entries⟩ := agree (groupOf i)
      refine (queued_eq_iff (inputAt_groupOf i) distinct).2 fun v => (entries _).trans (Iff.of_eq ?_)
      exact congrArg (fun k : Input => (s.channel k).awaits v) (inputAt_groupOf i)

/-- The queues rest on the buses' timing and queues and on the channels' desired and last-sent values alone. -/
theorem queuesAgree_of_same {h k : Hac} (buses : ∀ g : Group, k.buses[g].spacing = h.buses[g].spacing ∧
      k.buses[g].delay = h.buses[g].delay ∧ k.buses[g].queue = h.buses[g].queue)
    (channels : ∀ i : Input, k.channels[i].desired = h.channels[i].desired ∧
      k.channels[i].lastSent = h.channels[i].lastSent) (agree : h.queuesAgree) : k.queuesAgree := by
  intro g
  obtain ⟨spacing, delay, queue⟩ := buses g
  obtain ⟨timed, distinct, entries⟩ := agree g
  refine ⟨?_, queue ▸ distinct, fun e => ?_⟩
  · unfold PreampBus.timed
    rwa [spacing, delay]
  · obtain ⟨desired, sent⟩ := channels (inputAt g e.channel)
    unfold Channel.awaits
    rw [queue, desired, sent]
    exact entries e

/-- One bus takes a new queue and one of its channels new values, which agree; the others stay. -/
theorem queuesAgree_update {h k : Hac} {b : Group} {j : Fin 8} {i : Input} {q : List QueueEntry} (place : inputAt b j = i)
    (buses : ∀ g : Group, k.buses[g].spacing = h.buses[g].spacing ∧ k.buses[g].delay = h.buses[g].delay ∧
      k.buses[g].queue = if g = b then q else h.buses[g].queue)
    (others : ∀ l : Input, l ≠ i → k.channels[l].desired = h.channels[l].desired ∧
      k.channels[l].lastSent = h.channels[l].lastSent)
    (distinct : (h.buses[b].queue.map (·.channel)).Nodup → (q.map (·.channel)).Nodup)
    (kept : ∀ e, e.channel ≠ j → (e ∈ q ↔ e ∈ h.buses[b].queue))
    (own : ∀ v, { channel := j, value := v } ∈ q ↔ k.channels[i].awaits v) (agree : h.queuesAgree) : k.queuesAgree := by
  subst place
  intro g
  obtain ⟨spacing, delay, queue⟩ := buses g
  obtain ⟨timed, nodup, entries⟩ := agree g
  refine ⟨by unfold PreampBus.timed; rwa [spacing, delay], ?_, fun e => ?_⟩
  · rw [queue]
    split
    · next bus => exact distinct (bus ▸ nodup)
    · exact nodup
  · have elsewhere (away : inputAt g e.channel ≠ inputAt b j) :
        k.channels[inputAt g e.channel].awaits e.value ↔ e ∈ h.buses[g].queue := by
      obtain ⟨desired, sent⟩ := others _ away
      unfold Channel.awaits
      rw [desired, sent]
      exact (entries e).symm
    rw [queue]
    split
    · next bus =>
      subst bus
      by_cases here : e.channel = j
      · subst here
        exact own e.value
      · rw [elsewhere fun same => here ((inputAt_eq_iff.1 same).2.trans (placeOf_inputAt g j))]
        exact kept e here
    · next bus => exact (elsewhere fun same => bus ((inputAt_eq_iff.1 same).1.trans (groupOf_inputAt b j))).symm

/-! ### The operations of the HAC -/

theorem change_lastSent (h : Hac) (i : Input) (v : HeadAmp) (j : Input) :
    (h.change i v).channels[j].lastSent = h.channels[j].lastSent := by
  unfold Channel.lastSent
  rw [change_inFlight, change_live]

/-- The queue of the channel's bus after a change (R73). -/
theorem change_bus (h : Hac) (i : Input) (v : HeadAmp) (g : Group) :
    (h.change i v).buses[g] = if g = groupOf i then
      { h.buses[g] with
        queue := if v = h.channels[i].lastSent then withdraw (placeOf i) h.buses[g].queue
          else enqueue (placeOf i) v h.buses[g].queue }
      else h.buses[g] := by
  unfold Hac.change
  dsimp only
  rw [upd_eq_tab, tab_at]
  simp only [decide_eq_true_eq]

theorem change_queuesAgree (i : Input) (v : HeadAmp) {h : Hac} (agree : h.queuesAgree) : (h.change i v).queuesAgree := by
  refine queuesAgree_update (inputAt_groupOf i)
    (q := if v = h.channels[i].lastSent then withdraw (placeOf i) h.buses[groupOf i].queue
      else enqueue (placeOf i) v h.buses[groupOf i].queue)
    (fun g => ?_) (fun k other => ?_) (fun distinct => ?_) (fun e away => ?_) (fun w => ?_) agree
  · rw [change_bus]
    split
    · next bus => exact ⟨rfl, rfl, by rw [bus]⟩
    · exact ⟨rfl, rfl, rfl⟩
  · exact ⟨by rw [change_channel_other _ _ _ _ other], change_lastSent _ _ _ _⟩
  · split
    · exact withdraw_channels_nodup distinct
    · exact enqueue_channels_nodup distinct
  · split
    · rw [mem_withdraw, and_iff_left away]
    · rw [mem_enqueue, if_neg away]
  · unfold Channel.awaits
    rw [change_desired, change_lastSent]
    split
    · next sent => simp [mem_withdraw, sent]
    · next differ =>
      rw [mem_enqueue, if_pos rfl]
      exact (and_iff_left_of_imp fun _ => differ).symm

theorem send_bus (b : Group) (n : FrameNo) (e : QueueEntry) (h : Hac) (g : Group) :
    (h.send b n e).buses[g] = if g = b then
      { h.buses[g] with queue := withdraw e.channel h.buses[g].queue, word := some (preampWord e.channel e.value) }
      else h.buses[g] := by
  unfold Hac.send
  dsimp only
  rw [upd_eq_tab, tab_at]

theorem send_channel (b : Group) (n : FrameNo) (e : QueueEntry) (h : Hac) (i : Input) :
    (h.send b n e).channels[i] = if i = inputAt b e.channel then
      { h.channels[i] with
        inFlight := some { value := e.value, sent := n, effective := n + 1 + BitVec.ofNat 32 h.buses[b].delay }
        settle := h.channels[i].settle.afterSend (n + 1 + BitVec.ofNat 32 h.buses[b].delay)
          (h.settleLength e.value h.channels[i].live) }
      else h.channels[i] := by
  unfold Hac.send
  dsimp only
  rw [upd_eq_tab, tab_at]

/-- A sent entry held the desired values of its channel, which are its last-sent values from then on (R71, R80). -/
theorem send_queuesAgree {b : Group} (n : FrameNo) {e : QueueEntry} {h : Hac} (listed : e ∈ h.buses[b].queue)
    (agree : h.queuesAgree) : (h.send b n e).queuesAgree := by
  obtain ⟨-, -, entries⟩ := agree b
  obtain ⟨value, -⟩ := (entries e).1 listed
  refine queuesAgree_update (j := e.channel) rfl (q := withdraw e.channel h.buses[b].queue)
    (fun g => ?_) (fun i other => ?_) withdraw_channels_nodup (fun x away => ?_) (fun v => ?_) agree
  · rw [send_bus]
    split
    · next bus => exact ⟨rfl, rfl, by rw [bus]⟩
    · exact ⟨rfl, rfl, rfl⟩
  · rw [send_channel, if_neg other]
    exact ⟨rfl, rfl⟩
  · rw [mem_withdraw, and_iff_left away]
  · rw [mem_withdraw, send_channel, if_pos rfl]
    simp [Channel.awaits, Channel.lastSent, value]

theorem oldestEligible_listed {b : Group} {n : FrameNo} {h : Hac} {e : QueueEntry} (found : h.oldestEligible b n = some e) :
    e ∈ h.buses[b].queue := List.mem_of_find?_eq_some found

/-- The last-sent values that become live are the last-sent values still (R71, R84). -/
theorem makeLive_lastSent {i : Input} {w : InFlight} {h : Hac} (flight : h.channels[i].inFlight = some w) (n : FrameNo)
    (j : Input) : (h.makeLive n i w.value).channels[j].lastSent = h.channels[j].lastSent := by
  unfold Hac.makeLive
  dsimp only
  rw [upd_eq_tab, tab_at]
  split
  · next own =>
    subst own
    rw [Channel.lastSent, Channel.lastSent, flight]
  · rfl

theorem makeLive_desired (n : FrameNo) (i : Input) (v : HeadAmp) (h : Hac) (j : Input) :
    (h.makeLive n i v).channels[j].desired = h.channels[j].desired := by
  unfold Hac.makeLive
  apply upd_read (p := Channel.desired)
  intro c
  rfl

theorem makeLive_queuesAgree {i : Input} {w : InFlight} {h : Hac} (flight : h.channels[i].inFlight = some w) (n : FrameNo)
    (agree : h.queuesAgree) : (h.makeLive n i w.value).queuesAgree :=
  queuesAgree_of_same (h := h) (fun _ => ⟨rfl, rfl, rfl⟩)
    (fun j => ⟨makeLive_desired n i w.value h j, makeLive_lastSent flight n j⟩) agree

/-! ### The initial writes -/

theorem mem_initialWrites {g : Group} {cs : Vector Channel 48} {e : QueueEntry} :
    e ∈ initialWrites g cs ↔
      e.value = cs[inputAt g e.channel].desired ∧ cs[inputAt g e.channel].desired ≠ cs[inputAt g e.channel].live := by
  obtain ⟨j, v⟩ := e
  simp only [initialWrites, List.mem_filterMap, List.mem_finRange, true_and, Option.ite_none_left_eq_some,
    Option.some.injEq, QueueEntry.mk.injEq]
  constructor
  · rintro ⟨k, differ, rfl, rfl⟩
    exact ⟨rfl, differ⟩
  · rintro ⟨value, differ⟩
    exact ⟨j, differ, rfl, value.symm⟩

theorem initialWrites_channels (g : Group) (cs : Vector Channel 48) :
    (initialWrites g cs).map (·.channel) =
      (List.finRange 8).filter fun j => decide (cs[inputAt g j].desired ≠ cs[inputAt g j].live) := by
  unfold initialWrites
  induction List.finRange 8 with
  | nil => rfl
  | cons j l ih =>
    rw [List.filterMap_cons, List.filter_cons]
    by_cases same : cs[inputAt g j].desired = cs[inputAt g j].live
    · rw [if_pos same, if_neg (by simpa using same)]
      exact ih
    · rw [if_neg same, if_pos (decide_eq_true same), List.map_cons, ih]

/-- The power-on load queues an entry for each channel whose desired values are not its live ones, on queues that hold none
(R93). -/
theorem loadDesired_queuesAgree (x : Settings) {h : Hac} (timed : ∀ g : Group, h.buses[g].timed)
    (empty : ∀ g : Group, h.buses[g].queue = []) (ground : ∀ i : Input, h.channels[i].inFlight = none) :
    (loadDesired x h).queuesAgree := by
  have bus (g : Group) : (loadDesired x h).buses[g] =
      { h.buses[g] with queue := initialWrites g (mapAll (fun i c => { c with desired := x.desired[i] }) h.channels) } := by
    unfold loadDesired
    dsimp only
    rw [mapAll_eq_tab, tab_at, empty]
    rfl
  have channel (i : Input) : (loadDesired x h).channels[i] =
      Channel.releaseHold { h.channels[i] with desired := x.desired[i] } := by
    unfold loadDesired
    simp
  have loaded (i : Input) : (mapAll (fun i c => { c with desired := x.desired[i] }) h.channels)[i] =
      { h.channels[i] with desired := x.desired[i] } := by simp
  intro g
  rw [bus]
  refine ⟨timed g, ?_, fun e => ?_⟩
  · rw [initialWrites_channels]
    exact (List.nodup_finRange 8).filter _
  · have held : (loadDesired x h).channels[inputAt g e.channel].desired = x.desired[inputAt g e.channel] ∧
        (loadDesired x h).channels[inputAt g e.channel].lastSent = h.channels[inputAt g e.channel].live := by
      rw [channel, Channel.releaseHold, Channel.lastSent]
      have flight := ground (inputAt g e.channel)
      split <;> simp_all
    rw [mem_initialWrites, loaded, Channel.awaits, held.1, held.2]

end Sys2Proof.Machine
end

section
/-! PROOFS. What the condition on writes and the live values rest on, and the changes of the part that leave it alone (R71, R73,
R78). -/

namespace Sys2Proof.Machine

/-! ### What writes rest on -/

/-- Buses, desired, last-sent and live values are the same in two states; the second is in its power-on load, or has scenes
scheduled, only when the first is or has. -/
structure State.sameWrites (s t : State) : Prop where
  spacing : ∀ g : Group, t.hac.buses[g].spacing = s.hac.buses[g].spacing := by intros; rfl
  delay : ∀ g : Group, t.hac.buses[g].delay = s.hac.buses[g].delay := by intros; rfl
  queue : ∀ g : Group, t.hac.buses[g].queue = s.hac.buses[g].queue := by intros; rfl
  desired : ∀ i, (t.channel i).desired = (s.channel i).desired := by intros; rfl
  inFlight : ∀ i, (t.channel i).inFlight = (s.channel i).inFlight := by intros; rfl
  live : ∀ i, (t.channel i).live = (s.channel i).live := by intros; rfl
  scheduled : s.scu.scheduled = [] → t.scu.scheduled = [] := by exact id
  load : t.poweringOn → s.poweringOn := by exact id

theorem sameWrites_refl (s : State) : s.sameWrites s := {}

theorem sameWrites_trans {s t u : State} (a : s.sameWrites t) (b : t.sameWrites u) : s.sameWrites u where
  spacing g := (b.spacing g).trans (a.spacing g)
  delay g := (b.delay g).trans (a.delay g)
  queue g := (b.queue g).trans (a.queue g)
  desired i := (b.desired i).trans (a.desired i)
  inFlight i := (b.inFlight i).trans (a.inFlight i)
  live i := (b.live i).trans (a.live i)
  scheduled h := b.scheduled (a.scheduled h)
  load h := a.load (b.load h)

theorem foldl_sameWrites {α : Type} (step : State → α → State) (h : ∀ (s : State) (a : α), s.sameWrites (step s a))
    (l : List α) (s : State) : s.sameWrites (l.foldl step s) :=
  List.foldlRecOn l step (sameWrites_refl s) fun t reached a _ => sameWrites_trans reached (h t a)

theorem poweringOn_congr {s t : State} (load : t.sil.load = s.sil.load) : t.poweringOn ↔ s.poweringOn := by
  unfold State.poweringOn
  rw [load]

/-- A change of other blocks. -/
theorem blocks_sameWrites {s t : State} (hac : t.hac = s.hac) (scheduled : t.scu.scheduled = s.scu.scheduled)
    (load : t.sil.load = s.sil.load) : s.sameWrites t where
  spacing g := by rw [hac]
  delay g := by rw [hac]
  queue g := by rw [hac]
  desired i := by unfold State.channel; rw [hac]
  inFlight i := by unfold State.channel; rw [hac]
  live i := by unfold State.channel; rw [hac]
  scheduled h := scheduled.trans h
  load := (poweringOn_congr load).1

theorem sameWrites_queuesAgree {s t : State} (same : s.sameWrites t) (agree : s.hac.queuesAgree) : t.hac.queuesAgree := by
  refine queuesAgree_of_same (h := s.hac) (fun g => ⟨same.spacing g, same.delay g, same.queue g⟩)
    (fun i => ⟨same.desired i, ?_⟩) agree
  have inFlight : t.hac.channels[i].inFlight = s.hac.channels[i].inFlight := same.inFlight i
  have live : t.hac.channels[i].live = s.hac.channels[i].live := same.live i
  unfold Channel.lastSent
  rw [inFlight, live]

theorem sameWrites_bootIdle {s t : State} (same : s.sameWrites t) (idle : s.bootIdle) : t.bootIdle := by
  intro boots
  obtain ⟨scheduled, queues, ground⟩ := idle (same.load boots)
  exact ⟨same.scheduled scheduled, fun g => (same.queue g).trans (queues g), fun i => (same.inFlight i).trans (ground i)⟩

/-- A part that is not in its power-on load meets the condition on that load (R91, R123). -/
theorem bootIdle_of_awake {s : State} (awake : ¬ s.poweringOn) : s.bootIdle := fun boots => absurd boots awake

/-! ### Notices, taps and channels -/

theorem notifyIf_sameWrites (b : Bool) (f : Feed) (nt : Notice) (s : State) : s.sameWrites (notifyIf b f nt s) := {}

theorem notifyWhere_sameWrites (p : Feed → Bool) (nt : Notice) (s : State) : s.sameWrites (notifyWhere p nt s) := {}

theorem changeTap_sameWrites (f : Feed) (i : Input) (g : Tap → Tap) (s : State) : s.sameWrites (changeTap f i g s) := {}

theorem clockEvent_sameWrites (g : Ftu → Ftu) (s : State) : s.sameWrites (clockEvent g s) := {}

/-- A change of a channel that leaves its desired, in-flight and live values alone. -/
theorem onChannel_sameWrites (i : Input) (g : Channel → Channel) (s : State) (desired : ∀ c, (g c).desired = c.desired)
    (inFlight : ∀ c, (g c).inFlight = c.inFlight) (live : ∀ c, (g c).live = c.live) :
    s.sameWrites { s with hac := s.hac.onChannel i g } where
  desired := upd_read _ i g Channel.desired desired
  inFlight := upd_read _ i g Channel.inFlight inFlight
  live := upd_read _ i g Channel.live live

theorem setOwner_sameWrites (new : Option Feed) (cause : OwnerCause) (i : Input) (s : State) :
    s.sameWrites (setOwner new cause i s) := by
  unfold setOwner
  dsimp only
  split
  · exact sameWrites_refl s
  · exact sameWrites_trans
      (onChannel_sameWrites i (fun c => { c with owner := new }) s (fun _ => rfl) (fun _ => rfl) fun _ => rfl)
      (notifyWhere_sameWrites _ _ _)

theorem claimSeen_sameWrites (f : Feed) (s : State) (i : Input) : s.sameWrites (claimSeen f s i) := by
  unfold claimSeen
  split
  · exact notifyIf_sameWrites _ _ _ _
  · exact sameWrites_refl s

theorem regain_sameWrites (i : Input) (s : State) : s.sameWrites (regain i s) :=
  sameWrites_trans
    (onChannel_sameWrites i (fun c => { c with gain := s.hac.gainOf (s.channel i).live }) s (fun _ => rfl) (fun _ => rfl)
      fun _ => rfl)
    (blocks_sameWrites (rebase_hac _ _ _) (congrArg Scu.scheduled (rebase_scu _ _ _)) (congrArg Sil.load (rebase_sil _ _ _)))

theorem applyPlaw_sameWrites (s : State) : s.sameWrites (applyPlaw s) := by
  unfold applyPlaw
  refine sameWrites_trans ?_ (notifyWhere_sameWrites _ _ _)
  exact sameWrites_trans (t := { s with hac := { s.hac with plt := s.hac.staging, marks := noMarks } }) {}
    (foldl_sameWrites _ (fun t i => regain_sameWrites i t) inputs _)

theorem settleEnd_sameWrites (i : Input) (s : State) : s.sameWrites (settleEnd i s) := by
  refine onChannel_sameWrites i _ s (fun c => ?_) (fun c => ?_) fun c => ?_
  all_goals
    unfold Channel.endSettle
    repeat' split
    all_goals rfl

theorem settleEnds_sameWrites (s : State) : s.sameWrites (settleEnds s) := by
  rw [settleEnds_eq]
  exact foldl_sameWrites _ (fun t i => settleEnd_sameWrites i t) _ s

/-! ### Frame step, samples and period ends -/

theorem converterOutcome_sameWrites (g : Group) (x : Option (List Sample)) (s : State) :
    s.sameWrites (converterOutcome g x s) :=
  blocks_sameWrites (converterOutcome_hac g x s) (congrArg Scu.scheduled (converterOutcome_scu g x s))
    (congrArg Sil.load (converterOutcome_sil g x s))

theorem missingConverters_sameWrites (s : State) : s.sameWrites (missingConverters s) := by
  refine foldl_sameWrites _ (fun t g => ?_) _ s
  unfold missingConverter
  split
  · exact sameWrites_refl t
  · exact converterOutcome_sameWrites _ _ _

theorem clipNotice_sameWrites (captured : Input → Bool) (i : Input) (s : State) : s.sameWrites (clipNotice captured i s) := by
  unfold clipNotice
  exact notifyWhere_sameWrites _ _ _

theorem takeSamples_sameWrites (s : State) : s.sameWrites (takeSamples s) := by
  unfold takeSamples
  exact sameWrites_trans (t := { s with lmu := _ }) {}
    (foldl_sameWrites _ (fun t i => clipNotice_sameWrites _ i t) inputs _)

theorem meterBlock_sameWrites (f : Feed) (peaks : List (Input × Nat)) (s : State) : s.sameWrites (meterBlock f peaks s) := by
  unfold meterBlock
  split
  · exact sameWrites_refl s
  · exact notifyIf_sameWrites _ _ _ _

theorem periodEnd_sameWrites (f : Feed) (s : State) : s.sameWrites (periodEnd f s) := by
  unfold periodEnd
  split
  · split
    · exact sameWrites_trans (t := { s with lmu := _ }) {} (sameWrites_trans (meterBlock_sameWrites _ _ _)
        (sameWrites_trans (meterBlock_sameWrites _ _ _) (meterBlock_sameWrites _ _ _)))
    · exact sameWrites_refl s
  · exact sameWrites_refl s

theorem periodEnds_sameWrites (s : State) : s.sameWrites (periodEnds s) :=
  sameWrites_trans (periodEnd_sameWrites 0 s) (sameWrites_trans (periodEnd_sameWrites 1 _)
    (sameWrites_trans (periodEnd_sameWrites 2 _) (periodEnd_sameWrites 3 _)))

/-! ### Link ports, word clock and timers -/

theorem goOnline_sameWrites (f : Feed) (r : Role) (s : State) : s.sameWrites (goOnline f r s) :=
  blocks_sameWrites (goOnline_hac f r s) (congrArg Scu.scheduled (goOnline_scu f r s)) (congrArg Sil.load (goOnline_sil f r s))

theorem moveControl_sameWrites (f : Feed) (r : Role) (s : State) : s.sameWrites (moveControl f r s) :=
  blocks_sameWrites (moveControl_hac f r s) (congrArg Scu.scheduled (moveControl_scu f r s))
    (congrArg Sil.load (moveControl_sil f r s))

theorem goOffline_sameWrites (f : Feed) (s : State) : s.sameWrites (goOffline f s) :=
  sameWrites_trans (t := { setOpenScene f none s with lnk := _, cle := _, lmu := _ }) {} (clockEvent_sameWrites _ _)

theorem portUp_sameWrites (f : Feed) (r : Role) (s : State) : s.sameWrites (portUp f r s) := by
  unfold portUp
  split
  · exact goOnline_sameWrites f r s
  · split
    · exact moveControl_sameWrites f .main s
    · exact sameWrites_refl s

theorem portDown_sameWrites (f : Feed) (r : Role) (s : State) : s.sameWrites (portDown f r s) := by
  unfold portDown
  split
  · split
    · exact moveControl_sameWrites f r.other s
    · exact goOffline_sameWrites f s
  · exact sameWrites_refl s

theorem takeOutcome_sameWrites (f : Feed) (r : Role) (good : Bool) (s : State) : s.sameWrites (takeOutcome f r good s) := by
  unfold takeOutcome
  dsimp only
  split
  · exact sameWrites_trans {} (portUp_sameWrites _ _ _)
  · split
    · exact sameWrites_trans {} (portDown_sameWrites _ _ _)
    · exact {}

theorem takeHeld_sameWrites (f : Feed) (r : Role) (s : State) : s.sameWrites (takeHeld f r s) := by
  unfold takeHeld
  split
  · exact takeOutcome_sameWrites f r false s
  · exact sameWrites_refl s

theorem portOutcome_sameWrites (f : Feed) (r : Role) (late : Bool) (o : UpOutcome) (s : State) :
    s.sameWrites (portOutcome f r late o s) := by
  unfold portOutcome
  split
  · next som bytes =>
    exact sameWrites_trans (t := deliverBytes f r late som bytes s) {}
      (sameWrites_trans (takeOutcome_sameWrites _ _ _ _) (takeHeld_sameWrites _ _ _))
  · split
    · exact {}
    · exact sameWrites_trans (takeOutcome_sameWrites _ _ _ _) (takeHeld_sameWrites _ _ _)

theorem missingLinks_sameWrites (s : State) : s.sameWrites (missingLinks s) := by
  refine foldl_sameWrites _ (fun t p => ?_) _ s
  unfold missingLink
  split
  · exact sameWrites_refl t
  · exact portOutcome_sameWrites _ _ _ _ t

theorem wordclockPresent_sameWrites (s : State) : s.sameWrites (wordclockPresent s) := by
  unfold wordclockPresent
  split
  · exact sameWrites_refl s
  · exact sameWrites_trans (t := { s with ftu := _ }) {} (clockEvent_sameWrites _ _)

theorem wordclockAbsent_sameWrites (s : State) : s.sameWrites (wordclockAbsent s) := by
  unfold wordclockAbsent
  split
  · exact sameWrites_trans (t := { s with ftu := _ }) {} (clockEvent_sameWrites _ _)
  · exact sameWrites_refl s

/-! ### The end of the frame, loads and saves -/

theorem transmit_sameWrites (s : State) : s.sameWrites (transmit s) := {}

/-- The counter's advance clears marks of the buses and channels alone (R1). -/
theorem nextFrame_sameWrites (s : State) : s.sameWrites (nextFrame s) where
  spacing g := by simp [nextFrame]
  delay g := by simp [nextFrame]
  queue g := by simp [nextFrame]

/-- The end of the read: a power-on load goes on to its completion (R161). -/
theorem completeLoad_sameWrites (r : EepromRead) (s : State) : s.sameWrites (completeLoad r s) := by
  unfold completeLoad
  split
  · next kind loads =>
    cases kind with
    | powerOn => exact { load := fun _ => .inl loads }
    | restart => exact { load := fun boots => by rcases boots with boots | ⟨j, boots⟩ <;> cases boots }
  · exact sameWrites_refl s

theorem completeSave_sameWrites (x : SaveEnd) (s : State) : s.sameWrites (completeSave x s) := by
  unfold completeSave
  split
  · exact sameWrites_refl s
  · exact sameWrites_trans (t := { s with sil := _ }) {} (notifyIf_sameWrites _ _ _ _)

end Sys2Proof.Machine
end

section
/-! PROOFS. Live values change by due in-flight writes alone, and every step keeps a channel queued exactly when its desired
values are not its last-sent ones (R71, R73, R78, R84). -/

namespace Sys2Proof.Machine

/-! ### Two kinds of change -/

/-- A change that leaves live values alone and keeps the condition on writes. -/
structure State.keepsWrites (s t : State) : Prop where
  live : ∀ i, (t.channel i).live = (s.channel i).live
  sound : s.writesSound → t.writesSound

theorem keepsWrites_refl (s : State) : s.keepsWrites s := ⟨fun _ => rfl, id⟩

theorem keepsWrites_trans {s t u : State} (a : s.keepsWrites t) (b : t.keepsWrites u) : s.keepsWrites u :=
  ⟨fun i => (b.live i).trans (a.live i), fun h => b.sound (a.sound h)⟩

theorem foldl_keepsWrites {α : Type} (step : State → α → State) (h : ∀ (s : State) (a : α), s.keepsWrites (step s a))
    (l : List α) (s : State) : s.keepsWrites (l.foldl step s) :=
  List.foldlRecOn l step (keepsWrites_refl s) fun t reached a _ => keepsWrites_trans reached (h t a)

theorem sameWrites_sound {s t : State} (same : s.sameWrites t) (h : s.writesSound) : t.writesSound := by
  rw [writesSound_iff] at *
  exact ⟨sameWrites_queuesAgree same h.1, sameWrites_bootIdle same h.2⟩

theorem sameWrites_keepsWrites {s t : State} (same : s.sameWrites t) : s.keepsWrites t :=
  ⟨same.live, sameWrites_sound same⟩

/-- The write of channel `j` was due and has become live, or its live values and its write stay (R84). -/
def State.landsAt (s t : State) (j : Input) : Prop :=
  ((t.channel j).live = (s.channel j).live ∧ (t.channel j).inFlight = (s.channel j).inFlight) ∨
    ∃ w, (s.channel j).inFlight = some w ∧ 0 ≤ lead s.ftu.frame w.effective ∧ (t.channel j).live = w.value ∧
      (t.channel j).inFlight = none

/-- A change within a frame by which writes become live only when they are due, and which keeps the condition on writes. -/
structure State.lands (s t : State) : Prop where
  frame : t.ftu.frame = s.ftu.frame
  channel : ∀ j, s.landsAt t j
  sound : s.writesSound → t.writesSound

theorem sameWrites_lands {s t : State} (same : s.sameWrites t) (frame : t.ftu.frame = s.ftu.frame) : s.lands t :=
  ⟨frame, fun j => .inl ⟨same.live j, same.inFlight j⟩, sameWrites_sound same⟩

theorem lands_refl (s : State) : s.lands s := sameWrites_lands (sameWrites_refl s) rfl

theorem lands_trans {s t u : State} (a : s.lands t) (b : t.lands u) : s.lands u := by
  refine ⟨b.frame.trans a.frame, fun j => ?_, fun h => b.sound (a.sound h)⟩
  rcases a.channel j with ⟨live, flight⟩ | ⟨w, flight, now, live, none⟩
  · unfold State.landsAt
    rw [← live, ← flight, ← a.frame]
    exact b.channel j
  · rcases b.channel j with ⟨live', flight'⟩ | ⟨x, flight', -⟩
    · exact .inr ⟨w, flight, now, live'.trans live, flight'.trans none⟩
    · exact nomatch none.symm.trans flight'

/-! ### Effective events -/

theorem announceLive_sameWrites (i : Input) (d : Int) (s : State) : s.sameWrites (announceLive i d s) :=
  blocks_sameWrites (announceLive_hac i d s) (congrArg Scu.scheduled (announceLive_scu i d s))
    (congrArg Sil.load (announceLive_sil i d s))

/-- The due write of a channel becomes live (R84). -/
theorem makeLive_lands {i : Input} {w : InFlight} {s : State} (flight : (s.channel i).inFlight = some w)
    (now : 0 ≤ lead s.ftu.frame w.effective) :
    s.lands { s with hac := s.hac.makeLive s.ftu.frame i w.value } := by
  refine ⟨rfl, fun j => ?_, fun h => ?_⟩
  · unfold State.landsAt
    rw [makeLive_channel]
    split
    · next own =>
      subst own
      exact .inr ⟨w, flight, now, rfl, rfl⟩
    · exact .inl ⟨rfl, rfl⟩
  · rw [writesSound_iff] at *
    obtain ⟨agree, idle⟩ := h
    refine ⟨makeLive_queuesAgree flight _ agree, fun boots => ?_⟩
    obtain ⟨-, -, ground⟩ := idle boots
    exact nomatch flight.symm.trans (ground i)

theorem effective_lands (i : Input) (s : State) : s.lands (effective i s) := by
  cases flight : (s.channel i).inFlight with
  | none =>
    unfold effective
    rw [flight]
    exact lands_refl s
  | some w =>
    by_cases now : due w.effective s.ftu.frame = true
    · rw [effective_due flight now]
      exact lands_trans (makeLive_lands flight ((due_iff _ _).1 now))
        (sameWrites_lands (announceLive_sameWrites _ _ _) (congrArg Ftu.frame (announceLive_ftu _ _ _)))
    · unfold effective
      rw [flight]
      dsimp only
      rw [if_neg now]
      exact lands_refl s

theorem effectiveEvents_lands (s : State) : s.lands (effectiveEvents s) := by
  unfold effectiveEvents
  exact List.foldlRecOn inputs _ (lands_refl s) fun t reached i _ => lands_trans reached (effective_lands i t)

/-- The opening of a frame makes live what is due in it (R84). -/
theorem beforeStep_lands (s : State) : s.lands (beforeStep s) := by
  refine lands_trans ?_ (effectiveEvents_lands _)
  refine sameWrites_lands (sameWrites_trans (settleEnds_sameWrites s) ?_) ?_
  · refine sameWrites_trans (t := lawInEffect (mapsInForce (settleEnds s))) ?_ (missingConverters_sameWrites _)
    exact blocks_sameWrites (by rw [lawInEffect_hac, mapsInForce_hac]) (by rw [lawInEffect_scu, mapsInForce_scu])
      (by rw [lawInEffect_sil, mapsInForce_sil])
  · rw [(missingConverters_alike _).ftu, lawInEffect_ftu, mapsInForce_ftu, settleEnds_ftu]

theorem opened_lands (s : State) : s.lands s.opened := sameWrites_lands {} rfl

theorem stepTaps_lands (s : State) : s.lands (stepTaps s) := sameWrites_lands {} rfl

theorem takeSamples_lands (s : State) : s.lands (takeSamples s) :=
  sameWrites_lands (takeSamples_sameWrites s) (congrArg Ftu.frame (takeSamples_near s).ftu)

theorem openFrame_lands (s : State) : s.lands (openFrame s) := by
  cases stepped : s.stepped with
  | true =>
    rw [openFrame_of_stepped stepped]
    exact lands_refl s
  | false =>
    rw [openFrame_eq s stepped]
    exact lands_trans (beforeStep_lands s)
      (lands_trans (stepTaps_lands _) (lands_trans (takeSamples_lands _) (opened_lands _)))

theorem beforeRequests_lands (s : State) : s.lands (beforeRequests s) :=
  lands_trans (openFrame_lands s) (sameWrites_lands (periodEnds_sameWrites _) (congrArg Ftu.frame (periodEnds_near _).ftu))

/-! ### Send opportunities -/

/-- A send leaves live values alone, and in the power-on load there is nothing to send (R80, R91). -/
theorem send_keepsWrites {b : Group} {e : QueueEntry} {s : State} (listed : e ∈ s.hac.buses[b].queue) (n : FrameNo) :
    s.keepsWrites { s with hac := s.hac.send b n e } := by
  refine ⟨(send_still b n e s).live, fun h => ?_⟩
  rw [writesSound_iff] at *
  obtain ⟨agree, idle⟩ := h
  refine ⟨send_queuesAgree n listed agree, fun boots => ?_⟩
  obtain ⟨-, empty, -⟩ := idle boots
  rw [empty] at listed
  exact absurd listed List.not_mem_nil

theorem busOpportunity_keepsWrites (b : Group) (s : State) : s.keepsWrites (busOpportunity b s) := by
  unfold busOpportunity Hac.opportunity
  split
  · have used : s.sameWrites { s with hac := s.hac.onBus b fun u => { u with taken := true } } :=
      { spacing := upd_read _ b _ PreampBus.spacing fun _ => rfl
        delay := upd_read _ b _ PreampBus.delay fun _ => rfl
        queue := upd_read _ b _ PreampBus.queue fun _ => rfl }
    dsimp only
    split
    · next e found =>
      exact keepsWrites_trans (sameWrites_keepsWrites used) (send_keepsWrites (oldestEligible_listed found) _)
    · exact sameWrites_keepsWrites used
  · exact keepsWrites_refl s

/-! ### Scenes -/

theorem act_queuesAgree {f : Feed} {e : SceneEntry} {s : State} (agree : s.hac.queuesAgree) :
    (e.act f s).hac.queuesAgree := by
  unfold SceneEntry.act
  split
  · exact change_queuesAgree _ _ agree
  · exact agree
  · exact agree

theorem runEntries_queuesAgree (f : Feed) (es : List SceneEntry) : ∀ (k : Nat) (s : State) (r : SceneResult),
    s.hac.queuesAgree → (runEntries f k es s r).1.hac.queuesAgree := by
  induction es with
  | nil => exact fun _ _ _ h => h
  | cons e es ih =>
    intro k s r agree
    unfold runEntries
    split
    · exact ih _ _ _ (act_queuesAgree agree)
    · exact ih _ _ _ agree

theorem act_live (f : Feed) (e : SceneEntry) (s : State) (i : Input) :
    ((e.act f s).channel i).live = (s.channel i).live := by
  unfold SceneEntry.act
  split
  · exact change_live s.hac _ _ i
  · rfl
  · rfl

theorem runEntries_live (f : Feed) (es : List SceneEntry) (i : Input) : ∀ (k : Nat) (s : State) (r : SceneResult),
    ((runEntries f k es s r).1.channel i).live = (s.channel i).live := by
  induction es with
  | nil => exact fun _ _ _ => rfl
  | cons e es ih =>
    intro k s r
    unfold runEntries
    split
    · exact (ih _ _ _).trans (act_live f e s i)
    · exact ih _ _ _

/-- No change of a running part brings its power-on load back (R161, R165). -/
theorem within_poweringOn {s t : State} (h : s.within t) (boots : t.poweringOn) : s.poweringOn := by
  rcases h.load with same | ⟨-, restarts⟩
  · exact (poweringOn_congr same).1 boots
  · rcases boots with boots | ⟨j, boots⟩ <;> exact nomatch restarts.symm.trans boots

/-- A due scene changes desired values alone, and in the power-on load there is no scene (R116, R123). -/
theorem sceneDue_keepsWrites (s : State) : s.keepsWrites (sceneDue s) := by
  refine ⟨fun i => ?_, fun h => ?_⟩
  · unfold sceneDue
    split
    · rfl
    · split
      · exact runEntries_live _ _ i _ _ _
      · rfl
  · rw [writesSound_iff] at *
    obtain ⟨agree, idle⟩ := h
    refine ⟨?_, fun boots => ?_⟩
    · unfold sceneDue
      split
      · exact agree
      · split
        · exact runEntries_queuesAgree _ _ _ _ _ agree
        · exact agree
    · have boots' := within_poweringOn (sceneDue_within s) boots
      have none : sceneDue s = s := by
        unfold sceneDue
        rw [(idle boots').1]
      rw [none]
      exact idle boots'

/-! ### Requests -/

/-- A request keeps what holds of the state that it finds, if its body does so (R146). -/
theorem runRequest_keeps {α : Type} {P : State → Prop} {k : ReqKind} {parsed : Option α} {form : α → Bool} {f : Feed}
    {body : α → State → Reply} {s : State} (h : P s) (carries : ∀ p, P (body p s).1) :
    P (runRequest k parsed form f body s).1 := by
  unfold runRequest
  cases parsed with
  | none => exact h
  | some p =>
    dsimp only
    repeat' split
    · exact h
    · exact h
    · exact h
    · exact carries p

theorem runRequest_queuesAgree {α : Type} {k : ReqKind} {parsed : Option α} {form : α → Bool} {f : Feed}
    {body : α → State → Reply} {s : State} (agree : s.hac.queuesAgree) (carries : ∀ p, (body p s).1.hac.queuesAgree) :
    (runRequest k parsed form f body s).1.hac.queuesAgree :=
  runRequest_keeps (P := fun t => t.hac.queuesAgree) agree carries

theorem onInputs_queuesAgree {f : Feed} {set : ChannelSet} {check : State → Input → Option Result}
    {body : List Input → State → Reply} {s : State} (agree : s.hac.queuesAgree)
    (carries : ∀ is, (body is s).1.hac.queuesAgree) : (onInputs f set check body s).1.hac.queuesAgree := by
  unfold onInputs
  split
  · exact agree
  · exact carries _

/-- Changes of desired values one after another (R73). -/
theorem changes_queuesAgree (v : Input → State → HeadAmp) (is : List Input) {s : State} (agree : s.hac.queuesAgree) :
    (is.foldl (fun t i => { t with hac := t.hac.change i (v i t) }) s).hac.queuesAgree :=
  List.foldlRecOn (motive := fun t : State => t.hac.queuesAgree) is _ agree fun _ reached i _ => change_queuesAgree i _ reached

theorem executeKind_queuesAgree (f : Feed) (ps : List Byte) (k : ReqKind) {s : State} (agree : s.hac.queuesAgree) :
    (executeKind f ps k s).1.hac.queuesAgree := by
  have same {t : State} (h : s.sameWrites t) : t.hac.queuesAgree := sameWrites_queuesAgree h agree
  cases k with
  | haSet | haNudge =>
    exact runRequest_queuesAgree agree fun _ => onInputs_queuesAgree agree fun is => changes_queuesAgree _ is agree
  | scnCommit =>
    refine runRequest_queuesAgree agree fun mode => ?_
    repeat' split
    · exact agree
    · exact agree
    · exact runEntries_queuesAgree f _ 0 _ _ agree
    · exact runEntries_queuesAgree f _ 0 _ _ agree
    · exact agree
    · exact agree
    · exact agree
  | plawApply =>
    refine runRequest_queuesAgree agree fun _ => ?_
    repeat' split
    · exact agree
    · exact agree
    · exact same (applyPlaw_sameWrites s)
  | ownClaim =>
    refine runRequest_queuesAgree agree fun set => ?_
    dsimp only
    split
    · unfold refuseAt
      dsimp only
      split
      · exact same (foldl_sameWrites _ (fun _ _ => claimSeen_sameWrites _ _ _) _ s)
      · exact agree
    · exact same (foldl_sameWrites _ (fun _ _ => setOwner_sameWrites _ _ _ _) _ s)
  | ownRelease | ownAssign =>
    exact runRequest_queuesAgree agree fun _ => onInputs_queuesAgree agree fun is =>
      same (foldl_sameWrites _ (fun _ _ => setOwner_sameWrites _ _ _ _) is s)
  | tapTrim | tapMode | tapAnchor | tapMute =>
    exact runRequest_queuesAgree agree fun _ => onInputs_queuesAgree agree fun is =>
      same (foldl_sameWrites _ (fun _ _ => changeTap_sameWrites _ _ _ _) is s)
  | tapGet | haGet | clipGet | clipSet | clipAck =>
    exact runRequest_queuesAgree agree fun _ => onInputs_queuesAgree agree fun _ => agree
  | scnAdd =>
    refine runRequest_queuesAgree agree fun _ => ?_
    split
    · exact agree
    · refine onInputs_queuesAgree agree fun _ => ?_
      dsimp only
      split <;> exact agree
  | mtrSubscribe =>
    refine runRequest_queuesAgree agree fun _ => ?_
    split
    · exact agree
    · exact onInputs_queuesAgree agree fun _ => agree
  | clockSet =>
    refine runRequest_queuesAgree agree fun _ => ?_
    dsimp only
    split <;> exact agree
  | devStatus | devRestart | storeSave | mapWindows | mapGet | feedGlide | lawStage | lawApply | plawStage | lawGet
  | supervisorSet | scnOpen | scnCancel | scnList =>
    refine runRequest_queuesAgree agree fun _ => ?_
    repeat' split
    all_goals exact agree

/-- While a load runs, every request but DEV_STATUS changes nothing (R146, R161). -/
theorem runRequest_loading {α : Type} {k : ReqKind} {parsed : Option α} {form : α → Bool} {f : Feed}
    {body : α → State → Reply} {s : State} (loads : s.loading = true) (other : k ≠ .devStatus) :
    (runRequest k parsed form f body s).1 = s := by
  unfold runRequest
  cases parsed with
  | none => rfl
  | some p =>
    dsimp only
    rw [loads, decide_eq_true other]
    rfl

theorem executeKind_loading {f : Feed} {ps : List Byte} {k : ReqKind} {s : State} (loads : s.loading = true)
    (other : k ≠ .devStatus) : (executeKind f ps k s).1 = s := by
  cases k
  all_goals exact runRequest_loading loads other

theorem loading_of_poweringOn {s : State} (boots : s.poweringOn) : s.loading = true := by
  rw [loading_iff]
  rcases boots with boots | ⟨j, boots⟩ <;> (rw [boots]; exact fun h => nomatch h)

theorem executeKind_bootIdle (f : Feed) (ps : List Byte) (k : ReqKind) {s : State} (idle : s.bootIdle) :
    (executeKind f ps k s).1.bootIdle := by
  by_cases boots : s.poweringOn
  · by_cases status : k = .devStatus
    · subst status
      exact runRequest_keeps (P := State.bootIdle) idle fun _ => sameWrites_bootIdle (s := s) {} idle
    · rw [executeKind_loading (loading_of_poweringOn boots) status]
      exact idle
  · exact bootIdle_of_awake (mt (within_poweringOn (executeKind_within f ps k s)) boots)

/-- Whatever its kind, a request leaves live values alone and keeps the condition on writes. -/
theorem execute_keepsWrites (f : Feed) (m : Message) (s : State) : s.keepsWrites (execute f m s).1 := by
  refine ⟨(execute_keepsTo f m s).live, fun h => ?_⟩
  unfold execute
  split
  · exact h
  · rw [writesSound_iff] at *
    exact ⟨executeKind_queuesAgree f m.params _ h.1, executeKind_bootIdle f m.params _ h.2⟩

theorem grant_keepsWrites (f : Feed) (m : Message) (s : State) : s.keepsWrites (grant f m s) :=
  keepsWrites_trans (execute_keepsWrites f m s) (sameWrites_keepsWrites {})

theorem consider_keepsWrites (f : Feed) (s : State) : s.keepsWrites (consider f s) := by
  unfold consider
  split
  · exact sameWrites_keepsWrites {}
  · split
    · exact keepsWrites_trans (t := popRequest f s) (sameWrites_keepsWrites {}) (grant_keepsWrites f _ _)
    · exact sameWrites_keepsWrites {}

theorem round_keepsWrites (s : State) : s.keepsWrites (round s) :=
  foldl_keepsWrites _ (fun t f => consider_keepsWrites f t) _ s

theorem roundUpTo_keepsWrites (f : Feed) (s : State) : s.keepsWrites (roundUpTo f s) :=
  foldl_keepsWrites _ (fun t g => consider_keepsWrites g t) _ s

/-! ### The end of the frame -/

theorem afterRound_keepsWrites (s : State) : s.keepsWrites (afterRound s) := by
  have late : s.sameWrites (lateArrivals s) := {}
  have timers : s.keepsWrites (holdoverTimer (revertTimer (missingLinks (lateArrivals s)))) :=
    sameWrites_keepsWrites (sameWrites_trans late (sameWrites_trans (missingLinks_sameWrites _)
      (sameWrites_trans (clockEvent_sameWrites _ _) (clockEvent_sameWrites _ _))))
  have scenes (u : State) : u.keepsWrites (scenesDue u) :=
    keepsWrites_trans (sceneDue_keepsWrites u) (keepsWrites_trans (sceneDue_keepsWrites _)
      (keepsWrites_trans (sceneDue_keepsWrites _) (sceneDue_keepsWrites _)))
  exact keepsWrites_trans timers (keepsWrites_trans (scenes _)
    (foldl_keepsWrites (fun t b => busOpportunity b t) (fun t b => busOpportunity_keepsWrites b t) (List.finRange 6) _))

theorem loadedHac_live (kind : LoadKind) (x : Settings) (h : Hac) (i : Input) :
    (loadedHac kind x h).channels[i].live = h.channels[i].live := by
  cases kind with
  | restart => simp [loadedHac, loadChannels, loadHac]
  | powerOn =>
    simp only [loadedHac, loadDesired, loadChannels, loadHac, Fin.getElem_fin, mapAll_entry, Channel.releaseHold]
    split <;> rfl

theorem loadChannels_bus (x : Settings) (h : Hac) (g : Group) :
    (loadChannels x (loadHac x h)).buses[g] = { h.buses[g] with spacing := x.spacing[g], delay := x.delay[g] } :=
  tab_at _ g

theorem loadChannels_channel (x : Settings) (h : Hac) (i : Input) :
    (loadChannels x (loadHac x h)).channels[i] =
      { h.channels[i] with gain := (loadHac x h).gainOf h.channels[i].live, owner := x.owners[i] } :=
  tab_at _ i

theorem loadChannels_timed {x : Settings} (sound : x.sound) (h : Hac) (g : Group) :
    (loadChannels x (loadHac x h)).buses[g].timed := by
  obtain ⟨-, -, -, buses, -⟩ := sound
  rw [loadChannels_bus]
  exact buses g

/-- A restart load gives the buses their W and K and leaves queues and values as they are (R92, R94). -/
theorem loadChannels_queuesAgree {x : Settings} (sound : x.sound) {h : Hac} (agree : h.queuesAgree) :
    (loadChannels x (loadHac x h)).queuesAgree := by
  intro g
  obtain ⟨-, distinct, entries⟩ := agree g
  refine ⟨loadChannels_timed sound h g, ?_, fun e => ?_⟩
  · rw [loadChannels_bus]
    exact distinct
  · rw [loadChannels_bus, loadChannels_channel]
    exact entries e

/-- The blocks take the loaded values, on an idle HAC at the end of the power-on load (R91 to R94). -/
theorem takeSettings_keepsWrites {kind : LoadKind} {j : Judgement} {s : State} (load : s.sil.load = .complete kind j) :
    s.keepsWrites (takeSettings kind j s) := by
  refine ⟨loadedHac_live kind j.settings s.hac, fun h => ?_⟩
  have awake : ¬ (takeSettings kind j s).poweringOn := by
    rintro (boots | ⟨_, boots⟩) <;> cases boots
  rw [writesSound_iff] at *
  obtain ⟨agree, idle⟩ := h
  refine ⟨?_, bootIdle_of_awake awake⟩
  cases kind with
  | restart => exact loadChannels_queuesAgree (settings_sound j) agree
  | powerOn =>
    obtain ⟨-, empty, ground⟩ := idle (.inr ⟨j, load⟩)
    refine loadDesired_queuesAgree _ (loadChannels_timed (settings_sound j) s.hac) (fun g => ?_) fun i => ?_
    · rw [loadChannels_bus]
      exact empty g
    · rw [loadChannels_channel]
      exact ground i

theorem becomeReady_keepsWrites (s : State) : s.keepsWrites (becomeReady s) := by
  unfold becomeReady
  split
  · next kind j load => exact takeSettings_keepsWrites load
  · exact keepsWrites_refl s

theorem tick_keepsWrites (s : State) : (beforeRequests s).keepsWrites (tick s) := by
  have events : (beforeRequests s).keepsWrites (frameEvents s) :=
    keepsWrites_trans (round_keepsWrites _) (afterRound_keepsWrites _)
  have ended := sameWrites_trans (transmit_sameWrites (frameEvents s)) (nextFrame_sameWrites _)
  exact keepsWrites_trans events (keepsWrites_trans (sameWrites_keepsWrites ended) (becomeReady_keepsWrites _))

/-! ### Every command -/

/-- A request command: the frame is opened, and the rest leaves live values alone (R71, R145). -/
theorem submit_landsThenKeeps (f : Feed) (m : Message) (s : State) : ∃ u, s.lands u ∧ u.keepsWrites (submit f m s) := by
  unfold submit
  split
  · split
    · exact ⟨_, beforeRequests_lands s, keepsWrites_trans (roundUpTo_keepsWrites f _) (grant_keepsWrites f m _)⟩
    · exact ⟨s, lands_refl s, sameWrites_keepsWrites {}⟩
  · exact ⟨s, lands_refl s, keepsWrites_refl s⟩

/-- Every command but RESET makes due writes live, and after that leaves live values alone (R71, R84). -/
theorem exec_landsThenKeeps {c : Instr} {s t : State} (running : c ≠ .reset) (e : exec c s = .next t) :
    ∃ u, s.lands u ∧ u.keepsWrites t := by
  have next {v : State} (h : ∃ u, s.lands u ∧ u.keepsWrites v)
      (e : (Host.Outcome.next v : Host.Outcome State Fault Refusal) = .next t) : ∃ u, s.lands u ∧ u.keepsWrites t := by
    cases e
    exact h
  have same {v : State} (h : s.sameWrites v) : ∃ u, s.lands u ∧ u.keepsWrites v :=
    ⟨s, lands_refl s, sameWrites_keepsWrites h⟩
  have opened {v : State} (h : (openFrame s).keepsWrites v) : ∃ u, s.lands u ∧ u.keepsWrites v :=
    ⟨_, openFrame_lands s, h⟩
  cases req : c.request with
  | some r =>
    obtain ⟨f, tag, kind, ps⟩ := r
    rw [exec_request req] at e
    exact next (submit_landsThenKeeps f _ s) e
  | none =>
    cases c with
    | reset => exact absurd rfl running
    | frameTick => exact next ⟨_, beforeRequests_lands s, tick_keepsWrites s⟩ e
    | converterFrame g x => exact next (same (converterOutcome_sameWrites g _ s)) e
    | upstreamFrame p x late => exact next (same (portOutcome_sameWrites _ _ late (judgeUpstream x) s)) e
    | wordclockPresent => exact next (same (wordclockPresent_sameWrites s)) e
    | wordclockAbsent => exact next (same (wordclockAbsent_sameWrites s)) e
    | revertTimerExpiry => exact next (same (clockEvent_sameWrites _ s)) e
    | holdoverTimerExpiry => exact next (same (clockEvent_sameWrites _ s)) e
    | busSendOpportunity b => exact next (opened (busOpportunity_keepsWrites b _)) e
    | effectiveEvent i => exact next ⟨_, effective_lands i s, keepsWrites_refl _⟩ e
    | settleMuteEnd i => exact next (same (settleEnd_sameWrites i s)) e
    | sceneExecution => exact next (opened (sceneDue_keepsWrites _)) e
    | meterPeriodEnd f => exact next (opened (sameWrites_keepsWrites (periodEnd_sameWrites f _))) e
    | pendingMapInForce f => exact next (same {}) e
    | pendingLawInEffect => exact next (same {}) e
    | loadComplete x => exact next (same (completeLoad_sameWrites x s)) e
    | saveComplete x => exact next (same (completeSave_sameWrites x s)) e
    | _ => cases req

/-- Settles O51: live values change while due writes become live, and nothing after that moves them. -/
theorem liveValuesChangeWhenDue : Obligations.LiveValuesChangeWhenDue := by
  intro s t c i running e differs
  obtain ⟨u, lands, keeps⟩ := exec_landsThenKeeps running e
  rw [keeps.live] at differs ⊢
  rcases lands.channel i with ⟨live, -⟩ | ⟨w, flight, now, live, -⟩
  · exact absurd live differs
  · exact ⟨w, flight, now, live⟩

/-- A reset part has nothing queued or in flight (R91, R123). -/
theorem powerOn_writesSound (s : State) : (powerOn s).writesSound := by
  have bus (g : Group) : (powerOn s).hac.buses[g] = PreampBus.reset := tab_at _ g
  have channel (i : Input) : (powerOn s).channel i = Channel.reset := tab_at _ i
  have timed : PreampBus.reset.timed := ⟨by decide, by decide, by decide⟩
  rw [writesSound_iff]
  refine ⟨fun g => ?_, fun _ => ⟨rfl, fun g => ?_, fun i => ?_⟩⟩
  · rw [bus]
    refine ⟨timed, List.nodup_nil, fun e => ?_⟩
    have reset : (powerOn s).hac.channels[inputAt g e.channel] = Channel.reset := channel _
    rw [reset]
    exact ⟨fun h => absurd h List.not_mem_nil, fun h => absurd rfl h.2⟩
  · rw [bus]
    rfl
  · rw [channel]
    rfl

/-- Settles O57: a step takes the command at the front of the queue, and every command keeps the condition. -/
theorem writesStaySound : Obligations.WritesStaySound := by
  intro s t sound e
  unfold step at e
  split at e
  · cases e
    exact sound
  · next c rest _ =>
    by_cases reset : c = .reset
    · subst reset
      cases e
      exact powerOn_writesSound _
    · obtain ⟨u, lands, keeps⟩ := exec_landsThenKeeps reset e
      exact keeps.sound (lands.sound sound)

end Sys2Proof.Machine
end

section
/-! PROOFS. Head-amp changes, send opportunities and the due values that take over (R25, R67, R73, R79 to R83). -/

namespace Sys2Proof.Machine

/-! ### A head-amp change -/

/-- A withdrawal releases the start-up hold of its channel (R83). -/
def Hac.releases (i : Input) (v : HeadAmp) (h : Hac) : Prop :=
  v = h.channels[i].lastSent ∧ (∃ e ∈ h.buses[groupOf i].queue, e.channel = placeOf i) ∧ h.channels[i].settle = .held

theorem releases_iff (h : Hac) (i : Input) (v : HeadAmp) :
    (decide (v = h.channels[i].lastSent) && queuedAt (placeOf i) h.buses[groupOf i].queue &&
      decide (h.channels[i].settle = .held)) = true ↔ h.releases i v := by
  rw [Bool.and_eq_true, Bool.and_eq_true, decide_eq_true_iff, decide_eq_true_iff, queuedAt_iff, and_assoc]
  rfl

theorem change_channel (h : Hac) (i : Input) (v : HeadAmp) (k : Input) :
    (h.change i v).channels[k] = if k = i then
      { h.channels[i] with
        desired := v
        settle := if decide (v = h.channels[i].lastSent) && queuedAt (placeOf i) h.buses[groupOf i].queue &&
          decide (h.channels[i].settle = .held) then .absent else h.channels[i].settle }
      else h.channels[k] := by
  unfold Hac.change
  dsimp only
  rw [upd_eq_tab, tab_at]
  split
  · next own => rw [own]
  · rfl

/-- Only the channel's desired values and settle mute and its bus's queue differ after a change (R73). -/
theorem change_eq (h : Hac) (i : Input) (v : HeadAmp) :
    h.change i v = { h with
      channels := tab fun k => if k = i then
          { h.channels[i] with desired := v, settle := (h.change i v).channels[i].settle } else h.channels[k]
      buses := tab fun g => if g = groupOf i then
          { h.buses[g] with queue := (h.change i v).buses[groupOf i].queue } else h.buses[g] } := by
  have channels : (h.change i v).channels = tab fun k => if k = i then
      { h.channels[i] with desired := v, settle := (h.change i v).channels[i].settle } else h.channels[k] := by
    refine entries_ext fun k => ?_
    rw [tab_at, change_channel, change_channel, if_pos rfl]
  have buses : (h.change i v).buses = tab fun g => if g = groupOf i then
      { h.buses[g] with queue := (h.change i v).buses[groupOf i].queue } else h.buses[g] := by
    refine entries_ext fun g => ?_
    rw [tab_at, change_bus, change_bus, if_pos rfl]
    split
    · next bus => rw [bus]
    · rfl
  rw [← channels, ← buses]
  rfl

/-- Settles O17: the settle mute and the queue that a change leaves, by whether the new values are the last-sent ones. -/
theorem headAmpChangeQueues : Obligations.HeadAmpChangeQueues := by
  intro h i v c q sent waiting
  have settle := congrArg Channel.settle (change_channel h i v i)
  have queue := congrArg PreampBus.queue (change_bus h i v (groupOf i))
  rw [if_pos rfl] at settle queue
  have released := releases_iff h i v
  have waits : queuedAt (placeOf i) h.buses[groupOf i].queue = true ↔ waiting := queuedAt_iff
  refine ⟨_, _, change_eq h i v, fun same => ?_, fun differs => ?_⟩
  · rw [settle, queue]
    exact ⟨if_pos same, fun waited held => if_pos (released.2 ⟨same, waited, held⟩),
      fun kept => if_neg fun r => kept (released.1 r).2⟩
  · rw [settle, queue, if_neg (show ¬ v = h.channels[i].lastSent from differs)]
    exact ⟨if_neg fun r => differs (released.1 r).1, fun waited => if_pos (waits.2 waited),
      fun absent => if_neg (mt waits.1 absent)⟩

/-! ### Send opportunities -/

theorem eligible_eq (n : FrameNo) (i : Input) (h : Hac) :
    h.eligible n i = (!h.landed[i] && match h.channels[i].inFlight with
      | none => true
      | some w => decide (lead w.effective n < 0)) := by
  unfold Hac.eligible Channel.blocks
  rw [Bool.and_comm]
  cases h.channels[i].inFlight with
  | none => rfl
  | some w =>
    refine congrArg (!h.landed[i] && ·) ?_
    show (!decide (0 ≤ lead w.effective n)) = _
    rw [← decide_not]
    exact decide_eq_decide.2 (by omega)

theorem oldestEligible_eq (b : Group) (n : FrameNo) (h : Hac) :
    h.oldestEligible b n = h.buses[b].queue.find? fun e =>
      !h.landed[inputAt b e.channel] && match h.channels[inputAt b e.channel].inFlight with
        | none => true
        | some w => decide (lead w.effective n < 0) := by
  unfold Hac.oldestEligible
  exact congrArg (List.find? · _) (funext fun e => eligible_eq n _ h)

theorem toNat_append_add {n m : Nat} (x : BitVec n) (y : BitVec m) : (x ++ y).toNat = x.toNat * 2 ^ m + y.toNat := by
  rw [BitVec.toNat_append, ← Nat.shiftLeft_add_eq_or_of_lt y.isLt, Nat.shiftLeft_eq]

/-- The preamp word as its fields side by side (09_the_control_lane.md, "Preamp word"). -/
theorem preampWord_eq (j : Fin 8) (v : HeadAmp) :
    preampWord j v = BitVec.ofNat 3 j.val ++ BitVec.ofNat 6 v.code.val ++ BitVec.ofBool v.pad ++
      BitVec.ofBool v.phantom ++ 0#5 := by
  have place := j.isLt
  have code := v.code.isLt
  have pad := v.pad.toNat_lt
  have phantom := v.phantom.toNat_lt
  apply BitVec.eq_of_toNat_eq
  simp only [preampWord, toNat_append_add, BitVec.toNat_ofNat, BitVec.toNat_ofBool]
  omega

/-- The length of a settle mute, 0 where neither pad nor phantom moves (R82). -/
def Hac.settleFrames (h : Hac) (sent live : HeadAmp) : Nat :=
  if sent.pad ≠ live.pad ∧ sent.phantom ≠ live.phantom then max h.padSettle.toNat (h.phantomSettle.toNat * 256)
  else if sent.pad ≠ live.pad then h.padSettle.toNat
  else if sent.phantom ≠ live.phantom then h.phantomSettle.toNat * 256
  else 0

theorem settleLength_eq (h : Hac) (sent live : HeadAmp) :
    h.settleLength sent live =
      if sent.pad ≠ live.pad ∨ sent.phantom ≠ live.phantom then some (h.settleFrames sent live) else none := by
  unfold Hac.settleLength Hac.settleFrames
  by_cases pad : sent.pad = live.pad <;> by_cases phantom : sent.phantom = live.phantom <;> simp [pad, phantom]

/-- The settle mute after a send: set, extended, or in place of the start-up hold (R82, R83). -/
theorem afterSend_eq (h : Hac) (sent live : HeadAmp) (m : SettleMute) (x : FrameNo) :
    m.afterSend x (h.settleLength sent live) = match m with
      | .held => .ends (x + BitVec.ofNat 32 (h.settleFrames sent live))
      | .absent =>
        if sent.pad ≠ live.pad ∨ sent.phantom ≠ live.phantom then
          .ends (x + BitVec.ofNat 32 (h.settleFrames sent live)) else .absent
      | .ends y =>
        if (sent.pad ≠ live.pad ∨ sent.phantom ≠ live.phantom) ∧
            0 ≤ lead (x + BitVec.ofNat 32 (h.settleFrames sent live)) y then
          .ends (x + BitVec.ofNat 32 (h.settleFrames sent live))
        else .ends y := by
  rw [settleLength_eq]
  by_cases moves : sent.pad ≠ live.pad ∨ sent.phantom ≠ live.phantom
  · rw [if_pos moves]
    cases m with
    | absent => exact (if_pos moves).symm
    | held => rfl
    | ends y => simp only [SettleMute.afterSend, notAfter_iff, moves, true_and]
  · have still : h.settleFrames sent live = 0 := by
      rw [not_or] at moves
      rw [Hac.settleFrames, if_neg fun both => moves.1 both.1, if_neg moves.1, if_neg moves.2]
    rw [if_neg moves, still]
    cases m with
    | absent => exact (if_neg moves).symm
    | held => rfl
    | ends y => exact (if_neg fun h => moves h.1).symm

/-- A frame that is no send opportunity, or whose opportunity is used, sends nothing (R79). -/
theorem busOpportunity_unused {b : Group} {u : State}
    (unused : u.hac.buses[b].taken = true ∨ u.ftu.frame.toNat % u.hac.buses[b].spacing ≠ 0) : busOpportunity b u = u := by
  unfold busOpportunity Hac.opportunity PreampBus.opportunity
  rw [if_neg]
  rw [Bool.and_eq_true, Bool.not_eq_true', decide_eq_true_iff]
  rintro ⟨free, multiple⟩
  rcases unused with taken | other
  · exact Bool.false_ne_true (free.symm.trans taken)
  · exact other multiple

/-- The HAC with the opportunity of bus `b` taken. -/
def Hac.used (b : Group) (h : Hac) : Hac := h.onBus b fun u => { u with taken := true }

theorem used_bus (b : Group) (h : Hac) : (h.used b).buses[b] = { h.buses[b] with taken := true } := by
  unfold Hac.used Hac.onBus
  rw [upd_eq_tab, tab_at, if_pos rfl]

/-- An opportunity sends the oldest eligible entry, if there is one (R79, R80). -/
theorem busOpportunity_taken {b : Group} {u : State}
    (opportunity : ¬ (u.hac.buses[b].taken = true ∨ u.ftu.frame.toNat % u.hac.buses[b].spacing ≠ 0)) :
    busOpportunity b u = { u with hac := match u.hac.oldestEligible b u.ftu.frame with
      | some e => (u.hac.used b).send b u.ftu.frame e
      | none => u.hac.used b } := by
  obtain ⟨free, multiple⟩ := not_or.1 opportunity
  have same : (u.hac.used b).oldestEligible b u.ftu.frame = u.hac.oldestEligible b u.ftu.frame := by
    unfold Hac.oldestEligible
    rw [used_bus]
    rfl
  unfold busOpportunity Hac.opportunity PreampBus.opportunity
  rw [Bool.eq_false_iff.2 free, decide_eq_true (not_not.1 multiple)]
  show ({ u with hac := match (u.hac.used b).oldestEligible b u.ftu.frame with
      | some e => (u.hac.used b).send b u.ftu.frame e
      | none => u.hac.used b } : State) = _
  rw [same]

/-- The HAC with the opportunity taken, bus by bus. -/
theorem used_eq (b : Group) (h : Hac) :
    h.used b = { h with buses := tab fun g => if g = b then { h.buses[b] with taken := true } else h.buses[g] } := by
  unfold Hac.used Hac.onBus
  rw [upd_eq_tab]
  refine congrArg (fun v => { h with buses := tab v }) (funext fun g => ?_)
  split
  · next bus => rw [bus]
  · rfl

/-- A send at an opportunity, bus by bus and channel by channel (R80, R82). -/
theorem send_used (b : Group) (n : FrameNo) (e : QueueEntry) (h : Hac) :
    let x : FrameNo := n + 1 + BitVec.ofNat 32 h.buses[b].delay
    let c := h.channels[inputAt b e.channel]
    (h.used b).send b n e = { h with
      buses := tab fun g => if g = b then
          { h.buses[b] with
            taken := true, queue := withdraw e.channel h.buses[b].queue, word := some (preampWord e.channel e.value) }
        else h.buses[g]
      channels := tab fun k => if k = inputAt b e.channel then
          { c with
            inFlight := some { value := e.value, sent := n, effective := x }
            settle := c.settle.afterSend x (h.settleLength e.value c.live) }
        else h.channels[k] } := by
  intro x c
  have delay : (h.used b).buses[b].delay = h.buses[b].delay := by rw [used_bus]
  have buses : ((h.used b).send b n e).buses = tab fun g => if g = b then
      { h.buses[b] with
        taken := true, queue := withdraw e.channel h.buses[b].queue, word := some (preampWord e.channel e.value) }
      else h.buses[g] := by
    refine entries_ext fun g => ?_
    rw [send_bus, tab_at, used_eq, tab_at]
    split <;> rfl
  have channels : ((h.used b).send b n e).channels = tab fun k => if k = inputAt b e.channel then
      { c with
        inFlight := some { value := e.value, sent := n, effective := x }
        settle := c.settle.afterSend x (h.settleLength e.value c.live) }
      else h.channels[k] := by
    refine entries_ext fun k => ?_
    rw [send_channel, tab_at, delay]
    split
    · next own =>
      subst own
      rfl
    · rfl
  rw [← buses, ← channels]
  rfl

/-- Settles O18: the opportunity is none, finds nothing to send, or sends the oldest eligible entry. -/
theorem busSendsOldestEligible : Obligations.BusSendsOldestEligible := by
  intro s b u n bus
  split
  · next unused => exact congrArg Host.Outcome.next (busOpportunity_unused unused)
  · next opportunity =>
    have run : exec (.busSendOpportunity b) s = .next _ := congrArg Host.Outcome.next (busOpportunity_taken opportunity)
    intro used
    split
    · next nothing =>
      have found : u.hac.oldestEligible b n = none := (oldestEligible_eq b n u.hac).trans nothing
      rw [run, found]
      exact congrArg (fun h => Host.Outcome.next { u with hac := h }) (used_eq b u.hac)
    · next e oldest =>
      have found : u.hac.oldestEligible b n = some e := (oldestEligible_eq b n u.hac).trans oldest
      intro i c effective padLength phantomLength padMoves phantomMoves length settle word
      have muted : c.settle.afterSend effective (u.hac.settleLength e.value c.live) = settle := afterSend_eq _ _ _ _ _
      have spelt : preampWord e.channel e.value = word := preampWord_eq _ _
      rw [run, found, ← muted, ← spelt]
      exact congrArg (fun h => Host.Outcome.next { u with hac := h }) (send_used b n e u.hac)

/-! ### Due values -/

theorem endSettle_eq (n : FrameNo) (c : Channel) :
    c.endSettle n = { c with settle := match c.settle with
      | .ends x => if lead x n < 0 then .absent else .ends x
      | m => m } := by
  obtain ⟨desired, inFlight, live, gain, settle, owner⟩ := c
  cases settle with
  | absent => rfl
  | held => rfl
  | ends x =>
    unfold Channel.endSettle
    dsimp only
    by_cases ended : lead x n < 0
    · rw [if_neg (by rw [notAfter_iff]; omega), if_pos ended]
    · rw [if_pos (by rw [notAfter_iff]; omega), if_neg ended]

theorem mapAdvance_eq (n : FrameNo) (m : FeedMap) :
    m.advance n = match m.pending with
      | some p => if 0 ≤ lead n p.start then { inForce := p.map, pending := none } else m
      | none => m := by
  unfold FeedMap.advance
  cases m.pending with
  | none => rfl
  | some p => exact if_congr (due_iff _ _) rfl rfl

theorem lawAdvance_eq (n : FrameNo) (t : Tgu) :
    t.advance n = match t.pending with
      | some p => if 0 ≤ lead n p.start then { t with glt := p.table, pending := none } else t
      | none => t := by
  unfold Tgu.advance
  cases t.pending with
  | none => rfl
  | some p => exact if_congr (due_iff _ _) rfl rfl

/-- Settles O21: each command takes the one value it names, when it is due. -/
theorem dueValuesTakeOver : Obligations.DueValuesTakeOver := by
  refine ⟨fun s i => ?_, fun s f => ?_, fun s => ?_⟩
  · show Host.Outcome.next (settleEnd i s) = _
    unfold settleEnd Hac.onChannel
    rw [upd_eq_tab]
    refine congrArg (fun c => Host.Outcome.next { s with hac := { s.hac with channels := tab c } }) (funext fun k => ?_)
    split
    · next own => rw [own]; exact endSettle_eq _ _
    · rfl
  · show Host.Outcome.next (mapInForce f s) = _
    unfold mapInForce
    rw [upd_eq_tab]
    refine congrArg (fun m => Host.Outcome.next { s with smu := { maps := tab m } }) (funext fun g => ?_)
    rw [mapAdvance_eq]
    cases s.smu.maps[g].pending with
    | none => exact ite_self _
    | some p =>
      by_cases own : g = f
      · simp [own]
      · simp [own]
  · exact congrArg (fun t => Host.Outcome.next { s with tgu := t }) (lawAdvance_eq s.ftu.frame s.tgu)

end Sys2Proof.Machine
end

section
/-! PROOFS. The effective event (R41, R84, R85): a change of an input's four taps at once, and the notices it brings. -/

namespace Sys2Proof.Machine

/-! ### The four taps of an input -/

/-- The taps after the feeds of a list have changed their taps of input `i`. -/
def tapsOfFeeds (fs : List Feed) (i : Input) (g : Feed → Tap → Tap) (s : State) : Vector (Vector Tap 48) 4 :=
  tab fun f => tab fun k => if f ∈ fs ∧ k = i then g f (s.tap f i) else s.tap f k

/-- The LIMIT notices of those changes (R37). -/
def limitsOfFeeds (fs : List Feed) (i : Input) (g : Feed → Tap → Tap) (s : State) (f : Feed) : List Notice :=
  if f ∈ fs then limitNotices f [i] (fun _ => g f (s.tap f i)) s else []

theorem tapsOfFeeds_nil (i : Input) (g : Feed → Tap → Tap) (s : State) : tapsOfFeeds [] i g s = s.tgu.taps :=
  entries_ext fun f => entries_ext fun k => by simp [tapsOfFeeds, State.tap]

theorem tapsOfFeeds_cons {f : Feed} {fs : List Feed} (fresh : f ∉ fs) (i : Input) (g : Feed → Tap → Tap) (s : State) :
    tapsOfFeeds fs i g { s with tgu := s.tgu.onTap f i fun _ => g f (s.tap f i) } = tapsOfFeeds (f :: fs) i g s := by
  unfold tapsOfFeeds
  refine congrArg tab (funext fun k => congrArg tab (funext fun j => ?_))
  simp only [onTap_tap, List.mem_cons]
  by_cases feed : k = f
  · subst feed
    simp [fresh]
  · simp [feed]

theorem limitsOfFeeds_cons {f : Feed} {fs : List Feed} (fresh : f ∉ fs) (i : Input) (g : Feed → Tap → Tap) (s : State)
    (nts : Feed → List Notice) :
    (fun k => toFeed f (limitNotices f [i] (fun _ => g f (s.tap f i)) s) k ++
      limitsOfFeeds fs i g (told nts { s with tgu := s.tgu.onTap f i fun _ => g f (s.tap f i) }) k) =
      limitsOfFeeds (f :: fs) i g s := by
  funext k
  unfold limitsOfFeeds toFeed
  by_cases feed : k = f
  · subst feed
    simp [fresh]
  · rw [if_neg feed, List.nil_append]
    by_cases listed : k ∈ fs
    · rw [if_pos listed, if_pos (List.mem_cons_of_mem _ listed), told_tap, onTap_tap, if_neg fun e => feed e.1]
      refine limitNotices_congr (fun j at_j => ⟨rfl, ?_⟩) (fun _ => rfl) rfl
      rw [told_tap, onTap_tap, if_neg fun e => feed e.1]
    · rw [if_neg listed, if_neg (by simp [feed, listed])]

/-- The taps of some feeds changed one after another: one change of them, and the LIMIT notices of each (R37). -/
theorem foldl_changeTap_told (i : Input) (g : Feed → Tap → Tap) {fs : List Feed} (distinct : fs.Nodup) (s : State) :
    fs.foldl (fun t f => changeTap f i (g f) t) s =
      told (limitsOfFeeds fs i g s) { s with tgu := { s.tgu with taps := tapsOfFeeds fs i g s } } := by
  induction fs generalizing s with
  | nil =>
    rw [tapsOfFeeds_nil]
    exact (told_nothing s).symm
  | cons f fs ih =>
    obtain ⟨fresh, distinct⟩ := List.nodup_cons.1 distinct
    rw [List.foldl_cons, changeTap_told, ih distinct, told_withTgu, told_told, limitsOfFeeds_cons fresh,
      ← tapsOfFeeds_cons fresh]
    rfl

/-- The taps when every feed has changed its tap of input `i`. -/
def inputTaps (i : Input) (g : Feed → Tap → Tap) (s : State) : Vector (Vector Tap 48) 4 :=
  tab fun f => tab fun k => if k = i then g f (s.tap f i) else s.tap f k

/-- The four taps of an input changed in one event: the new taps, and a LIMIT notice for each flag that changes (R37). -/
theorem changeInput_told (i : Input) (g : Feed → Tap → Tap) (s : State) :
    changeTap 3 i (g 3) (changeTap 2 i (g 2) (changeTap 1 i (g 1) (changeTap 0 i (g 0) s))) =
      told (fun f => limitNotices f [i] (fun _ => g f (s.tap f i)) s)
        { s with tgu := { s.tgu with taps := inputTaps i g s } } := by
  have every (f : Feed) : f ∈ [(0 : Feed), 1, 2, 3] := by revert f; decide
  have folded := foldl_changeTap_told i g (fs := [0, 1, 2, 3]) (by decide) s
  simp only [tapsOfFeeds, every, true_and] at folded
  exact folded

/-! ### The event -/

theorem Tap.jump_eq (d a : Int) (t : Tap) :
    t.jump d a = match t.mode with
      | .follow => t
      | .track n => { t with
        current := clampTrim (t.current - d)
        target := clampTrim (t.offset + n - a)
        limit := decide (clampTrim (t.offset + n - a) ≠ t.offset + n - a) } := by
  obtain ⟨mode, offset, target, current, mute, limit⟩ := t
  cases mode <;> rfl

/-- The LIMIT notice of one tap's change, when its flag changes (R37). -/
theorem limitNotices_one (f : Feed) (i : Input) (new : Tap) (u : State) :
    limitNotices f [i] (fun _ => new) u =
      if new.limit = (u.tap f i).limit then []
      else
        [.limit i new.limit new.target
          (match new.mode with
            | .follow => new.target
            | .track n => new.offset + n - (u.channel i).gain)
          u.ftu.frame] := by
  unfold limitNotices
  by_cases kept : new.limit = (u.tap f i).limit
  · simp [kept]
  · rw [if_neg kept, List.filter_cons_of_pos (by simp [kept])]
    rfl

/-- The LIMIT notice of a tap's jump: in FOLLOW there is none (R37, R41). -/
theorem limitNotices_jump (f : Feed) (i : Input) (d : Int) (u : State) :
    limitNotices f [i] (fun _ => (u.tap f i).jump d (u.channel i).gain) u =
      let t := (u.tap f i).jump d (u.channel i).gain
      if t.limit = (u.tap f i).limit then []
      else match (u.tap f i).mode with
        | .follow => []
        | .track n => [.limit i t.limit t.target ((u.tap f i).offset + n - (u.channel i).gain) u.ftu.frame] := by
  rw [limitNotices_one, Tap.jump_eq]
  cases mode : (u.tap f i).mode with
  | follow => simp
  | track n => simp

/-- Channel `i` with the values `v` live and no write in flight, and its mark of the frame (R79, R84). -/
theorem makeLive_eq (n : FrameNo) (i : Input) {w : InFlight} {h : Hac} (flight : h.channels[i].inFlight = some w) :
    h.makeLive n i w.value = { h with
      channels := tab fun k => if k = i then
          { h.channels[i] with live := w.value, inFlight := none, gain := h.gainOf w.value } else h.channels[k]
      landed := tab fun k => if k = i then h.landed[i] || decide (0 ≤ lead w.effective n) else h.landed[k] } := by
  have blocks : h.channels[i].blocks n = decide (0 ≤ lead w.effective n) := by
    unfold Channel.blocks
    rw [flight]
    rfl
  unfold Hac.makeLive
  rw [blocks, upd_eq_tab, upd_eq_tab]
  have channels : (fun k => if k = i then
      { h.channels[k] with live := w.value, inFlight := none, gain := h.gainOf w.value } else h.channels[k]) =
      fun k => if k = i then
        { h.channels[i] with live := w.value, inFlight := none, gain := h.gainOf w.value } else h.channels[k] := by
    funext k
    split
    · next own => rw [own]
    · rfl
  have landed : (fun k => if k = i then h.landed[k] || decide (0 ≤ lead w.effective n) else h.landed[k]) =
      fun k => if k = i then h.landed[i] || decide (0 ≤ lead w.effective n) else h.landed[k] := by
    funext k
    split
    · next own => rw [own]
    · rfl
  rw [channels, landed]

/-- The event announced: the taps jump, the LIMIT notices come, then the HEADAMP notices (R41, R84, R85). -/
theorem announceLive_told (i : Input) (d : Int) (s : State) :
    announceLive i d s =
      told (fun f => limitNotices f [i] (fun _ => (s.tap f i).jump d (s.channel i).gain) s ++
          toFeeds (s.carries · i) (.headAmp i (s.channel i).live (s.channel i).gain s.ftu.frame) f)
        { s with tgu := { s.tgu with taps := inputTaps i (fun _ => Tap.jump d (s.channel i).gain) s } } := by
  unfold announceLive compensate
  rw [notifyWhere_told]
  dsimp only
  rw [changeInput_told i (fun _ => Tap.jump d (s.channel i).gain) s, told_told]

/-- Settles O19: nothing is due, or the due write is made live and announced. -/
theorem effectiveEventMakesLive : Obligations.EffectiveEventMakesLive := by
  intro s i
  split
  · next flight =>
    show Host.Outcome.next (effective i s) = _
    unfold effective
    rw [flight]
  · next w flight =>
    split
    · next early =>
      show Host.Outcome.next (effective i s) = _
      unfold effective
      rw [flight]
      dsimp only
      rw [if_neg (by rw [due_iff]; omega)]
    · next now =>
      intro a jumped limits
      have due : due w.effective s.ftu.frame = true := (due_iff _ _).2 (by omega)
      show Host.Outcome.next (effective i s) = _
      have jumps : jumped = Tap.jump (a - (s.channel i).gain) a := funext fun t => (Tap.jump_eq _ a t).symm
      rw [effective_due flight due, announceLive_told]
      simp only [limitNotices_jump]
      simp only [makeLive_channel, if_true]
      rw [makeLive_eq s.ftu.frame i flight]
      refine congrArg Host.Outcome.next (congrArg₂ told (funext fun f => congrArg₂ (· ++ ·) ?_ ?_) ?_)
      · show _ = limits f
        unfold limits
        rw [jumps]
        rfl
      · rfl
      · rw [jumps]
        rfl

end Sys2Proof.Machine
end

section
/-! PROOFS. PLAW_APPLY (R43, R88, R89): what the rebase of every input comes to, and the checks of the staged law. -/

namespace Sys2Proof.Machine

/-! ### The rebase of every input at once -/

/-- Tap (`f`, `i`) after the rebase of its input to the gain that the law in effect gives (R43, R89). -/
def regainedTap (s : State) (f : Feed) (i : Input) : Tap :=
  let a := s.hac.gainOf (s.channel i).live
  (s.tap f i).rebase s.ftu.frame f i (a - (s.channel i).gain) a

/-- A state with other channels and taps. -/
def State.withLevels (s : State) (channels : Vector Channel 48) (taps : Vector (Vector Tap 48) 4) : State :=
  { s with hac := { s.hac with channels := channels }, tgu := { s.tgu with taps := taps } }

/-- The inputs of a list with their gains computed again and their taps rebased. -/
def regained (is : List Input) (s : State) : State :=
  s.withLevels
    (tab fun k => if k ∈ is then { s.channel k with gain := s.hac.gainOf (s.channel k).live } else s.channel k)
    (tab fun f => tab fun k => if k ∈ is then regainedTap s f k else s.tap f k)

theorem regained_nil (s : State) : regained [] s = s := by
  have channels : (tab fun k => s.channel k) = s.hac.channels := entries_ext fun k => tab_at _ k
  have taps : (tab fun f => tab fun k => s.tap f k) = s.tgu.taps :=
    entries_ext fun f => entries_ext fun k => by rw [tab_at, tab_at]; rfl
  unfold regained
  simp only [List.not_mem_nil, if_false]
  rw [channels, taps]
  rfl

theorem regained_channel (is : List Input) (s : State) (k : Input) :
    (regained is s).channel k =
      if k ∈ is then { s.channel k with gain := s.hac.gainOf (s.channel k).live } else s.channel k :=
  tab_at _ k

theorem regained_tap (is : List Input) (s : State) (f : Feed) (k : Input) :
    (regained is s).tap f k = if k ∈ is then regainedTap s f k else s.tap f k :=
  (congrArg (·[k]) (tab_at _ f)).trans (tab_at _ k)

/-- The rebase of an input that a rebase of others left alone. -/
theorem regainedTap_regained {is : List Input} {k : Input} (other : k ∉ is) (s : State) (f : Feed) :
    regainedTap (regained is s) f k = regainedTap s f k := by
  unfold regainedTap
  rw [regained_channel, regained_tap, if_neg other, if_neg other]
  rfl

/-- One input after the others: the gains and taps of all of them. -/
theorem regained_cons {i : Input} {is : List Input} (fresh : i ∉ is) (s : State) :
    regained is (regained [i] s) = regained (i :: is) s := by
  have channels (k : Input) : (regained is (regained [i] s)).channel k = (regained (i :: is) s).channel k := by
    rw [regained_channel, regained_channel, regained_channel]
    by_cases own : k = i
    · subst own
      simp [fresh]
    · simp only [List.mem_cons, List.not_mem_nil, own, false_or, if_false]
      rfl
  have taps (f : Feed) (k : Input) : (regained is (regained [i] s)).tap f k = (regained (i :: is) s).tap f k := by
    rw [regained_tap, regained_tap, regained_tap]
    by_cases own : k = i
    · subst own
      simp [fresh]
    · rw [regainedTap_regained (by simpa using own)]
      simp [own]
  have hac : (regained is (regained [i] s)).hac.channels = (regained (i :: is) s).hac.channels :=
    entries_ext channels
  have tgu : (regained is (regained [i] s)).tgu.taps = (regained (i :: is) s).tgu.taps :=
    entries_ext fun f => entries_ext (taps f)
  exact congrArg₂ s.withLevels hac tgu

/-- Input `i` with its gain computed again, its taps not yet rebased (R89). -/
def State.withGain (i : Input) (s : State) : State :=
  { s with hac := s.hac.onChannel i fun c => { c with gain := s.hac.gainOf (s.channel i).live } }

theorem withGain_gain (i : Input) (s : State) : ((s.withGain i).channel i).gain = s.hac.gainOf (s.channel i).live := by
  unfold State.withGain
  rw [onChannel_channel, if_pos rfl]

/-- The LIMIT notices of the rebase of one input. -/
def regainNotices (i : Input) (s : State) (f : Feed) : List Notice :=
  limitNotices f [i] (fun _ => regainedTap s f i) (s.withGain i)

/-- A rebase event: the four taps rebased, and a LIMIT notice for each flag that changes (R37, R43). -/
theorem rebase_told (i : Input) (d : Int) (s : State) :
    rebase i d s =
      told (fun f => limitNotices f [i] (fun _ => (s.tap f i).rebase s.ftu.frame f i d (s.channel i).gain) s)
        { s with tgu := { s.tgu with
            taps := inputTaps i (fun f => Tap.rebase s.ftu.frame f i d (s.channel i).gain) s } } :=
  changeInput_told i (fun f => Tap.rebase s.ftu.frame f i d (s.channel i).gain) s

theorem withGain_levels (i : Input) (s : State) :
    ({ s.withGain i with tgu := { s.tgu with taps := inputTaps i (fun f _ => regainedTap s f i) s } } : State) =
      regained [i] s := by
  have channels : (s.withGain i).hac.channels = (regained [i] s).hac.channels := by
    refine entries_ext fun k => ?_
    show (s.withGain i).channel k = (regained [i] s).channel k
    rw [regained_channel]
    unfold State.withGain
    rw [onChannel_channel]
    by_cases own : k = i
    · subst own
      simp
    · simp [own]
  have taps : inputTaps i (fun f _ => regainedTap s f i) s = (regained [i] s).tgu.taps := by
    refine entries_ext fun f => entries_ext fun k => ?_
    show _ = (regained [i] s).tap f k
    rw [regained_tap]
    unfold inputTaps
    rw [tab_at, tab_at]
    by_cases own : k = i
    · subst own
      simp
    · simp [own]
  exact congrArg₂ s.withLevels channels taps

/-- Step 2 of R89 for one input: its gain, its taps, and a LIMIT notice for each flag that changes. -/
theorem regain_told (i : Input) (s : State) : regain i s = told (regainNotices i s) (regained [i] s) := by
  rw [← withGain_levels]
  show rebase i _ (s.withGain i) = _
  rw [rebase_told, withGain_gain]
  rfl

theorem regainNotices_nil {i : Input} {s : State} (kept : ∀ f, (regainedTap s f i).limit = (s.tap f i).limit) :
    regainNotices i s = fun _ => [] := by
  funext f
  exact (limitNotices_one f i _ _).trans (if_pos (kept f))

/-- Notices before the gains and the taps are notices after them. -/
theorem regained_of_told (is : List Input) (nts : Feed → List Notice) (s : State) :
    regained is (told nts s) = told nts (regained is s) := rfl

/-- Step 2 of R89 for the inputs of a list, and its LIMIT notices: none when no flag changes. -/
theorem foldl_regain_told {is : List Input} (distinct : is.Nodup) (s : State) :
    ∃ nts, is.foldl (fun s i => regain i s) s = told nts (regained is s) ∧
      ((∀ i ∈ is, ∀ f, (regainedTap s f i).limit = (s.tap f i).limit) → nts = fun _ => []) := by
  induction is generalizing s with
  | nil => exact ⟨fun _ => [], by rw [regained_nil, told_nothing]; rfl, fun _ => rfl⟩
  | cons i is ih =>
    obtain ⟨fresh, distinct⟩ := List.nodup_cons.1 distinct
    obtain ⟨nts, folded, none⟩ := ih distinct (regain i s)
    refine ⟨fun f => regainNotices i s f ++ nts f, ?_, fun kept => ?_⟩
    · rw [List.foldl_cons, folded, regain_told, regained_of_told, told_told, regained_cons fresh]
    · rw [regainNotices_nil (kept i List.mem_cons_self), none]
      · rfl
      · intro k listed f
        have other : k ∉ [i] := by
          rintro (_ | ⟨_, ⟨⟩⟩)
          exact fresh listed
        rw [regain_told]
        show (regainedTap (regained [i] s) f k).limit = ((regained [i] s).tap f k).limit
        rw [regainedTap_regained other, regained_tap, if_neg other]
        exact kept k (List.mem_cons_of_mem _ listed) f

/-! ### The law taken -/

/-- The gain of input `i` under the staged law (R89). -/
def State.stagedGain (s : State) (i : Input) : Int := gainOf s.hac.staging s.hac.padValue (s.channel i).live

/-- Tap (`f`, `i`) rebased to the gain under the staged law (R43, R89). -/
def State.stagedTap (s : State) (f : Feed) (i : Input) : Tap :=
  (s.tap f i).rebase s.ftu.frame f i (s.stagedGain i - (s.channel i).gain) (s.stagedGain i)

/-- The staged law in effect: every gain computed again and every tap rebased (R89). -/
def State.withStagedLaw (s : State) : State :=
  { s with
    hac := { s.hac with
      plt := s.hac.staging, marks := tab fun _ => false
      channels := tab fun i => { s.channel i with gain := s.stagedGain i } }
    tgu := { s.tgu with taps := tab fun f => tab fun i => s.stagedTap f i } }

theorem withStagedLaw_hac (s : State) :
    s.withStagedLaw.hac = { s.hac with
      plt := s.hac.staging, marks := tab fun _ => false
      channels := tab fun i => { s.channel i with gain := s.stagedGain i } } := rfl

theorem withStagedLaw_tap (s : State) (f : Feed) (i : Input) : s.withStagedLaw.tap f i = s.stagedTap f i :=
  (congrArg (·[i]) (tab_at _ f)).trans (tab_at _ i)

/-- The acceptance of the staged law: the law taken, and its notices, of which none is a LIMIT notice when no flag changes
(R37, R89). -/
theorem applyPlaw_told (s : State) :
    ∃ nts, applyPlaw s = told (toFeeds (fun _ => true) (.law .plt s.ftu.frame)) (told nts s.withStagedLaw) ∧
      ((∀ f i, (s.stagedTap f i).limit = (s.tap f i).limit) → nts = fun _ => []) := by
  obtain ⟨nts, folded, none⟩ := foldl_regain_told (List.nodup_finRange 48)
    { s with hac := { s.hac with plt := s.hac.staging, marks := noMarks } }
  refine ⟨nts, ?_, fun kept => none fun i _ f => kept f i⟩
  have every (i : Input) : i ∈ List.finRange 48 := List.mem_finRange i
  unfold applyPlaw inputs
  dsimp only
  rw [folded, notifyWhere_told]
  unfold regained
  simp only [every, if_true]
  rfl

/-- A rebase leaves everything of a tap but its anchor, its target and its flag (R43). -/
theorem Tap.rebase_keeps (frame : FrameNo) (f : Feed) (i : Input) (d a : Int) (t : Tap) :
    let r := t.rebase frame f i d a
    r.offset = t.offset ∧ r.current = t.current ∧ r.mute = t.mute ∧ r.tracks = t.tracks := by
  obtain ⟨mode, offset, target, current, mute, limit⟩ := t
  cases mode <;> exact ⟨rfl, rfl, rfl, rfl⟩

/-! ### Anchors -/

/-- An anchor can be held: it lies in the signed 32-bit range (R35). -/
def anchorFits (x : Int) : Prop := -2147483648 ≤ x ∧ x ≤ 2147483647

theorem moveAnchor_of_fits (frame : FrameNo) (f : Feed) (i : Input) {n d : Int} (fits : anchorFits (n + d)) (o a : Int) :
    moveAnchor frame f i n d o a = n + d := if_pos fits

/-- The tap with its anchor moved by `d` and nothing else changed. -/
def Tap.moved (frame : FrameNo) (f : Feed) (i : Input) (d a : Int) (t : Tap) : Tap :=
  { t with mode := match t.mode with
    | .follow => .follow
    | .track n => .track (moveAnchor frame f i n d t.offset a) }

/-- A rebase by an anchor that fits leaves the unclamped target, so the target and the flag, where they were (R43). -/
theorem Tap.rebase_of_fits (frame : FrameNo) (f : Feed) (i : Input) {d a : Int} {t : Tap} (sound : t.sound (a - d))
    (fits : ∀ n, t.mode = .track n → anchorFits (n + d)) : t.rebase frame f i d a = t.moved frame f i d a := by
  obtain ⟨mode, offset, target, current, mute, limit⟩ := t
  cases mode with
  | follow => rfl
  | track n =>
    obtain ⟨-, -, -, -, -, isTarget, isLimit⟩ := sound
    have unclamped : offset + (n + d) - a = offset + n - (a - d) := by omega
    have flag : decide (clampTrim (offset + n - (a - d)) ≠ offset + n - (a - d)) = limit :=
      Bool.eq_iff_iff.2 (decide_eq_true_iff.trans ((clampTrim_ne_iff _).trans isLimit.symm))
    simp only [Tap.rebase, Tap.moved, Tap.retarget, moveAnchor_of_fits frame f i (fits n rfl), unclamped, flag]
    exact congrArg (fun x => ({ mode := .track (n + d), offset, target := x, current, mute, limit } : Tap)) isTarget.symm

/-! ### PLAW_APPLY -/

section
variable {f : Feed} {u : State} (ready : u.sil.load = .ready) (supervises : f = u.cle.supervisor)
include ready supervises

theorem plawApply_executes : executeKind f [] .plawApply u =
    if !allMarked u.hac.marks then (u, [8])
    else
      match pltFault u.hac.staging with
      | some (check, entry) => (u, [7, byte check, byte entry])
      | none => (applyPlaw u, [0]) := by
  show reqPlawApply f [] u = _
  rw [reqPlawApply, runRequest_supervisor ready supervises parseNone_nil]
  rfl

/-- Without all four marks the request is refused STATE (R88). -/
theorem plawApply_unmarked (h : ¬ allMarked u.hac.marks = true) : executeKind f [] .plawApply u = (u, [8]) := by
  rw [plawApply_executes ready supervises, if_pos (by simpa using h)]

/-- A staging copy that fails a check is refused with the check and the entry (R88). -/
theorem plawApply_faulty (marked : allMarked u.hac.marks = true) {check entry : Nat}
    (fault : pltFault u.hac.staging = some (check, entry)) :
    executeKind f [] .plawApply u = (u, [7, byte check, byte entry]) := by
  rw [plawApply_executes ready supervises, marked, fault]
  rfl

/-- A staging copy that passes is in effect at once (R89). -/
theorem plawApply_accepted (marked : allMarked u.hac.marks = true) (sound : plawSound u.hac.staging) :
    executeKind f [] .plawApply u = (applyPlaw u, [0]) := by
  rw [plawApply_executes ready supervises, marked, Option.isNone_iff_eq_none.1 ((pltFault_none _).2 sound)]
  rfl

end

theorem pltFine_iff (p : Vector LawEntry 64) (k : Fin 64) :
    tableFine p 0 511 k ↔ ¬ 511 < p[k].toNat ∧ ¬ ∃ j : Fin 64, j.val + 1 = k.val ∧ p[k].toNat < p[j].toNat := by
  refine and_congr_left fun _ => ?_
  omega

/-- A preamp law with a failing entry fails by the first one (R88). -/
theorem pltFault_first (p : Vector LawEntry 64) (k : Fin 64) (earlier : ∀ j, j < k → tableFine p 0 511 j)
    (fault : ¬ tableFine p 0 511 k) : pltFault p = some (if 511 < p[k].toNat then 0 else 1, k.val) := by
  rw [pltFault, firstFault_table p _ _ k earlier fault]
  simp only [Nat.not_lt_zero, false_or]

/-- The anchor that the staged law gives tap (`f`, `i`), in TRACK (R43, R89). -/
def State.stagedAnchor (u : State) (f : Feed) (i : Input) : Int :=
  match (u.tap f i).mode with
  | .follow => 0
  | .track n =>
    moveAnchor u.ftu.frame f i n (u.stagedGain i - (u.channel i).gain) (u.tap f i).offset (u.stagedGain i)

section
variable {u : State} (law : plawSound u.hac.staging) (taps : u.tapsSound) (g : Feed) (i : Input)
include law taps

/-- The rebase to the gain under a sound law keeps a tap of a sound state sound, and moves its anchor alone (R43, R89). -/
theorem stagedTap_of_gainsSound (gains : u.gainsSound) :
    u.stagedTap g i = (u.tap g i).moved u.ftu.frame g i (u.stagedGain i - (u.channel i).gain) (u.stagedGain i) ∧
      (u.stagedTap g i).sound (u.stagedGain i) := by
  obtain ⟨-, low, high, -⟩ := gains
  have range := gainOf_range (h := { u.hac with plt := u.hac.staging }) ⟨law, low, high⟩ (u.channel i).live
  refine Tap.rebase_of_sound _ g i _ _ _ ?_ range.1 range.2
  rw [sub_sub_cancel]
  exact taps g i

theorem stagedTap_moved
    (safe : u.gainsSound ∨ ∀ (g : Feed) (i : Input) (n : Int), (u.tap g i).mode = .track n →
      anchorFits (n + (u.stagedGain i - (u.channel i).gain))) :
    u.stagedTap g i = (u.tap g i).moved u.ftu.frame g i (u.stagedGain i - (u.channel i).gain) (u.stagedGain i) := by
  rcases safe with gains | fits
  · exact (stagedTap_of_gainsSound law taps g i gains).1
  · refine Tap.rebase_of_fits _ g i ?_ (fits g i)
    rw [sub_sub_cancel]
    exact taps g i

end

/-- An anchor that leaves its 32 bits becomes one that fits and at which target and flag are those of R36 (R43, R89). -/
theorem stagedAnchor_sound {u : State} (law : plawSound u.hac.staging) (taps : u.tapsSound)
    (safe : u.gainsSound ∨ ∀ (g : Feed) (i : Input) (n : Int), (u.tap g i).mode = .track n →
      anchorFits (n + (u.stagedGain i - (u.channel i).gain))) {g : Feed} {i : Input} {n : Int}
    (track : (u.tap g i).mode = .track n) (leaves : ¬ anchorFits (n + (u.stagedGain i - (u.channel i).gain))) :
    anchorFits (u.stagedAnchor g i) ∧
      ({ u.tap g i with mode := .track (u.stagedAnchor g i) } : Tap).sound (u.stagedGain i) := by
  have gains := safe.resolve_right fun fits => leaves (fits g i n track)
  obtain ⟨rebased, sound⟩ := stagedTap_of_gainsSound law taps g i gains
  rw [rebased] at sound
  have moved : (u.tap g i).moved u.ftu.frame g i (u.stagedGain i - (u.channel i).gain) (u.stagedGain i) =
      { u.tap g i with mode := .track (u.stagedAnchor g i) } := by
    simp only [Tap.moved, State.stagedAnchor, track]
  rw [moved] at sound
  exact ⟨Tap.anchored_of_sound sound, sound⟩

/-- A moved tap in the terms of R43: the anchor moved by ΔA where that fits. -/
theorem moved_eq (u : State) (g : Feed) (i : Input) :
    (u.tap g i).moved u.ftu.frame g i (u.stagedGain i - (u.channel i).gain) (u.stagedGain i) =
      { u.tap g i with mode := match (u.tap g i).mode with
        | .follow => .follow
        | .track n => .track
          (if -2147483648 ≤ n + (u.stagedGain i - (u.channel i).gain) ∧
              n + (u.stagedGain i - (u.channel i).gain) ≤ 2147483647
            then n + (u.stagedGain i - (u.channel i).gain) else u.stagedAnchor g i) } := by
  unfold Tap.moved State.stagedAnchor
  cases (u.tap g i).mode with
  | follow => rfl
  | track n =>
    dsimp only
    split
    · next fits => rw [moveAnchor_of_fits u.ftu.frame g i fits]
    · rfl

/-- What an answered acceptance makes of the gains, of the rest of the taps and of the other blocks (R89). -/
theorem answered_applyPlaw (f : Feed) (tag kind : Byte) (bytes : List Byte) (u : State) :
    let t := answered f tag kind bytes (applyPlaw u)
    t.hac = u.withStagedLaw.hac ∧
    (∀ (g : Feed) (i : Input), (t.tap g i).offset = (u.tap g i).offset ∧ (t.tap g i).current = (u.tap g i).current ∧
      (t.tap g i).mute = (u.tap g i).mute ∧ (t.tap g i).tracks = (u.tap g i).tracks) ∧
    onlyBlocks [.tgu, .hac, .cle, .lnk] u t := by
  obtain ⟨nts, applied, -⟩ := applyPlaw_told u
  rw [applied]
  refine ⟨rfl, fun g i => ?_, fun b other => ?_, rfl, rfl⟩
  · show (u.withStagedLaw.tap g i).offset = _ ∧ (u.withStagedLaw.tap g i).current = _ ∧
      (u.withStagedLaw.tap g i).mute = _ ∧ (u.withStagedLaw.tap g i).tracks = _
    rw [withStagedLaw_tap]
    exact Tap.rebase_keeps _ g i _ _ _
  · cases b with
    | tgu | hac | cle | lnk => exact absurd (by decide) other
    | ftu | cvp | smu | scu | lmu | sil => rfl

/-- In a sound state the acceptance moves the anchors alone, and the LAW notice is the only one (R43, R89). -/
theorem applyPlaw_moved {u : State} (sound : plawSound u.hac.staging) (taps : u.tapsSound)
    (safe : u.gainsSound ∨ ∀ (g : Feed) (i : Input) (n : Int), (u.tap g i).mode = .track n →
      anchorFits (n + (u.stagedGain i - (u.channel i).gain))) :
    applyPlaw u = told (toFeeds (fun _ => true) (.law .plt u.ftu.frame))
      { u with
        hac := { u.hac with
          plt := u.hac.staging, marks := tab fun _ => false
          channels := tab fun i => { u.channel i with gain := u.stagedGain i } }
        tgu := { u.tgu with
          taps := tab fun g => tab fun i =>
            { u.tap g i with mode := match (u.tap g i).mode with
              | .follow => .follow
              | .track n => .track
                (if -2147483648 ≤ n + (u.stagedGain i - (u.channel i).gain) ∧
                    n + (u.stagedGain i - (u.channel i).gain) ≤ 2147483647
                  then n + (u.stagedGain i - (u.channel i).gain) else u.stagedAnchor g i) } } } := by
  obtain ⟨nts, applied, quiet⟩ := applyPlaw_told u
  have moved (g : Feed) (i : Input) := stagedTap_moved sound taps g i safe
  rw [applied, quiet fun g i => by rw [moved]; rfl, told_nothing]
  unfold State.withStagedLaw
  simp only [moved, moved_eq]

/-- Settles O44: the rebase of the 48 inputs is one change of the gains and taps, which leaves every target and flag of a
sound state. -/
theorem plawApplyKeepsLevels : Obligations.PlawApplyKeepsLevels := by
  intro s f tag serves u ready supervises p marked high falls gain hac
  have answers {v : State} {bytes : List Byte} (h : executeKind f [] .plawApply u = (v, bytes)) :
      exec (.plawApply f tag []) s = .next (answered f tag 0x1B bytes v) := exec_answers (k := .plawApply) rfl serves h
  have allMarks := allMarked_iff u.hac.marks
  refine ⟨fun unmarked => ?_, fun marks k fault earlier => ?_, fun marks sound => ?_, ?_⟩
  · exact answers (plawApply_unmarked ready supervises (mt allMarks.1 unmarked))
  · have first := pltFault_first p k (fun j less => (pltFine_iff p j).2 (earlier j less))
      (mt (pltFine_iff p k).1 fun ⟨inRange, inOrder⟩ => fault.elim inRange inOrder)
    refine ⟨fun above => ?_, fun inRange => ?_⟩
    · rw [if_pos above] at first
      exact answers (plawApply_faulty ready supervises (allMarks.2 marks) first)
    · rw [if_neg inRange] at first
      exact answers (plawApply_faulty ready supervises (allMarks.2 marks) first)
  · have run := answers (plawApply_accepted ready supervises (allMarks.2 marks) sound)
    have read := answered_applyPlaw f tag 0x1B [0] u
    generalize answered f tag 0x1B [0] (applyPlaw u) = t at run read
    obtain ⟨blocks, taps, others⟩ := read
    exact ⟨t, run, blocks.trans (withStagedLaw_hac u), taps, others⟩
  · intro fits moved marks sound taps safe
    have run := answers (plawApply_accepted ready supervises (allMarks.2 marks) sound)
    rw [applyPlaw_moved sound taps safe] at run
    refine ⟨u.stagedAnchor, fun g i n => stagedAnchor_sound sound taps safe, run.trans ?_⟩
    refine congrArg (fun x => Host.Outcome.next (answered f tag 0x1B [0] (told
      (toFeeds (fun _ => true) (.law .plt u.ftu.frame)) { u with hac := hac, tgu := { u.tgu with taps := x } }))) ?_
    refine congrArg tab (funext fun g => congrArg tab (funext fun i => ?_))
    -- With the mode named, comparing the two matches does not evaluate the frame step that `u` stands for.
    generalize (u.tap g i).mode = mode
    rfl

end Sys2Proof.Machine
end

section
/-! PROOFS. HA_SET and HA_NUDGE (R75, R76): their parameters, and the changes of a set's channels one after another. -/

namespace Sys2Proof.Machine

/-! ### Parameters -/

/-- A field that is present only when asked for is found behind the fields before it. -/
theorem readOptional {α : Type} (before : List α) (field : Option α) (after : List α) :
    (if field.isSome then (before ++ (field.toList ++ after))[before.length]? else none) = field := by
  cases field <;> simp

/-- The presence byte shows which fields are present (R75). -/
theorem presence_bits (code pad phantom : Bool) :
    let presence := BitVec.ofNat 8 (code.toNat + 2 * pad.toNat + 4 * phantom.toNat)
    presence.getLsbD 0 = code ∧ presence.getLsbD 1 = pad ∧ presence.getLsbD 2 = phantom ∧
      ((presence = 0 ∨ 7 < presence.toNat) ↔ (code = false ∧ pad = false ∧ phantom = false)) := by
  revert code pad phantom
  decide

/-- The byte of a bit. -/
def bitByte (b : Bool) : Byte := if b then 1 else 0

/-- An optional bit sent as a byte is that bit again. -/
theorem parseBit_optional (o : Option Bool) :
    (o.map bitByte).any (fun b => (parseBit b).isNone) = false ∧ (o.map bitByte).bind parseBit = o := by
  rcases o with _ | b
  · exact ⟨rfl, rfl⟩
  · have bit : parseBit (bitByte b) = some b := parseBit_bit b
    simp [bit]

/-- The presence byte and the present fields in order give those fields (R75). -/
theorem parseHeadAmp_of_fields (code : Option Byte) (pad phantom : Option Bool)
    (present : ¬ (code = none ∧ pad = none ∧ phantom = none)) :
    parseHeadAmp (BitVec.ofNat 8 (code.isSome.toNat + 2 * pad.isSome.toNat + 4 * phantom.isSome.toNat) ::
      (code.toList ++ (pad.toList ++ phantom.toList).map bitByte)) = some (code.map (·.toNat), pad, phantom) := by
  obtain ⟨codeBit, padBit, phantomBit, empty⟩ := presence_bits code.isSome pad.isSome phantom.isSome
  have size {α : Type} (o : Option α) : o.toList.length = o.isSome.toNat := by cases o <;> rfl
  have bytes (o : Option Bool) : o.toList.map bitByte = (o.map bitByte).toList := by cases o <;> rfl
  have fields : code.toList ++ (pad.toList ++ phantom.toList).map bitByte =
      code.toList ++ ((pad.map bitByte).toList ++ (phantom.map bitByte).toList) := by
    rw [List.map_append, bytes, bytes]
  have readCode : (if code.isSome then (code.toList ++ ((pad.map bitByte).toList ++ (phantom.map bitByte).toList))[0]?
      else none) = code := readOptional [] code _
  have readPad := readOptional code.toList (pad.map bitByte) (phantom.map bitByte).toList
  have readPhantom := readOptional (code.toList ++ (pad.map bitByte).toList) (phantom.map bitByte) []
  rw [size, Option.isSome_map] at readPad
  rw [List.append_nil, List.append_assoc, List.length_append, size, size, Option.isSome_map, Option.isSome_map] at readPhantom
  have absent : ¬ (code.isSome = false ∧ pad.isSome = false ∧ phantom.isSome = false) := by
    simpa only [Option.isSome_eq_false_iff, Option.isNone_iff_eq_none] using present
  unfold parseHeadAmp
  dsimp only
  rw [codeBit, padBit, phantomBit, if_neg (mt empty.1 absent), if_neg (by simp [size]; omega), fields, readCode,
    readPad, readPhantom, (parseBit_optional pad).1, (parseBit_optional phantom).1, (parseBit_optional pad).2,
    (parseBit_optional phantom).2]
  rfl

theorem parseHaSet_of_set {ps : List Byte} {set : ChannelSet} {code : Option Byte} {pad phantom : Option Bool}
    (present : ¬ (code = none ∧ pad = none ∧ phantom = none))
    (parses : parseSet ps = some (set,
      BitVec.ofNat 8 (code.isSome.toNat + 2 * pad.isSome.toNat + 4 * phantom.isSome.toNat) ::
        (code.toList ++ (pad.toList ++ phantom.toList).map bitByte))) :
    parseHaSet ps = some { set := set, code := code.map (·.toNat), pad := pad, phantom := phantom } := by
  unfold parseHaSet
  rw [parses]
  exact congrArg (Option.map _) (parseHeadAmp_of_fields code pad phantom present)

theorem parseNudge_of_set {ps : List Byte} {set : ChannelSet} {d : Byte} (low : -63 ≤ d.toInt) (high : d.toInt ≤ 63)
    (parses : parseSet ps = some (set, [d])) : parseNudge ps = some (set, d.toInt) := by
  unfold parseNudge
  rw [parses]
  exact if_pos ⟨low, high⟩

/-! ### Codes -/

theorem codeOf_eq (n : Nat) : codeOf n = Fin.ofNat 64 (min n 63) := by
  refine Fin.ext ((codeOf_val n).trans ?_)
  exact (Nat.mod_eq_of_lt (by omega)).symm

theorem clampCode_eq (x : Int) :
    clampCode x = if x < 0 then 0 else if 63 < x then 63 else Fin.ofNat 64 x.toNat := by
  unfold clampCode clampTo
  split
  · rfl
  · split <;> rfl

/-- The values of HA_SET: the present fields replaced, a code above 63 taken as 63 (R75). -/
def HeadAmp.withFields (code : Option Byte) (pad phantom : Option Bool) (v : HeadAmp) : HeadAmp :=
  { code := match code with
      | some n => Fin.ofNat 64 (min n.toNat 63)
      | none => v.code
    pad := pad.getD v.pad
    phantom := phantom.getD v.phantom }

theorem withFields_eq (code : Option Byte) (pad phantom : Option Bool) (v : HeadAmp) :
    v.override ((code.map (·.toNat)).map codeOf) pad phantom = v.withFields code pad phantom := by
  cases code with
  | none => rfl
  | some n => exact congrArg (HeadAmp.mk · _ _) (codeOf_eq n.toNat)

/-- The code of HA_NUDGE before it is limited (R76). -/
def HeadAmp.wanted (d : Int) (v : HeadAmp) : Int := (v.code.val : Int) + d

/-- The values of HA_NUDGE: the code moved and limited to 0 to 63 (R76). -/
def HeadAmp.nudged (d : Int) (v : HeadAmp) : HeadAmp :=
  { v with code :=
      if v.wanted d < 0 then 0 else if 63 < v.wanted d then 63 else Fin.ofNat 64 (v.wanted d).toNat }

theorem nudged_eq (d : Int) (v : HeadAmp) : { v with code := clampCode (v.code.val + d) } = v.nudged d :=
  congrArg (HeadAmp.mk · _ _) (clampCode_eq _)

/-! ### Changes one after another -/

/-- The change of a channel to what `g` makes of its desired values (R73). -/
def changeBy (g : HeadAmp → HeadAmp) (i : Input) (s : State) : State :=
  { s with hac := s.hac.change i (g (s.channel i).desired) }

/-- The changes of a list's channels, each from the desired values in `s` (R73). -/
def changesFrom (g : HeadAmp → HeadAmp) (is : List Input) (s : State) : State :=
  { s with hac := is.foldl (fun h i => h.change i (g (s.channel i).desired)) s.hac }

/-- Changes of different channels one after another: each starts from the values before the first. -/
theorem foldl_changeBy (g : HeadAmp → HeadAmp) {is : List Input} (distinct : is.Nodup) (s : State) :
    is.foldl (fun s i => changeBy g i s) s = changesFrom g is s := by
  induction is generalizing s with
  | nil => rfl
  | cons i is ih =>
    obtain ⟨fresh, distinct⟩ := List.nodup_cons.1 distinct
    have others (h : Hac) : is.foldl (fun h k => h.change k (g ((changeBy g i s).channel k).desired)) h =
        is.foldl (fun h k => h.change k (g (s.channel k).desired)) h := by
      refine List.foldl_ext _ _ _ fun h k listed => ?_
      have other : k ≠ i := fun e => fresh (e ▸ listed)
      have kept : (changeBy g i s).channel k = s.channel k := change_channel_other s.hac i _ k other
      rw [kept]
    rw [List.foldl_cons, ih distinct]
    exact congrArg (fun h => ({ s with hac := h } : State)) (others _)

/-! ### The requests -/

section
variable {f : Feed} {u : State} {ps : List Byte} {set : ChannelSet} {is : List Input} (ready : u.sil.load = .ready)
  (supervises : set.inputForm = true → f = u.cle.supervisor) (resolves : u.resolve f set (ownerCheck f u) = .ok is)
include ready supervises resolves

theorem haSet_executes {code : Option Byte} {pad phantom : Option Bool}
    (parses : parseHaSet ps = some { set := set, code := code.map (·.toNat), pad := pad, phantom := phantom }) :
    executeKind f ps .haSet u = (changesFrom (HeadAmp.withFields code pad phantom) is u,
      [if (code.any fun n => decide (63 < n.toNat)) = true then 1 else 0]) := by
  have distinct := (resolve_sound _ _ _ _ _ resolves).1
  have change : setHeadAmp ((code.map (·.toNat)).map codeOf) pad phantom = changeBy (HeadAmp.withFields code pad phantom) := by
    funext i s
    exact congrArg (fun v => ({ s with hac := s.hac.change i v } : State)) (withFields_eq code pad phantom _)
  have clamped : codeClamped (code.map (·.toNat)) = code.any fun n => decide (63 < n.toNat) := by cases code <;> rfl
  have runs := runRequest_onInputs (k := .haSet) (setOf := HaSetParams.set) (check := ownerCheck f)
    (body := fun p is s => accept (okOrClamped (codeClamped p.code)) []
      (is.foldl (fun s i => setHeadAmp (p.code.map codeOf) p.pad p.phantom i s) s)) ready rfl parses supervises resolves
  refine runs.trans ?_
  dsimp only
  rw [change, foldl_changeBy _ distinct, clamped, accept, okOrClamped_byte]

theorem haNudge_executes {d : Int} (parses : parseNudge ps = some (set, d)) :
    executeKind f ps .haNudge u = (changesFrom (HeadAmp.nudged d) is u,
      [if ∃ i ∈ is, (u.channel i).desired.wanted d < 0 ∨ 63 < (u.channel i).desired.wanted d then 1 else 0]) := by
  have distinct := (resolve_sound _ _ _ _ _ resolves).1
  have change : nudgeHeadAmp d = changeBy (HeadAmp.nudged d) := by
    funext i s
    exact congrArg (fun v => ({ s with hac := s.hac.change i v } : State)) (nudged_eq d _)
  have runs := runRequest_onInputs (k := .haNudge) (setOf := fun p : ChannelSet × Int => p.1) (check := ownerCheck f)
    (body := fun p is s => accept (okOrClamped (nudgeClamps p.2 is s)) []
      (is.foldl (fun s i => nudgeHeadAmp p.2 i s) s)) ready rfl parses supervises resolves
  refine runs.trans ?_
  dsimp only
  rw [change, foldl_changeBy _ distinct, accept, okOrClamped_byte, nudgeClamps]
  simp only [List.any_eq_true, decide_eq_true_iff]
  rfl

end

/-- Settles O45: the channels of a set are different, so each change starts from the values before the request. -/
theorem headAmpRequestsChangeChannels : Obligations.HeadAmpRequestsChangeChannels := by
  intro s f tag ps set is serves u ready supervises resolves changed
  have owned : (fun i => if (u.channel i).owner = some f then none else some .notOwner) = ownerCheck f u := by
    funext i
    simp [ownerCheck, mustHold, State.owns]
  rw [owned] at resolves
  refine ⟨fun code pad phantom present parses => ?_, fun d low high parses => ?_⟩
  · exact exec_answers (k := .haSet) rfl serves
      (haSet_executes ready supervises resolves (parseHaSet_of_set present parses))
  · exact exec_answers (k := .haNudge) rfl serves
      (haNudge_executes ready supervises resolves (parseNudge_of_set low high parses))

end Sys2Proof.Machine
end

section
/-! PROOFS. OWN_CLAIM, OWN_RELEASE, OWN_ASSIGN and SUPERVISOR_SET (R97 to R99, R101 to R104): the owners of a
set changed one after another, with their OWNER notices in order. -/

namespace Sys2Proof.Machine

/-! ### Owners replaced -/

/-- A state in which the channels of a list have the owner `new`. -/
def withOwners (new : Option Feed) (is : List Input) (u : State) : State :=
  { u with hac := { u.hac with channels := tab fun i =>
      if i ∈ is then { u.channel i with owner := new } else u.channel i } }

/-- The OWNER notices of a change of owners: for feed `g` one for each input whose owner changes and that it carries or
owned before, in list order (R104). -/
def ownerNotices (new : Option Feed) (cause : Input → OwnerCause) (is : List Input) (u : State) (g : Feed) : List Notice :=
  (is.filter fun i => decide ((u.channel i).owner ≠ new ∧
      (u.carries g i = true ∨ (u.channel i).owner = some g))).map fun i =>
    .owner i new (u.channel i).owner (cause i) u.ftu.frame

theorem withOwners_channel (new : Option Feed) (is : List Input) (u : State) (k : Input) :
    (withOwners new is u).channel k = if k ∈ is then { u.channel k with owner := new } else u.channel k :=
  tab_at _ k

/-- Channels that have the owner already are left as they are (R99, R102). -/
theorem withOwners_of_owned {new : Option Feed} {is : List Input} {u : State}
    (owned : ∀ i ∈ is, (u.channel i).owner = new) : withOwners new is u = u := by
  have channels : (withOwners new is u).hac.channels = u.hac.channels := by
    refine entries_ext fun k => (withOwners_channel new is u k).trans ?_
    split
    · next listed => rw [← owned k listed]; rfl
    · rfl
  exact congrArg (fun c => ({ u with hac := { u.hac with channels := c } } : State)) channels

/-- One owner after the others: the owners of all of them. -/
theorem withOwners_cons (new : Option Feed) (i : Input) (is : List Input) (u : State) :
    withOwners new is (withOwners new [i] u) = withOwners new (i :: is) u := by
  have channels :
      (withOwners new is (withOwners new [i] u)).hac.channels = (withOwners new (i :: is) u).hac.channels := by
    refine entries_ext fun k => ?_
    show (withOwners new is (withOwners new [i] u)).channel k = (withOwners new (i :: is) u).channel k
    rw [withOwners_channel, withOwners_channel, withOwners_channel]
    by_cases head : k = i
    · subst head
      simp
    · simp [head]
  exact congrArg (fun c => ({ u with hac := { u.hac with channels := c } } : State)) channels

/-- Notices before a change of owners are notices after it. -/
theorem withOwners_of_told (new : Option Feed) (is : List Input) (nts : Feed → List Notice) (u : State) :
    withOwners new is (told nts u) = told nts (withOwners new is u) := rfl

/-- The OWNER notices of one input, and of the others once its owner has changed. -/
theorem ownerNotices_cons {new : Option Feed} {cause after : Input → OwnerCause} {i : Input} {is : List Input}
    (fresh : i ∉ is) (same : ∀ k ∈ is, after k = cause k) (u : State) (g : Feed) :
    ownerNotices new cause [i] u g ++ ownerNotices new after is (withOwners new [i] u) g =
      ownerNotices new cause (i :: is) u g := by
  have kept (k : Input) (listed : k ∈ is) : (withOwners new [i] u).channel k = u.channel k := by
    rw [withOwners_channel, if_neg]
    rintro (_ | ⟨_, ⟨⟩⟩)
    exact fresh listed
  have rest : ownerNotices new after is (withOwners new [i] u) g = ownerNotices new cause is u g := by
    unfold ownerNotices
    rw [List.filter_congr fun k listed => by rw [kept k listed]]
    refine List.map_congr_left fun k filtered => ?_
    have listed := List.mem_of_mem_filter filtered
    rw [kept k listed, same k listed]
    rfl
  rw [rest]
  unfold ownerNotices
  rw [← List.map_append, ← List.filter_append]
  rfl

/-- A change of one owner: the owner replaced, and its OWNER notices (R104). -/
theorem setOwner_told (new : Option Feed) (cause : Input → OwnerCause) (i : Input) (u : State) :
    setOwner new (cause i) i u = told (ownerNotices new cause [i] u) (withOwners new [i] u) := by
  unfold setOwner
  dsimp only
  split
  · next owned =>
    have none : ownerNotices new cause [i] u = fun _ => [] := by
      funext g
      simp [ownerNotices, owned]
    rw [none, told_nothing, withOwners_of_owned (List.forall_mem_singleton.2 owned)]
  · next other =>
    rw [notifyWhere_told]
    refine congrArg₂ told (funext fun g => ?_) ?_
    · unfold toFeeds ownerNotices
      simp only [List.filter_cons, List.filter_nil, ne_eq, other, not_false_eq_true, true_and, Bool.or_eq_true,
        decide_eq_true_iff]
      split <;> rfl
    · refine congrArg (fun c => ({ u with hac := { u.hac with channels := c } } : State)) ?_
      rw [upd_eq_tab]
      refine congrArg tab (funext fun k => ?_)
      simp only [List.mem_singleton]
      rfl

/-- Changes of the owners of different channels one after another are one change, where no cause rests on the changes
before it. -/
theorem foldl_setOwner_told {new : Option Feed} {cause : State → Input → OwnerCause}
    (steady : ∀ (nts : Feed → List Notice) (u : State) (i k : Input), k ≠ i →
      cause (told nts (withOwners new [i] u)) k = cause u k) {is : List Input} (distinct : is.Nodup) (u : State) :
    is.foldl (fun s i => setOwner new (cause s i) i s) u =
      told (ownerNotices new (cause u) is u) (withOwners new is u) := by
  induction is generalizing u with
  | nil => exact (told_nothing u).symm.trans (congrArg (told _) (withOwners_of_owned (List.forall_mem_nil _)).symm)
  | cons i is ih =>
    obtain ⟨fresh, distinct⟩ := List.nodup_cons.1 distinct
    rw [List.foldl_cons, ih distinct, setOwner_told, withOwners_of_told, told_told, withOwners_cons]
    refine congrArg (told · _) (funext fun g => ?_)
    exact ownerNotices_cons fresh (fun k listed => steady _ u i k fun e => fresh (e ▸ listed)) u g

/-! ### Claims -/

/-- Another feed than `f` owns the channel of an input, and it is ONLINE, or it is not (R97). -/
def otherOwner (f : Feed) (u : State) (online : Bool) (i : Input) : Bool :=
  match (u.channel i).owner with
  | some k => decide (k ≠ f) && decide (u.online k = online)
  | none => false

theorem otherOwner_offline (f : Feed) (u : State) : otherOwner f u false = u.takeable f := by
  funext i
  unfold otherOwner State.takeable
  cases (u.channel i).owner with
  | none => rfl
  | some k => simp

theorem otherOwner_online (f : Feed) (u : State) : otherOwner f u true = u.ownedElsewhere f := by
  funext i
  unfold otherOwner State.ownedElsewhere
  cases (u.channel i).owner with
  | none => rfl
  | some k => simp

/-- The check of a claim (R97). -/
theorem otherOwner_check (f : Feed) (u : State) :
    (fun i => if otherOwner f u true i then some .owned else none) =
      mustHold (fun i => !u.ownedElsewhere f i) .owned := by
  funext i
  rw [otherOwner_online, mustHold]
  cases u.ownedElsewhere f i <;> rfl

/-- The cause that the OWNER notice of a claimed channel gives (R99, R104). -/
def claimCause (f : Feed) (u : State) (i : Input) : OwnerCause := if u.takeable f i then .takeover else .claim

/-- A change of one owner leaves the causes for the other channels as they were. -/
theorem claimCause_steady (f : Feed) (new : Option Feed) (nts : Feed → List Notice) (u : State) (i k : Input)
    (other : k ≠ i) : claimCause f (told nts (withOwners new [i] u)) k = claimCause f u k := by
  have kept : (told nts (withOwners new [i] u)).channel k = u.channel k :=
    (withOwners_channel new [i] u k).trans (if_neg fun listed => other (List.mem_singleton.1 listed))
  have online : (told nts (withOwners new [i] u)).online = u.online := funext fun g => told_online _ _ _
  unfold claimCause State.takeable
  rw [kept, online]

theorem foldl_claimOne_told (f : Feed) {is : List Input} (distinct : is.Nodup) (u : State) :
    is.foldl (fun s i => claimOne f i s) u =
      told (ownerNotices (some f) (claimCause f u) is u) (withOwners (some f) is u) :=
  foldl_setOwner_told (claimCause_steady f (some f)) distinct u

/-- The inputs found so far, with the input of one more member of a set unless it is among them (R98). -/
def joinMember (u : State) (f : Feed) (form : Bool) (found : List Input) (m : Nat) : List Input :=
  match u.translate f form m with
  | .ok i => if i ∈ found then found else found ++ [i]
  | .error _ => found

/-- Members joined one after another: the inputs of those that translate, but for the ones found before. -/
theorem foldl_joinMember (u : State) (f : Feed) (form : Bool) (ms : List Nat) (found : List Input) :
    ms.foldl (joinMember u f form) found = found ++ ((translations u f form ms).filter (· ∉ found)).eraseDups := by
  induction ms generalizing found with
  | nil => simp [translations]
  | cons m ms ih =>
    rw [List.foldl_cons, ih, joinMember]
    cases translated : u.translate f form m with
    | error e => simp [translations, translated, Except.toOption]
    | ok i =>
      have head : translations u f form (m :: ms) = i :: translations u f form ms := by
        simp [translations, translated, Except.toOption]
      rw [head, ← eraseDups_fresh]
      dsimp only
      split <;> rfl

/-- The members that translate, each input once (R98). -/
theorem translated_eq (u : State) (f : Feed) (set : ChannelSet) :
    u.translated f set = (translations u f set.inputForm set.members).eraseDups := by
  refine (foldl_joinMember u f set.inputForm set.members []).trans ?_
  simp

/-- The CLAIM_SEEN notices for feed `g`, one for each input of a list that it owns and the claimer does not (R98). -/
def claimSeenNotices (claimer : Feed) (is : List Input) (u : State) (g : Feed) : List Notice :=
  (is.filter fun i => decide ((u.channel i).owner = some g ∧ g ≠ claimer)).map fun i => .claimSeen i claimer u.ftu.frame

/-- Only what the ONLINE feeds are handed tells (R149). -/
theorem told_congr {a b : Feed → List Notice} {u : State} (same : ∀ g, u.online g = true → a g = b g) :
    told a u = told b u := by
  refine lanes_feeds_ext rfl (fun g => ?_) rfl rfl rfl rfl (fun g => ?_)
  · rw [told_lane, told_lane]
    split
    · next on => rw [same g on]
    · rfl
  · rw [told_feed, told_feed]
    cases on : u.online g with
    | false => rfl
    | true => rw [same g on]

/-- A CLAIM_SEEN notice goes to the owner, which gets it when ONLINE (R98). -/
theorem claimSeen_told (f : Feed) (i : Input) (u : State) : claimSeen f u i = told (claimSeenNotices f [i] u) u := by
  unfold claimSeen
  split
  · next k owner =>
    rw [notifyIf_told]
    refine told_congr fun g on => ?_
    by_cases own : g = k
    · subst own
      by_cases claimer : g = f <;> simp [toFeed, claimSeenNotices, owner, claimer, on]
    · simp [toFeed, claimSeenNotices, owner, own, Ne.symm own]
  · next free =>
    refine (told_nothing u).symm.trans (told_congr fun g _ => ?_)
    simp [claimSeenNotices, free]

theorem foldl_claimSeen_told (f : Feed) (is : List Input) (u : State) :
    is.foldl (claimSeen f) u = told (claimSeenNotices f is u) u := by
  induction is generalizing u with
  | nil => exact (told_nothing u).symm
  | cons i is ih =>
    have same (nts : Feed → List Notice) : claimSeenNotices f is (told nts u) = claimSeenNotices f is u := rfl
    rw [List.foldl_cons, ih, claimSeen_told, same, told_told]
    refine congrArg (told · u) (funext fun g => ?_)
    unfold claimSeenNotices
    rw [← List.map_append, ← List.filter_append]
    rfl

/-! ### Parameters -/

theorem parseSetAlone_of_set {ps : List Byte} {set : ChannelSet} (parses : parseSet ps = some (set, [])) :
    parseSetAlone ps = some set := by
  rw [parseSetAlone, parses]

/-- The owner byte of OWN_ASSIGN: a feed, or 4 for NONE (R102). -/
theorem parseAssign_of_set {ps : List Byte} {set : ChannelSet} {b : Byte} (small : b.toNat ≤ 4)
    (parses : parseSet ps = some (set, [b])) :
    parseAssign ps = some (set, if b = 4 then none else some (Fin.ofNat 4 b.toNat)) := by
  have owner : ownerOf b = if b = 4 then none else some (Fin.ofNat 4 b.toNat) := by
    rw [ownerOf_eq]
    by_cases none : b = 4
    · subst none
      rfl
    · rw [if_neg none, if_pos (by bv_omega)]
  rw [parseAssign, parses, ← owner]
  exact if_pos small

/-! ### The requests -/

section
variable {f : Feed} {u : State} {ps : List Byte} {set : ChannelSet} {is : List Input} (ready : u.sil.load = .ready)
include ready

section
variable (parses : parseSet ps = some (set, [])) (supervises : set.inputForm = true → f = u.cle.supervisor)
include parses supervises

/-- OWN_CLAIM by the outcome of its members (R97 to R99). -/
theorem ownClaim_runs :
    executeKind f ps .ownClaim u =
      match u.resolve f set (mustHold (fun i => !u.ownedElsewhere f i) .owned) with
      | .error e => refuseAt e (if e.1 = .owned then claimsSeen f set u else u)
      | .ok is =>
        accept (if 0 < is.countP (u.takeable f) then .taken else .ok)
          [byte (ownerChanges (some f) is u), byte (is.countP (u.takeable f))]
          (is.foldl (fun s i => claimOne f i s) u) := by
  show reqOwnClaim f ps u = _
  rw [reqOwnClaim, parseSetAlone_of_set parses]
  exact runRequest_passes _ _ _ _ _ _ (.inl (loading_of_ready ready)) (fun h => absurd h (by decide)) supervises

/-- A claim with no failing member (R99). -/
theorem ownClaim_executes (resolves : u.resolve f set (mustHold (fun i => !u.ownedElsewhere f i) .owned) = .ok is) :
    executeKind f ps .ownClaim u =
      (told (ownerNotices (some f) (claimCause f u) is u) (withOwners (some f) is u),
        [if ∃ i ∈ is, u.takeable f i = true then 2 else 0, byte (ownerChanges (some f) is u),
          byte (is.countP (u.takeable f))]) := by
  have distinct := (resolve_sound _ _ _ _ _ resolves).1
  have taken : (if 0 < is.countP (u.takeable f) then Result.taken else .ok).byte =
      if ∃ i ∈ is, u.takeable f i = true then 2 else 0 := by
    simp only [List.countP_pos_iff]
    split <;> rfl
  rw [ownClaim_runs ready parses supervises, resolves]
  dsimp only
  rw [foldl_claimOne_told f distinct, accept, taken]

/-- A claim refused with OWNED (R98). -/
theorem ownClaim_owned {pos : Nat}
    (fails : u.resolve f set (mustHold (fun i => !u.ownedElsewhere f i) .owned) = .error (.owned, pos)) :
    executeKind f ps .ownClaim u =
      (told (claimSeenNotices f (translations u f set.inputForm set.members).eraseDups u) u, [4, byte pos]) := by
  rw [ownClaim_runs ready parses supervises, fails]
  dsimp only
  rw [if_pos rfl, claimsSeen, translated_eq, foldl_claimSeen_told]
  rfl

/-- OWN_RELEASE of channels that the feed owns (R101). -/
theorem ownRelease_executes (resolves : u.resolve f set (ownerCheck f u) = .ok is) :
    executeKind f ps .ownRelease u =
      (told (ownerNotices none (fun _ => .release) is u) (withOwners none is u), [0, byte is.length]) := by
  have distinct := (resolve_sound _ _ _ _ _ resolves).1
  have runs := runRequest_onInputs (k := .ownRelease) (setOf := fun set : ChannelSet => set) (check := ownerCheck f)
    (body := fun _ is s => accept .ok [byte is.length] (is.foldl (fun s i => setOwner none .release i s) s))
    ready rfl (parseSetAlone_of_set parses) supervises resolves
  refine runs.trans ?_
  rw [foldl_setOwner_told (cause := fun _ _ => .release) (fun _ _ _ _ _ => rfl) distinct]
  rfl

end

section
variable (supervises : f = u.cle.supervisor)
include supervises

/-- OWN_ASSIGN of the channels of its set, whoever owns them (R102). -/
theorem ownAssign_executes {new : Option Feed} (parses : parseAssign ps = some (set, new))
    (resolves : u.resolve f set noCheck = .ok is) :
    executeKind f ps .ownAssign u =
      (told (ownerNotices new (fun _ => .assign) is u) (withOwners new is u), [0, byte (ownerChanges new is u)]) := by
  have distinct := (resolve_sound _ _ _ _ _ resolves).1
  show reqOwnAssign f ps u = _
  rw [reqOwnAssign, parses, runRequest_passes _ _ _ _ _ _ (.inl (loading_of_ready ready)) (fun _ => supervises)
    (fun _ => supervises), onInputs_ok _ _ _ _ _ _ resolves,
    foldl_setOwner_told (cause := fun _ _ => .assign) (fun _ _ _ _ _ => rfl) distinct]
  rfl

/-- SUPERVISOR_SET moves the role to an ONLINE feed (R103). -/
theorem supervisorSet_executes (b : Byte) :
    executeKind f [b] .supervisorSet u =
      if 3 < b.toNat then (u, [7])
      else if u.online (Fin.ofNat 4 b.toNat) = false then (u, [8])
      else ({ u with cle := { u.cle with supervisor := Fin.ofNat 4 b.toNat } }, [0, b]) := by
  have parses : parseByte [b] = some b := rfl
  show reqSupervisorSet f [b] u = _
  rw [reqSupervisorSet, runRequest_supervisor ready supervises parses, ownerOf_eq]
  by_cases beyond : 3 < b.toNat
  · rw [if_pos beyond, if_neg (by omega)]
    rfl
  · have named : byte (Fin.ofNat 4 b.toNat : Feed).val = b := by
      apply BitVec.eq_of_toNat_eq
      rw [toNat_byte (by omega)]
      exact Nat.mod_eq_of_lt (by omega)
    rw [if_neg beyond, if_pos (by omega)]
    dsimp only
    rw [named]
    cases u.online (Fin.ofNat 4 b.toNat) <;> rfl

end

end

/-! ### The statement -/

/-- Settles O46: the inputs of a set are different, so each change of owner starts from the owners before the request. -/
theorem ownershipRequests : Obligations.OwnershipRequests := by
  intro s f tag serves u ready given changes others
  have answers {c : Instr} {k : ReqKind} {ps bytes : List Byte} {v : State}
      (request : c.request = some (f, tag, k.code, ps)) (executes : executeKind f ps k u = (v, bytes)) :
      exec c s = .next (answered f tag k.code bytes v) := exec_answers request serves executes
  -- From here on nothing evaluates the frame step that `u` stands for.
  clear_value u
  have takeable : others false = u.takeable f := otherOwner_offline f u
  have elsewhere : (fun i => if others true i then some .owned else none) =
      mustHold (fun i => !u.ownedElsewhere f i) .owned := otherOwner_check f u
  have owned : (fun i => if (u.channel i).owner = some f then none else some .notOwner) = ownerCheck f u :=
    funext fun i => by simp [ownerCheck, mustHold, State.owns]
  refine ⟨fun ps set parses supervises => ?sets, fun ps set b is supervises parses small resolves => ?assign,
    fun b supervises => ?supervisor⟩
  case sets =>
    rw [elsewhere, owned, takeable]
    exact ⟨fun is resolves => answers (k := .ownClaim) rfl (ownClaim_executes ready parses supervises resolves),
      fun pos fails => answers (k := .ownClaim) rfl (ownClaim_owned ready parses supervises fails),
      fun is resolves => answers (k := .ownRelease) rfl (ownRelease_executes ready parses supervises resolves)⟩
  case assign =>
    exact answers (k := .ownAssign) rfl
      (ownAssign_executes ready supervises (parseAssign_of_set small parses) resolves)
  case supervisor =>
    refine (answers (k := .supervisorSet) rfl Prod.mk.eta.symm).trans ?_
    rw [supervisorSet_executes ready supervises]
    split
    · rfl
    · split <;> rfl

end Sys2Proof.Machine
end

section
/-! PROOFS. Scenes and the scheduled list (R109 to R114): entries by their keys, ids given out in turn, and the place of a new
scene. -/

namespace Sys2Proof.Machine

/-! ### Entries by key -/

/-- The key of an entry: its input and its kind (R109). -/
def SceneEntry.key (e : SceneEntry) : Input × Nat := (e.input, e.value.kind)

/-- The keys of a scene's entries (R109). -/
def sceneKeys (scene : List SceneEntry) : List (Input × Nat) := scene.map SceneEntry.key

theorem sameKey_iff {a b : SceneEntry} : a.sameKey b = true ↔ b.key = a.key := by
  rw [SceneEntry.sameKey, decide_eq_true_iff, SceneEntry.key, SceneEntry.key, Prod.mk.injEq, eq_comm (a := a.input),
    eq_comm (a := a.value.kind)]

theorem sameKey_eq_false_iff {a b : SceneEntry} : a.sameKey b = false ↔ a.key ≠ b.key := by
  rw [← Bool.not_eq_true, sameKey_iff, ne_comm]

/-- No two entries of a scene share a key when its keys are distinct (R109). -/
theorem pairwise_sameKey_iff {es : List SceneEntry} :
    (es.Pairwise fun a b => a.sameKey b = false) ↔ (sceneKeys es).Nodup := by
  simp only [sameKey_eq_false_iff, sceneKeys, List.Nodup, List.pairwise_map]

theorem any_sameKey_iff {e : SceneEntry} {scene : List SceneEntry} :
    scene.any e.sameKey = true ↔ e.key ∈ sceneKeys scene := by
  simp only [List.any_eq_true, sameKey_iff, sceneKeys, List.mem_map]

/-- The inputs of a list for which a scene has no entry of kind `k`. -/
def freshInputs (k : Nat) (is : List Input) (scene : List SceneEntry) : List Input :=
  is.filter fun i => decide ((i, k) ∉ sceneKeys scene)

/-- A scene whose entries of one kind and of the inputs of a list take a value of that kind (R112). -/
def revalued (value : EntryValue) (is : List Input) (scene : List SceneEntry) : List SceneEntry :=
  scene.map fun e => if e.input ∈ is ∧ e.value.kind = value.kind then { e with value := value } else e

/-- A scene to which a value is added for the inputs of a list: in place of the entries of their keys, and else at the end
(R112). -/
def withEntries (value : EntryValue) (is : List Input) (scene : List SceneEntry) : List SceneEntry :=
  revalued value is scene ++ (freshInputs value.kind is scene).map fun i => { input := i, value := value }

theorem mem_freshInputs {k : Nat} {is : List Input} {scene : List SceneEntry} {i : Input} :
    i ∈ freshInputs k is scene ↔ i ∈ is ∧ (i, k) ∉ sceneKeys scene := by
  simp [freshInputs]

theorem revalued_keys (value : EntryValue) (is : List Input) (scene : List SceneEntry) :
    sceneKeys (revalued value is scene) = sceneKeys scene := by
  rw [sceneKeys, revalued, List.map_map]
  refine List.map_congr_left fun e _ => ?_
  dsimp only [Function.comp_apply]
  split
  · next same => exact Prod.ext rfl same.2.symm
  · rfl

theorem withEntries_keys (value : EntryValue) (is : List Input) (scene : List SceneEntry) :
    sceneKeys (withEntries value is scene) =
      sceneKeys scene ++ (freshInputs value.kind is scene).map fun i => (i, value.kind) := by
  rw [← revalued_keys value is scene, withEntries, sceneKeys, List.map_append, List.map_map]
  rfl

theorem withEntries_length (value : EntryValue) (is : List Input) (scene : List SceneEntry) :
    (withEntries value is scene).length = scene.length + (freshInputs value.kind is scene).length := by
  simp [withEntries, revalued]

/-- The entries of a scene that no input of a list names keep their values. -/
theorem revalued_of_other {value : EntryValue} {is : List Input} {scene : List SceneEntry}
    (other : ∀ i ∈ is, (i, value.kind) ∉ sceneKeys scene) : revalued value is scene = scene := by
  refine (List.map_congr_left fun e held => if_neg ?_).trans (List.map_id scene)
  rintro ⟨listed, kind⟩
  exact other _ listed (List.mem_map.2 ⟨e, held, Prod.ext rfl kind⟩)

/-- One entry placed (R112). -/
theorem placeEntry_eq (scene : List SceneEntry) (i : Input) (value : EntryValue) :
    placeEntry scene { input := i, value := value } = withEntries value [i] scene := by
  unfold placeEntry withEntries
  by_cases held : (i, value.kind) ∈ sceneKeys scene
  · have none : freshInputs value.kind [i] scene = [] := List.filter_eq_nil_iff.2 (by simpa using held)
    rw [if_pos (any_sameKey_iff.2 held), none, List.map_nil, List.append_nil]
    refine List.map_congr_left fun e _ => ?_
    simp only [sameKey_iff, SceneEntry.key, Prod.mk.injEq, List.mem_singleton]
    split
    · next same => rw [same.1]
    · rfl
  · have one : freshInputs value.kind [i] scene = [i] := List.filter_eq_self.2 (by simpa using held)
    rw [if_neg (mt any_sameKey_iff.1 held), one, revalued_of_other (by simpa using held)]
    rfl

/-- A value added for one input, and then for others. -/
theorem withEntries_cons {value : EntryValue} {i : Input} {is : List Input} (fresh : i ∉ is) (scene : List SceneEntry) :
    withEntries value is (withEntries value [i] scene) = withEntries value (i :: is) scene := by
  have old : revalued value is (revalued value [i] scene) = revalued value (i :: is) scene := by
    rw [revalued, revalued, revalued, List.map_map]
    refine List.map_congr_left fun e _ => ?_
    simp only [Function.comp_apply, List.mem_cons]
    by_cases kind : e.value.kind = value.kind <;> by_cases head : e.input = i <;> simp [kind, head, fresh]
  have added : revalued value is ((freshInputs value.kind [i] scene).map fun j => { input := j, value := value }) =
      (freshInputs value.kind [i] scene).map fun j => { input := j, value := value } := by
    refine revalued_of_other fun j listed held => fresh ?_
    obtain ⟨_, same, e⟩ := List.mem_map.1 held
    obtain ⟨k, single, rfl⟩ := List.mem_map.1 same
    cases e
    rwa [← List.mem_singleton.1 (mem_freshInputs.1 single).1]
  have later : freshInputs value.kind is (withEntries value [i] scene) = freshInputs value.kind is scene := by
    refine List.filter_congr fun j listed => ?_
    have other : j ≠ i := fun e => fresh (e ▸ listed)
    simp [withEntries_keys, mem_freshInputs, other]
  have joined : freshInputs value.kind (i :: is) scene =
      freshInputs value.kind [i] scene ++ freshInputs value.kind is scene :=
    List.filter_append [i] is
  calc withEntries value is (withEntries value [i] scene)
      = revalued value is (withEntries value [i] scene) ++
          (freshInputs value.kind is scene).map (fun j => { input := j, value := value }) := by
        rw [withEntries, later]
    _ = withEntries value (i :: is) scene := by
        rw [withEntries, revalued, List.map_append]
        unfold withEntries
        rw [joined, List.map_append, ← old, ← List.append_assoc]
        exact congrArg (_ ++ · ++ _) added

/-- Entries of one value placed one after another (R112). -/
theorem foldl_placeEntry (value : EntryValue) {is : List Input} (distinct : is.Nodup) (scene : List SceneEntry) :
    (is.map fun i => ({ input := i, value := value } : SceneEntry)).foldl placeEntry scene =
      withEntries value is scene := by
  induction is generalizing scene with
  | nil => simp [withEntries, revalued, freshInputs]
  | cons i is ih =>
    obtain ⟨fresh, distinct⟩ := List.nodup_cons.1 distinct
    rw [List.map_cons, List.foldl_cons, ih distinct, placeEntry_eq, withEntries_cons fresh]

/-- Of entries of one value, those whose keys a scene does not have. -/
theorem countP_fresh (value : EntryValue) (is : List Input) (scene : List SceneEntry) :
    ((is.map fun i => ({ input := i, value := value } : SceneEntry)).countP fun e => !scene.any e.sameKey) =
      (freshInputs value.kind is scene).length := by
  rw [List.countP_map, List.countP_eq_length_filter]
  refine congrArg List.length (List.filter_congr fun i _ => ?_)
  rw [Bool.eq_iff_iff, decide_eq_true_iff, Function.comp_apply, Bool.not_eq_true', ← Bool.not_eq_true, any_sameKey_iff]
  rfl

/-- A scene with room for the entries that are added stays in its bounds (R109). -/
theorem withEntries_sound {value : EntryValue} {is : List Input} {scene : List SceneEntry} (sound : sceneSound scene)
    (distinct : is.Nodup) (allowed : ∀ i, SceneEntry.sound ⟨i, value⟩)
    (room : scene.length + (freshInputs value.kind is scene).length ≤ 24) : sceneSound (withEntries value is scene) := by
  obtain ⟨-, keys, values⟩ := sound
  refine ⟨(withEntries_length value is scene).trans_le room, pairwise_sameKey_iff.2 ?_, fun e listed => ?_⟩
  · rw [withEntries_keys]
    refine List.Nodup.append (pairwise_sameKey_iff.1 keys) ?_ ?_
    · exact (distinct.filter _).map fun i j same => congrArg Prod.fst same
    · intro key held added
      obtain ⟨i, listed, rfl⟩ := List.mem_map.1 added
      exact (mem_freshInputs.1 listed).2 held
  · rcases List.mem_append.1 listed with old | new
    · obtain ⟨d, held, rfl⟩ := List.mem_map.1 old
      split
      · exact allowed _
      · exact values d held
    · obtain ⟨i, -, rfl⟩ := List.mem_map.1 new
      exact allowed i

/-! ### Values of entries -/

/-- A presence byte that asks for nothing is not one of R75. -/
theorem presence_absent : ∀ presence : Byte, presence.getLsbD 0 = false → presence.getLsbD 1 = false →
    presence.getLsbD 2 = false → presence = 0 ∨ 7 < presence.toNat := by
  decide

/-- A field that is there when it is asked for was not asked for if nothing was read. -/
theorem not_asked {α : Type} {asked : Bool} {l : List α} {k : Nat} (there : asked = true → k < l.length)
    (nothing : (if asked then l[k]? else none) = none) : asked = false := by
  cases asked with
  | false => rfl
  | true => exact absurd (there rfl) (Nat.not_lt.2 (List.getElem?_eq_none_iff.1 nothing))

/-- A byte that is a bit is not lost. -/
theorem no_byte_of_no_bit {o : Option Byte} (bit : ¬ o.any (fun b => (parseBit b).isNone) = true)
    (nothing : o.bind parseBit = none) : o = none := by
  cases o with
  | none => rfl
  | some b => exact absurd (Option.isNone_iff_eq_none.2 nothing) bit

/-- A head-amp change that parses holds at least one field (R75, R109). -/
theorem parseHeadAmp_present {bytes : List Byte} {code : Option Nat} {pad phantom : Option Bool}
    (h : parseHeadAmp bytes = some (code, pad, phantom)) : ¬ (code = none ∧ pad = none ∧ phantom = none) := by
  rintro ⟨rfl, rfl, rfl⟩
  cases bytes with
  | nil => cases h
  | cons presence rest =>
    unfold parseHeadAmp at h
    dsimp only at h
    split at h
    · cases h
    · next present =>
      split at h
      · cases h
      · next size =>
        rw [not_not] at size
        generalize codeAt : (if presence.getLsbD 0 then rest[0]? else none) = codeByte at h
        generalize padAt : (if presence.getLsbD 1 then rest[(presence.getLsbD 0).toNat]? else none) = padByte at h
        generalize phantomAt : (if presence.getLsbD 2 then
          rest[(presence.getLsbD 0).toNat + (presence.getLsbD 1).toNat]? else none) = phantomByte at h
        split at h
        · cases h
        · next bits =>
          rw [Bool.or_eq_true, not_or] at bits
          rw [Option.some.injEq, Prod.mk.injEq, Prod.mk.injEq, Option.map_eq_none_iff] at h
          obtain ⟨rfl, noPad, noPhantom⟩ := h
          obtain rfl := no_byte_of_no_bit bits.1 noPad
          obtain rfl := no_byte_of_no_bit bits.2 noPhantom
          refine present (presence_absent presence (not_asked (fun asked => ?_) codeAt)
            (not_asked (fun asked => ?_) padAt) (not_asked (fun asked => ?_) phantomAt))
          all_goals
            rw [size, asked, Bool.toNat_true]
            omega

/-- The value that SCN_ADD holds is one that R109 allows (R111, R112). -/
theorem parseEntryValue_sound {kind : Byte} {bytes : List Byte} {v : EntryValue × Bool}
    (h : parseEntryValue kind bytes = some v) (i : Input) : SceneEntry.sound ⟨i, v.1⟩ := by
  unfold parseEntryValue at h
  split at h
  · obtain ⟨⟨code, pad, phantom⟩, parsed, rfl⟩ := Option.map_eq_some_iff.1 h
    have present := parseHeadAmp_present parsed
    exact fun absent => present ⟨Option.map_eq_none_iff.1 absent.1, absent.2⟩
  · cases h
    exact inTrim_clampTrim _
  · obtain ⟨on, -, rfl⟩ := Option.map_eq_some_iff.1 h
    trivial
  · cases h

theorem parseScnAdd_sound {ps : List Byte} {p : SceneAddParams} (h : parseScnAdd ps = some p) (i : Input) :
    SceneEntry.sound ⟨i, p.value⟩ := by
  unfold parseScnAdd at h
  split at h
  · cases h
  · split at h
    · obtain ⟨v, parsed, rfl⟩ := Option.map_eq_some_iff.1 h
      exact parseEntryValue_sound parsed i
    · cases h

/-! ### Ids -/

/-- The id `k` places after `id`, from 255 back to 1 (R114). -/
def sceneIdAfter (id : Byte) (k : Nat) : Byte := BitVec.ofNat 8 ((id.toNat - 1 + k) % 255 + 1)

theorem sceneIdAfter_toNat (id : Byte) (k : Nat) : (sceneIdAfter id k).toNat = (id.toNat - 1 + k) % 255 + 1 := by
  rw [sceneIdAfter, BitVec.toNat_ofNat]
  omega

theorem sceneIdAfter_ne_zero (id : Byte) (k : Nat) : sceneIdAfter id k ≠ 0 := by
  have := sceneIdAfter_toNat id k
  bv_omega

theorem sceneIdAfter_zero {id : Byte} (used : id ≠ 0) : sceneIdAfter id 0 = id := by
  apply BitVec.eq_of_toNat_eq
  rw [sceneIdAfter_toNat]
  bv_omega

theorem nextSceneId_eq (id : Byte) : nextSceneId id = BitVec.ofNat 8 (id.toNat % 255 + 1) := by
  unfold nextSceneId
  split <;> bv_omega

theorem nextSceneId_ne_zero (id : Byte) : nextSceneId id ≠ 0 := by
  rw [nextSceneId_eq]
  bv_omega

theorem nextSceneId_after (id : Byte) (k : Nat) : nextSceneId (sceneIdAfter id k) = sceneIdAfter id (k + 1) := by
  rw [nextSceneId_eq, sceneIdAfter_toNat, sceneIdAfter]
  congr 1
  omega

/-- Fewer than 255 ids in turn are distinct. -/
theorem sceneIdAfter_inj {id : Byte} {j k : Nat} (hj : j < 255) (hk : k < 255) (same : sceneIdAfter id j = sceneIdAfter id k) :
    j = k := by
  have eq := congrArg BitVec.toNat same
  rw [sceneIdAfter_toNat, sceneIdAfter_toNat] at eq
  omega

/-- No waiting scene has the id (R114). -/
def idFree (waiting : List Scheduled) (id : Byte) : Bool := waiting.all fun x => decide (x.id ≠ id)

/-- Ids looked at in turn: the first that is free, and after so many the next (R114). -/
theorem freeSceneId_eq (waiting : List Scheduled) (id : Byte) (n k : Nat) :
    freeSceneId waiting n (sceneIdAfter id k) =
      (((List.range' k n).map (sceneIdAfter id)).find? (idFree waiting)).getD (sceneIdAfter id (k + n)) := by
  induction n generalizing k with
  | zero => rfl
  | succ n ih =>
    have taken : (waiting.any fun x => decide (x.id = sceneIdAfter id k)) = !idFree waiting (sceneIdAfter id k) := by
      simp only [idFree, ne_eq, decide_not]
      exact List.any_eq_not_all_not
    rw [freeSceneId, taken, nextSceneId_after, ih, List.range'_succ, List.map_cons, List.find?_cons, Nat.add_right_comm]
    cases idFree waiting (sceneIdAfter id k) <;> rfl

/-- Of five ids in turn, one is free while at most four scenes wait (R114). -/
theorem exists_idFree (id : Byte) {waiting : List Scheduled} (few : waiting.length ≤ 4) :
    ∃ i ∈ (List.range' 0 5).map (sceneIdAfter id), idFree waiting i = true := by
  by_contra none
  have taken : (List.range' 0 5).map (sceneIdAfter id) ⊆ waiting.map (·.id) := by
    intro i listed
    by_contra free
    refine none ⟨i, listed, List.all_eq_true.2 fun x waits => decide_eq_true fun same => free ?_⟩
    exact List.mem_map.2 ⟨x, waits, same⟩
  have distinct : ((List.range' 0 5).map (sceneIdAfter id)).Nodup := by
    refine List.Nodup.map_on (fun j hj k hk => sceneIdAfter_inj ?_ ?_) List.nodup_range'
    · have := List.mem_range'_1.1 hj
      omega
    · have := List.mem_range'_1.1 hk
      omega
  have := (distinct.subperm taken).length_le
  simp only [List.length_map, List.length_range'] at this
  omega

/-- A new scene gets a free id, the first of five in turn (R114). -/
theorem freeSceneId_found {id : Byte} (used : id ≠ 0) {waiting : List Scheduled} (few : waiting.length ≤ 4) :
    ((List.range' 0 5).map (sceneIdAfter id)).find? (idFree waiting) = some (freeSceneId waiting 5 id) := by
  have first := freeSceneId_eq waiting id 5 0
  rw [sceneIdAfter_zero used] at first
  obtain ⟨i, listed, free⟩ := exists_idFree id few
  cases found : ((List.range' 0 5).map (sceneIdAfter id)).find? (idFree waiting) with
  | none => exact absurd free (List.find?_eq_none.1 found i listed)
  | some j => rw [first, found]; rfl

theorem freeSceneId_fits {id : Byte} (used : id ≠ 0) {waiting : List Scheduled} (few : waiting.length ≤ 4) :
    freeSceneId waiting 5 id ≠ 0 ∧ freeSceneId waiting 5 id ∉ waiting.map (·.id) := by
  have found := freeSceneId_found used few
  have free : idFree waiting (freeSceneId waiting 5 id) = true := List.find?_some found
  obtain ⟨k, -, place⟩ := List.mem_map.1 (List.mem_of_find?_eq_some found)
  refine ⟨place ▸ sceneIdAfter_ne_zero id k, fun listed => ?_⟩
  obtain ⟨x, waits, same⟩ := List.mem_map.1 listed
  exact of_decide_eq_true (List.all_eq_true.1 free x waits) same

/-! ### The place of a new scene -/

/-- A new scene stands behind every scene whose frame is not after its own (R113). -/
theorem insertScene_eq (x : Scheduled) (l : List Scheduled) :
    insertScene x l = (l.takeWhile fun y => decide (0 ≤ lead x.frame y.frame)) ++
      x :: l.dropWhile fun y => decide (0 ≤ lead x.frame y.frame) := by
  induction l with
  | nil => rfl
  | cons y l ih =>
    unfold insertScene
    by_cases before : 0 ≤ lead x.frame y.frame
    · rw [if_pos ((notAfter_iff _ _).2 before), List.takeWhile_cons, List.dropWhile_cons, decide_eq_true before, ih]
      rfl
    · rw [if_neg (mt (notAfter_iff _ _).1 before), List.takeWhile_cons, List.dropWhile_cons, decide_eq_false before]
      rfl

theorem insertScene_perm (x : Scheduled) (l : List Scheduled) : (insertScene x l).Perm (x :: l) := by
  rw [insertScene_eq]
  refine List.perm_middle.trans ?_
  rw [List.takeWhile_append_dropWhile]

end Sys2Proof.Machine
end

section
/-! PROOFS. Scenes kept within their bounds by every step, and the scheduled list in order with distinct ids (R109, R113,
R114). -/

namespace Sys2Proof.Machine

/-! ### The condition -/

/-- The bounds of the SCU that no frame number bears on: those of the scenes, and ids that are distinct and not 0 (R109,
R114). -/
structure Scu.fits (u : Scu) : Prop where
  opened : ∀ (f : Feed) es, u.opened[f] = some es → sceneSound es
  waiting : ∀ x ∈ u.scheduled, sceneSound x.entries ∧ x.id ≠ 0
  distinct : (u.scheduled.map (·.id)).Nodup
  counter : u.nextId ≠ 0

/-- The condition on scenes: the bounds of the SCU, and its list in turn (R113). -/
theorem scenesSound_iff (s : State) : s.scenesSound ↔ s.scu.fits ∧ inTurn s.ftu.frame s.scu.scheduled := by
  constructor
  · rintro ⟨opened, few, each, pairs, counter⟩
    exact ⟨⟨opened, fun x waits => ⟨(each x waits).1, (each x waits).2.1⟩, List.pairwise_map.2 (pairs.imp And.right), counter⟩,
      few, fun x waits => (each x waits).2.2, pairs.imp And.left⟩
  · rintro ⟨⟨opened, waiting, distinct, counter⟩, few, range, order⟩
    exact ⟨opened, few, fun x waits => ⟨(waiting x waits).1, (waiting x waits).2, range x waits⟩,
      order.and (List.pairwise_map.1 distinct), counter⟩

theorem scenesSound_of_same {s t : State} (h : s.scenesSound) (frame : t.ftu.frame = s.ftu.frame) (scu : t.scu = s.scu) :
    t.scenesSound := by
  rw [scenesSound_iff, frame, scu]
  exact (scenesSound_iff s).1 h

theorem scenesSound_of_quiet {s t : State} (h : s.scenesSound) (quiet : s.quiet t) : t.scenesSound := by
  obtain ⟨ftu, scu, -⟩ := quiet
  exact scenesSound_of_same h (by rw [ftu]) scu

/-- A change within a frame keeps the list in turn, and so the condition if the SCU stays in its bounds. -/
theorem scenesSound_of_within {s t : State} (h : s.scenesSound) (within : s.within t) (fits : s.scu.fits → t.scu.fits) :
    t.scenesSound := by
  obtain ⟨bounds, turn⟩ := (scenesSound_iff s).1 h
  exact (scenesSound_iff t).2 ⟨fits bounds, within.frame ▸ within.turn turn⟩

/-! ### Changes of the SCU -/

section
variable {u : Scu} (h : u.fits)
include h

/-- A feed's open scene replaced by one in its bounds, or discarded (R109, R110). -/
theorem fits_open (f : Feed) {x : Option (List SceneEntry)} (sound : ∀ es, x = some es → sceneSound es) :
    ({ u with opened := put u.opened f x } : Scu).fits := by
  refine { h with opened := fun g es e => ?_ }
  simp only [Fin.getElem_fin, put_entry] at e
  split at e
  · exact sound es e
  · exact h.opened g es e

theorem fits_discard (f : Feed) : ({ u with opened := put u.opened f none } : Scu).fits :=
  fits_open h f fun _ e => nomatch e

/-- Scenes taken off the list (R116, R120). -/
theorem fits_sublist {l : List Scheduled} (sub : l.Sublist u.scheduled) : ({ u with scheduled := l } : Scu).fits :=
  { h with
    waiting := fun x waits => h.waiting x (sub.subset waits)
    distinct := (sub.map _).nodup h.distinct }

/-- A scene scheduled under the first free id, while the list has room (R113, R114). -/
theorem fits_insert {f : Feed} {n : FrameNo} {es : List SceneEntry} (sound : sceneSound es) (few : u.scheduled.length ≤ 4) :
    let id := freeSceneId u.scheduled 5 u.nextId
    ({ u with
        scheduled := insertScene { id := id, feed := f, frame := n, entries := es } u.scheduled
        nextId := nextSceneId id } : Scu).fits := by
  intro id
  obtain ⟨used, free⟩ := freeSceneId_fits h.counter few
  refine { h with waiting := fun x listed => ?_, distinct := ?_, counter := nextSceneId_ne_zero id }
  · rcases mem_insertScene.1 listed with rfl | waits
    · exact ⟨sound, used⟩
    · exact h.waiting x waits
  · exact ((insertScene_perm _ _).map _).nodup_iff.2 (List.nodup_cons.2 ⟨free, h.distinct⟩)

end

/-- The SCU after reset (R123). -/
theorem reset_fits : Scu.reset.fits where
  opened f es e := by simp [Scu.reset] at e
  waiting x waits := absurd waits List.not_mem_nil
  distinct := List.nodup_nil
  counter := by decide

theorem powerOn_scenesSound (s : State) : (powerOn s).scenesSound :=
  (scenesSound_iff _).2 ⟨reset_fits, Nat.zero_le 4, fun _ waits => absurd waits List.not_mem_nil, List.Pairwise.nil⟩

/-! ### Requests -/

/-- The requests that change the SCU (R110 to R115, R120, R165). -/
def changesScenes : ReqKind → Bool
  | .devRestart | .scnOpen | .scnAdd | .scnCommit | .scnCancel => true
  | _ => false

theorem setOwner_scu (new : Option Feed) (cause : OwnerCause) (i : Input) (s : State) :
    (setOwner new cause i s).scu = s.scu := by
  unfold setOwner
  dsimp only
  split
  · rfl
  · rw [notifyWhere_scu]

theorem claimSeen_scu (f : Feed) (s : State) (i : Input) : (claimSeen f s i).scu = s.scu := by
  unfold claimSeen
  split
  · rw [notifyIf_scu]
  · rfl

theorem changeTaps_scu (f : Feed) (g : Int → Tap → Tap) (is : List Input) (s : State) : (changeTaps f g is s).scu = s.scu :=
  foldl_read _ State.scu (fun _ _ => changeTap_scu _ _ _ _) is s

theorem applyPlaw_scu (s : State) : (applyPlaw s).scu = s.scu := by
  unfold applyPlaw
  rw [notifyWhere_scu]
  exact foldl_read (fun s i => regain i s) State.scu (fun t i => regain_scu i t) inputs _

theorem runRequest_scu {α : Type} {k : ReqKind} {parsed : Option α} {form : α → Bool} {f : Feed}
    {body : α → State → Reply} {s : State} (same : ∀ p, (body p s).1.scu = s.scu) :
    (runRequest k parsed form f body s).1.scu = s.scu :=
  runRequest_keeps (P := fun t => t.scu = s.scu) rfl same

theorem onInputs_scu {f : Feed} {set : ChannelSet} {check : State → Input → Option Result}
    {body : List Input → State → Reply} {s : State} (same : ∀ is, (body is s).1.scu = s.scu) :
    (onInputs f set check body s).1.scu = s.scu := by
  unfold onInputs
  split
  · rfl
  · exact same _

/-- Every other request leaves the SCU alone. -/
theorem executeKind_scu (f : Feed) (ps : List Byte) (k : ReqKind) (s : State) (other : changesScenes k = false) :
    (executeKind f ps k s).1.scu = s.scu := by
  cases k with
  | devRestart | scnOpen | scnAdd | scnCommit | scnCancel => cases other
  | tapTrim | tapMode | tapAnchor | tapMute =>
    exact runRequest_scu fun _ => onInputs_scu fun is => changeTaps_scu _ _ is s
  | haSet | haNudge =>
    refine runRequest_scu fun _ => onInputs_scu fun is => ?_
    exact List.foldlRecOn (motive := fun t : State => t.scu = s.scu) is _ rfl fun _ same _ _ => same
  | ownRelease | ownAssign =>
    exact runRequest_scu fun _ => onInputs_scu fun is => foldl_read _ State.scu (fun _ _ => setOwner_scu _ _ _ _) is s
  | ownClaim =>
    refine runRequest_scu fun set => ?_
    dsimp only
    split
    · unfold refuseAt
      dsimp only
      split
      · exact foldl_read _ State.scu (fun t i => claimSeen_scu f t i) _ s
      · rfl
    · exact foldl_read _ State.scu (fun _ _ => setOwner_scu _ _ _ _) _ s
  | clockSet =>
    refine runRequest_scu fun p => ?_
    dsimp only
    split
    · rfl
    · exact setClock_scu _ _ s
  | lawApply =>
    refine runRequest_scu fun _ => ?_
    repeat' split
    · rfl
    · rfl
    · exact notifyWhere_scu _ _ _
  | plawApply =>
    refine runRequest_scu fun _ => ?_
    repeat' split
    · rfl
    · rfl
    · exact applyPlaw_scu s
  | tapGet | haGet | clipGet | clipSet | clipAck => exact runRequest_scu fun _ => onInputs_scu fun _ => rfl
  | mtrSubscribe =>
    refine runRequest_scu fun p => ?_
    split
    · rfl
    · exact onInputs_scu fun _ => rfl
  | devStatus | storeSave | mapWindows | mapGet | feedGlide | lawStage | plawStage | lawGet | supervisorSet | scnList =>
    refine runRequest_scu fun _ => ?_
    repeat' split
    all_goals rfl

theorem runRequest_fits {α : Type} {k : ReqKind} {parsed : Option α} {form : α → Bool} {f : Feed}
    {body : α → State → Reply} {s : State} (h : s.scu.fits) (carries : ∀ p, parsed = some p → (body p s).1.scu.fits) :
    (runRequest k parsed form f body s).1.scu.fits := by
  cases parsed with
  | none => exact h
  | some p =>
    show (runRequest k (some p) form f (fun _ => body p) s).1.scu.fits
    exact runRequest_keeps (P := fun t => t.scu.fits) h fun _ => carries p rfl

/-- SCN_ADD leaves the open scene in its bounds (R109, R112). -/
theorem reqScnAdd_fits (f : Feed) (ps : List Byte) {s : State} (h : s.scu.fits) : (reqScnAdd f ps s).1.scu.fits := by
  refine runRequest_fits h fun p parses => ?_
  split
  · exact h
  · next scene isOpen =>
    unfold onInputs
    split
    · exact h
    · next is resolves =>
      obtain ⟨distinct, -⟩ := resolve_sound _ _ _ _ _ resolves
      dsimp only
      rw [countP_fresh, foldl_placeEntry p.value distinct]
      split
      · exact h
      · next room =>
        refine fits_open h f fun es e => ?_
        cases e
        exact withEntries_sound (h.opened f scene isOpen) distinct (parseScnAdd_sound parses) (Nat.not_lt.1 room)

theorem executeScene_fits (f : Feed) (es : List SceneEntry) {s : State} (h : s.scu.fits) :
    (executeScene f es s).1.scu.fits := by
  have scu : (executeScene f es s).1.scu = (setOpenScene f none s).scu := (runEntries_reads f es 0 _ _).2
  rw [scu]
  exact fits_discard h f

theorem reqScnCommit_fits (f : Feed) (ps : List Byte) {s : State} (h : s.scu.fits) : (reqScnCommit f ps s).1.scu.fits := by
  refine runRequest_fits h fun mode _ => ?_
  split
  · exact h
  · exact h
  · next e es isOpen =>
    split
    · exact executeScene_fits f (e :: es) h
    · repeat' split
      · exact executeScene_fits f (e :: es) h
      · exact h
      · exact h
      · exact fits_discard (fits_insert h (h.opened f (e :: es) isOpen) (by omega)) f

theorem reqScnCancel_fits (f : Feed) (ps : List Byte) {s : State} (h : s.scu.fits) : (reqScnCancel f ps s).1.scu.fits := by
  refine runRequest_fits h fun mode _ => ?_
  split
  · split
    · exact h
    · exact fits_discard h f
  · split
    · exact fits_sublist h List.filter_sublist
    · exact h

theorem executeKind_fits (f : Feed) (ps : List Byte) (k : ReqKind) {s : State} (h : s.scu.fits) :
    (executeKind f ps k s).1.scu.fits := by
  by_cases other : changesScenes k = false
  · rw [executeKind_scu f ps k s other]
    exact h
  · cases k with
    | devRestart =>
      refine runRequest_fits h fun _ _ => ?_
      split
      · exact h
      · exact reset_fits
    | scnOpen =>
      refine runRequest_fits h fun _ _ => ?_
      split
      · exact h
      · refine fits_open h f fun es e => ?_
        cases e
        exact ⟨Nat.zero_le 24, List.Pairwise.nil, fun _ listed => absurd listed List.not_mem_nil⟩
    | scnAdd => exact reqScnAdd_fits f ps h
    | scnCommit => exact reqScnCommit_fits f ps h
    | scnCancel => exact reqScnCancel_fits f ps h
    | _ => exact absurd rfl other

theorem execute_scenesSound (f : Feed) (m : Message) {s : State} (h : s.scenesSound) : (execute f m s).1.scenesSound := by
  refine scenesSound_of_within h (execute_within f m s) fun fits => ?_
  unfold execute
  split
  · exact fits
  · exact executeKind_fits f m.params _ fits

/-! ### The round -/

theorem grant_scenesSound (f : Feed) (m : Message) {s : State} (h : s.scenesSound) : (grant f m s).scenesSound :=
  scenesSound_of_same (execute_scenesSound f m h) rfl rfl

theorem consider_scenesSound (f : Feed) {s : State} (h : s.scenesSound) : (consider f s).scenesSound := by
  unfold consider
  split
  · exact scenesSound_of_same h rfl rfl
  · split
    · exact grant_scenesSound f _ (scenesSound_of_same h rfl rfl)
    · exact scenesSound_of_same h rfl rfl

theorem round_scenesSound {s : State} (h : s.scenesSound) : (round s).scenesSound :=
  List.foldlRecOn _ _ h fun _ reached f _ => consider_scenesSound f reached

theorem roundUpTo_scenesSound (f : Feed) {s : State} (h : s.scenesSound) : (roundUpTo f s).scenesSound :=
  List.foldlRecOn _ _ h fun _ reached g _ => consider_scenesSound g reached

theorem submit_scenesSound (f : Feed) (m : Message) {s : State} (h : s.scenesSound) : (submit f m s).scenesSound := by
  unfold submit
  split
  · split
    · exact grant_scenesSound f m (roundUpTo_scenesSound f (scenesSound_of_quiet h (beforeRequests_quiet s)))
    · exact scenesSound_of_same h rfl rfl
  · exact h

/-! ### Link ports -/

section
variable (f : Feed) (r : Role) {s : State} (h : s.scu.fits)
include h

theorem portUp_fits : (portUp f r s).scu.fits := by
  unfold portUp
  repeat' split
  · rw [goOnline_scu]
    exact h
  · rw [moveControl_scu]
    exact h
  · exact h

/-- A feed that goes OFFLINE loses its open scene (R134). -/
theorem portDown_fits : (portDown f r s).scu.fits := by
  unfold portDown
  repeat' split
  · rw [moveControl_scu]
    exact h
  · rw [goOffline_eq, reportGone_scu]
    exact fits_discard h f
  · exact h

theorem takeOutcome_fits (good : Bool) : (takeOutcome f r good s).scu.fits := by
  unfold takeOutcome
  dsimp only
  repeat' split
  · exact portUp_fits f r h
  · exact portDown_fits f r h
  · exact h

theorem takeHeld_fits : (takeHeld f r s).scu.fits := by
  unfold takeHeld
  split
  · exact takeOutcome_fits f r h false
  · exact h

theorem portOutcome_fits (late : Bool) (o : UpOutcome) : (portOutcome f r late o s).scu.fits := by
  unfold portOutcome
  repeat' split
  · exact takeHeld_fits f _ (takeOutcome_fits (s := deliverBytes f r late _ _ s) f r h true)
  · exact h
  · exact takeHeld_fits f _ (takeOutcome_fits f r h false)

end

theorem portOutcome_scenesSound (f : Feed) (r : Role) (late : Bool) (o : UpOutcome) {s : State} (h : s.scenesSound) :
    (portOutcome f r late o s).scenesSound :=
  scenesSound_of_within h (portOutcome_within f r late o s) fun fits => portOutcome_fits f r fits late o

theorem missingLinks_scenesSound {s : State} (h : s.scenesSound) : (missingLinks s).scenesSound := by
  refine List.foldlRecOn _ _ h fun t reached p _ => ?_
  unfold missingLink
  split
  · exact reached
  · exact portOutcome_scenesSound _ _ _ _ reached

/-! ### Scenes and timers -/

/-- A scene that is due leaves the list (R116). -/
theorem sceneDue_scenesSound {s : State} (h : s.scenesSound) : (sceneDue s).scenesSound := by
  refine scenesSound_of_within h (sceneDue_within s) fun fits => ?_
  unfold sceneDue
  split
  · exact fits
  · next x rest waits =>
    split
    · rw [(runScheduled_reads x _).2]
      exact fits_sublist fits (waits ▸ List.sublist_cons_self x rest)
    · exact fits

theorem scenesDue_scenesSound {s : State} (h : s.scenesSound) : (scenesDue s).scenesSound :=
  sceneDue_scenesSound (sceneDue_scenesSound (sceneDue_scenesSound (sceneDue_scenesSound h)))

theorem revertTimer_scenesSound {s : State} (h : s.scenesSound) : (revertTimer s).scenesSound :=
  scenesSound_of_same h (revertTimer_within s).frame (revertTimer_scu s)

theorem holdoverTimer_scenesSound {s : State} (h : s.scenesSound) : (holdoverTimer s).scenesSound :=
  scenesSound_of_same h (holdoverTimer_within s).frame (holdoverTimer_scu s)

theorem wordclockPresent_scenesSound {s : State} (h : s.scenesSound) : (wordclockPresent s).scenesSound := by
  unfold wordclockPresent
  split
  · exact h
  · exact scenesSound_of_same h (reportCame_frame _ _) (reportCame_scu _ _)

theorem wordclockAbsent_scenesSound {s : State} (h : s.scenesSound) : (wordclockAbsent s).scenesSound := by
  unfold wordclockAbsent
  split
  · exact scenesSound_of_same h (reportGone_frame _ _) (reportGone_scu _ _)
  · exact h

/-! ### The end of the frame -/

/-- After the four executions that follow the round, no scene of a list in turn is due, and the send opportunities leave the
scenes alone (R113, R116). -/
theorem afterRound_scenes {s : State} (h : s.scenesSound) :
    (afterRound s).scenesSound ∧ ∀ x ∈ (afterRound s).scu.scheduled, lead (afterRound s).ftu.frame x.frame < 0 := by
  have late : (lateArrivals s).scenesSound := scenesSound_of_same h rfl rfl
  have timed := holdoverTimer_scenesSound (revertTimer_scenesSound (missingLinks_scenesSound late))
  unfold afterRound
  generalize holdoverTimer (revertTimer (missingLinks (lateArrivals s))) = t at timed
  obtain ⟨-, turn⟩ := (scenesSound_iff t).1 timed
  refine ⟨scenesSound_of_same (scenesDue_scenesSound timed) (by rw [busOpportunities_ftu]) (busOpportunities_scu _), ?_⟩
  rw [busOpportunities_ftu, busOpportunities_scu, scenesDue_ftu, scenesDue_scheduled]
  exact dropDue_none_due 4 _ turn turn.1

/-- The next frame begins with the list in turn, as long as no scene that was due is left in it (R1, R113). -/
theorem inTurn_nextFrame {n : FrameNo} {l : List Scheduled} (turn : inTurn n l) (later : ∀ x ∈ l, lead n x.frame < 0) :
    inTurn (n + 1) l := by
  obtain ⟨few, range, order⟩ := turn
  have next (x : Scheduled) (waits : x ∈ l) : 0 < lead x.frame n ∧ lead x.frame (n + 1) = lead x.frame n - 1 := by
    have ahead := later x waits
    rw [lead_swap (range x waits).1] at ahead
    exact ⟨by omega, lead_nextFrame (by omega)⟩
  refine ⟨few, fun x waits => ?_, order.imp_of_mem fun {x y} hx hy before => ?_⟩
  · have := next x waits
    have := range x waits
    omega
  · rw [(next x hx).2, (next y hy).2]
    omega

theorem tick_scenesSound {s : State} (h : s.scenesSound) : (tick s).scenesSound := by
  obtain ⟨events, later⟩ := afterRound_scenes (round_scenesSound (scenesSound_of_quiet h (beforeRequests_quiet s)))
  rw [show afterRound (round (beforeRequests s)) = frameEvents s from rfl] at events later
  obtain ⟨ftu, -, -, -, scu, -⟩ := becomeReady_keeps (nextFrame (transmit (frameEvents s)))
  unfold tick
  generalize frameEvents s = t at *
  obtain ⟨fits, turn⟩ := (scenesSound_iff t).1 events
  rw [scenesSound_iff, scu, ftu]
  exact ⟨fits, inTurn_nextFrame turn later⟩

theorem completeLoad_scenesSound (r : EepromRead) {s : State} (h : s.scenesSound) : (completeLoad r s).scenesSound := by
  unfold completeLoad
  split
  · next kind _ =>
    cases kind with
    | powerOn => exact scenesSound_of_same h (evaluateList_frame_rate _ _ _ _).1 rfl
    | restart => exact scenesSound_of_same h rfl rfl
  · exact h

theorem completeSave_scenesSound (x : SaveEnd) {s : State} (h : s.scenesSound) : (completeSave x s).scenesSound := by
  unfold completeSave
  split
  · exact h
  · exact scenesSound_of_same h (by rw [notifyIf_ftu]) (notifyIf_scu _ _ _ _)

/-! ### Every command -/

theorem next_scenesSound {s t : State} (h : s.scenesSound)
    (e : (Host.Outcome.next s : Host.Outcome State Fault Refusal) = .next t) : t.scenesSound := by
  cases e
  exact h

theorem exec_scenesSound (c : Instr) {s t : State} (h : s.scenesSound) (e : exec c s = .next t) : t.scenesSound := by
  have quiet {u : State} (a : s.quiet u) : u.scenesSound := scenesSound_of_quiet h a
  have opened := quiet (openFrame_quiet s)
  cases req : c.request with
  | some r =>
    obtain ⟨f, tag, kind, ps⟩ := r
    rw [exec_request req] at e
    exact next_scenesSound (submit_scenesSound f _ h) e
  | none =>
    cases c with
    | reset => exact next_scenesSound (powerOn_scenesSound s) e
    | frameTick => exact next_scenesSound (tick_scenesSound h) e
    | converterFrame g x => exact next_scenesSound (quiet (converterOutcome_quiet g _ s)) e
    | upstreamFrame p x late => exact next_scenesSound (portOutcome_scenesSound _ _ late (judgeUpstream x) h) e
    | wordclockPresent => exact next_scenesSound (wordclockPresent_scenesSound h) e
    | wordclockAbsent => exact next_scenesSound (wordclockAbsent_scenesSound h) e
    | revertTimerExpiry => exact next_scenesSound (revertTimer_scenesSound h) e
    | holdoverTimerExpiry => exact next_scenesSound (holdoverTimer_scenesSound h) e
    | busSendOpportunity b =>
      exact next_scenesSound (scenesSound_of_same opened (by rw [busOpportunity_ftu]) (busOpportunity_scu b _)) e
    | effectiveEvent i => exact next_scenesSound (quiet (effective_quiet i s)) e
    | settleMuteEnd i => exact next_scenesSound (quiet (settleEnd_quiet i s)) e
    | sceneExecution => exact next_scenesSound (sceneDue_scenesSound opened) e
    | meterPeriodEnd f => exact next_scenesSound (scenesSound_of_quiet opened (periodEnd_quiet f _)) e
    | pendingMapInForce f => exact next_scenesSound (quiet (mapInForce_quiet f s)) e
    | pendingLawInEffect => exact next_scenesSound (quiet (lawInEffect_quiet s)) e
    | loadComplete x => exact next_scenesSound (completeLoad_scenesSound x h) e
    | saveComplete x => exact next_scenesSound (completeSave_scenesSound x h) e
    | _ => cases req

/-- Settles O58: a step takes the command at the front of the queue, and every command keeps the condition. -/
theorem scenesStaySound : Obligations.ScenesStaySound := by
  intro s t h e
  unfold step at e
  split at e
  · cases e
    exact h
  · next c rest _ => exact exec_scenesSound c (s := { s with pending := rest }) h e

end Sys2Proof.Machine
end

section
/-! PROOFS. SCENE_EXECUTION, SCN_OPEN, SCN_ADD, SCN_CANCEL and SCN_COMMIT (R109 to R120). -/

namespace Sys2Proof.Machine

theorem setOpenScene_eq (f : Feed) (x : Option (List SceneEntry)) (u : State) :
    setOpenScene f x u =
      { u with scu := { u.scu with opened := tab fun g => if g = f then x else u.openScene g } } := by
  rw [setOpenScene, put_eq_tab]
  rfl

/-- The inputs that have no entry of a kind, entry by entry. -/
theorem freshInputs_eq (k : Nat) (is : List Input) (scene : List SceneEntry) :
    freshInputs k is scene = is.filter fun i => scene.all fun e => !decide (e.input = i ∧ e.value.kind = k) := by
  refine List.filter_congr fun i _ => ?_
  rw [Bool.eq_iff_iff, decide_eq_true_iff, List.all_eq_true, sceneKeys, List.mem_map, not_exists]
  refine forall_congr' fun e => ?_
  rw [not_and, Bool.not_eq_true', decide_eq_false_iff_not, SceneEntry.key, Prod.mk.injEq]

/-! ### Values of SCN_ADD -/

/-- The fields of a head-amp entry, its code limited (R111, R112). -/
theorem parseEntryValue_headAmp {fields : List Byte} {code : Option Byte} {pad phantom : Option Bool}
    (parses : parseHeadAmp fields = some (code.map (·.toNat), pad, phantom)) :
    parseEntryValue 0 fields =
      some (.headAmp (code.map fun n => Fin.ofNat 64 (min n.toNat 63)) pad phantom, codeClamped (code.map (·.toNat))) := by
  have codes : (code.map (·.toNat)).map codeOf = code.map fun n => Fin.ofNat 64 (min n.toNat 63) := by
    rw [Option.map_map]
    exact congrArg (Option.map · code) (funext fun n => codeOf_eq n.toNat)
  show (parseHeadAmp fields).map _ = _
  rw [parses, Option.map_some, codes]

theorem parseEntryValue_mute (on : Bool) : parseEntryValue 2 [if on then 1 else 0] = some (.mute on, false) := by
  show (parseBit _).map _ = _
  rw [parseBit_bit, Option.map_some]

/-! ### SCN_OPEN and SCN_CANCEL -/

section
variable {f : Feed} {u : State} (ready : u.sil.load = .ready)
include ready

theorem scnOpen_executes :
    executeKind f [] .scnOpen u =
      if u.openScene f = none then (setOpenScene f (some []) u, [0]) else (u, [8]) := by
  have parses : parseNone [] = some () := rfl
  show reqScnOpen f [] u = _
  rw [reqScnOpen, runRequest_ready ready rfl parses]
  cases u.openScene f <;> rfl

/-- SCN_CANCEL of the open scene (R120). -/
theorem scnCancel_open :
    executeKind f [0] .scnCancel u = if u.openScene f = none then (u, [8]) else (setOpenScene f none u, [0]) := by
  have parses : parseCancel [0] = some none := rfl
  show reqScnCancel f [0] u = _
  rw [reqScnCancel, runRequest_ready ready rfl parses]
  cases u.openScene f <;> rfl

/-- SCN_CANCEL of a scheduled scene (R120). -/
theorem scnCancel_scheduled (id : Byte) :
    executeKind f [1, id] .scnCancel u =
      if u.scu.scheduled.any (Scheduled.isOwn f id) = true then
        ({ u with scu := { u.scu with scheduled := u.scu.scheduled.filter fun x => !x.isOwn f id } }, [0])
      else (u, [8]) := by
  have parses : parseCancel [1, id] = some (some id) := rfl
  show reqScnCancel f [1, id] u = _
  rw [reqScnCancel, runRequest_ready ready rfl parses]
  dsimp only
  split <;> rfl

/-! ### SCN_ADD -/

section
variable {ps : List Byte} {p : SceneAddParams} (parses : parseScnAdd ps = some p)
  (supervises : p.set.inputForm = true → f = u.cle.supervisor)
include parses supervises

/-- SCN_ADD without an open scene (R111). -/
theorem scnAdd_closed (closed : u.openScene f = none) : executeKind f ps .scnAdd u = (u, [8]) := by
  show reqScnAdd f ps u = _
  rw [reqScnAdd, parses, runRequest_passes _ p (·.set.inputForm) _ _ _ (.inl (loading_of_ready ready))
    (fun h => absurd h (by decide)) supervises, closed]
  rfl

/-- SCN_ADD to an open scene (R112). -/
theorem scnAdd_executes {scene : List SceneEntry} {is : List Input} (isOpen : u.openScene f = some scene)
    (resolves : u.resolve f p.set noCheck = .ok is) :
    executeKind f ps .scnAdd u =
      if 24 < scene.length + (freshInputs p.value.kind is scene).length then (u, [9])
      else (setOpenScene f (some (withEntries p.value is scene)) u,
        [(okOrClamped p.clamped).byte, byte (scene.length + (freshInputs p.value.kind is scene).length),
          byte (freshInputs p.value.kind is scene).length,
          byte (is.length - (freshInputs p.value.kind is scene).length)]) := by
  have distinct := (resolve_sound _ _ _ _ _ resolves).1
  show reqScnAdd f ps u = _
  rw [reqScnAdd, parses, runRequest_passes _ p (·.set.inputForm) _ _ _ (.inl (loading_of_ready ready))
    (fun h => absurd h (by decide)) supervises, isOpen]
  dsimp only
  rw [onInputs_ok _ _ _ _ _ _ resolves, countP_fresh, foldl_placeEntry p.value distinct, List.length_map]
  rfl

end

/-! ### SCN_COMMIT -/

/-- SCN_COMMIT without an open scene, or with an empty one (R115). -/
theorem scnCommit_refused {ps : List Byte} {mode : Option FrameNo} (parses : parseCommit ps = some mode)
    (empty : u.openScene f = none ∨ u.openScene f = some []) : executeKind f ps .scnCommit u = (u, [8]) := by
  show reqScnCommit f ps u = _
  rw [reqScnCommit, runRequest_ready ready rfl parses]
  rcases empty with none | nil
  · rw [none]
    rfl
  · rw [nil]
    rfl

/-- SCN_COMMIT of an open scene with entries (R115). -/
theorem scnCommit_runs {ps : List Byte} {mode : Option FrameNo} {scene : List SceneEntry}
    (parses : parseCommit ps = some mode) (isOpen : u.openScene f = some scene) (entries : scene ≠ []) :
    executeKind f ps .scnCommit u =
      match mode with
      | none => executeScene f scene u
      | some x =>
        if lead x u.ftu.frame ≤ 0 then executeScene f scene u
        else if 16777215 < lead x u.ftu.frame then (u, [7])
        else if 4 ≤ u.scu.scheduled.length then (u, [9])
        else scheduleScene f x scene u := by
  show reqScnCommit f ps u = _
  rw [reqScnCommit, runRequest_ready ready rfl parses, isOpen]
  cases scene with
  | nil => exact absurd rfl entries
  | cons e es => cases mode <;> rfl

end

theorem toNat_append4 (a b c d : Byte) :
    (a ++ b ++ c ++ d).toNat = 16777216 * a.toNat + 65536 * b.toNat + 256 * c.toNat + d.toNat := by
  have join {w : Nat} (x : BitVec w) (y : Byte) : (x ++ y).toNat = 256 * x.toNat + y.toNat := by
    rw [BitVec.toNat_append, ← Nat.shiftLeft_add_eq_or_of_lt y.isLt, Nat.shiftLeft_eq, Nat.mul_comm]
  rw [join, join, join]
  omega

/-- A frame number sent as four bytes is those bytes again (R115). -/
theorem beFrame_append (a b c d : Byte) : beFrame (a ++ b ++ c ++ d) = [a, b, c, d] := by
  have eq := toNat_append4 a b c d
  have place (x : Byte) (k : Nat) (h : (a ++ b ++ c ++ d).toNat / 2 ^ k % 256 = x.toNat) :
      BitVec.ofNat 8 ((a ++ b ++ c ++ d).toNat >>> k) = x := by
    apply BitVec.eq_of_toNat_eq
    rw [BitVec.toNat_ofNat, Nat.shiftRight_eq_div_pow]
    exact h
  rw [eq] at place
  simp only [beFrame, be, eq]
  rw [place a _ (by omega), place b _ (by omega), place c _ (by omega), place d _ (by omega)]


/-- A commit that schedules (R113, R114). -/
theorem scheduleScene_eq {f : Feed} {x : FrameNo} {scene : List SceneEntry} {u : State} {id : Byte}
    (first : freeSceneId u.scu.scheduled 5 u.scu.nextId = id) :
    scheduleScene f x scene u =
      ({ u with scu :=
        { opened := tab fun g => if g = f then none else u.openScene g
          scheduled := u.scu.scheduled.takeWhile (fun y => decide (0 ≤ lead x y.frame)) ++
            { id := id, feed := f, frame := x, entries := scene } ::
              u.scu.scheduled.dropWhile fun y => decide (0 ≤ lead x y.frame)
          nextId := BitVec.ofNat 8 (id.toNat % 255 + 1) } }, 0 :: id :: beFrame x) := by
  rw [scheduleScene, first, insertScene_eq, put_eq_tab, nextSceneId_eq]
  rfl

/-! ### The statements -/

/-- Settles O23: the list's first scene is due or not, and a notice of one feed is what it is told. -/
theorem sceneExecutionRunsFirstDue : Obligations.SceneExecutionRunsFirstDue := by
  intro s u
  have event : exec .sceneExecution s = .next (sceneDue u) := rfl
  clear_value u
  rw [event, sceneDue]
  cases u.scu.scheduled with
  | nil => rfl
  | cons x rest =>
    dsimp only
    by_cases later : lead u.ftu.frame x.frame < 0
    · rw [if_pos later, if_neg (by rw [due_iff]; omega)]
    · rw [if_neg later, if_pos ((due_iff _ _).2 (by omega)), runScheduled, notifyIf_told]
      rfl

/-- Settles O48: five ids in turn hold a free one while a place in the list is free. -/
theorem sceneCommit : Obligations.SceneCommit := by
  intro s f tag serves u ready used opened
  have answers {ps bytes : List Byte} {v : State} (executes : executeKind f ps .scnCommit u = (v, bytes)) :
      exec (.scnCommit f tag ps) s = .next (answered f tag 0x2A bytes v) := exec_answers (k := .scnCommit) rfl serves executes
  -- From here on nothing evaluates the frame step that `u` stands for.
  clear_value u
  have now : parseCommit [0] = some none := rfl
  have later (a b c d : Byte) : parseCommit [1, a, b, c, d] = some (some (a ++ b ++ c ++ d)) := rfl
  refine ⟨fun empty => ⟨answers (scnCommit_refused ready now empty), fun a b c d =>
    answers (scnCommit_refused ready (later a b c d) empty)⟩, fun scene isOpen entries => ?_⟩
  intro r executed
  have executes : executeScene f scene u =
      (r.1, [0, 0, byte r.2.applied, byte r.2.skipped, byte r.2.first]) := by
    rw [executeScene, setOpenScene_eq]
    rfl
  refine ⟨answers ((scnCommit_runs ready now isOpen entries).trans executes), fun a b c d => ?_⟩
  intro x waiting id
  have runs := scnCommit_runs ready (later a b c d) isOpen entries
  dsimp only at runs
  by_cases past : lead x u.ftu.frame ≤ 0
  · rw [if_pos past] at runs ⊢
    exact answers (runs.trans executes)
  · rw [if_neg past] at runs ⊢
    by_cases far : 16777215 < lead x u.ftu.frame
    · rw [if_pos far] at runs ⊢
      exact answers runs
    · rw [if_neg far] at runs ⊢
      by_cases full : 4 ≤ waiting.length
      · rw [if_pos full] at runs ⊢
        exact answers runs
      · rw [if_neg full] at runs ⊢
        have first : freeSceneId waiting 5 u.scu.nextId = id := by
          have found := freeSceneId_found used (waiting := waiting) (by omega)
          rw [← List.range_eq_range'] at found
          exact (congrArg (Option.getD · 0) found).symm
        rw [scheduleScene_eq first, beFrame_append] at runs
        exact answers runs

/-- Settles O47: entries placed one after another are the entries of their keys revalued, and the others joined at the end. -/
theorem sceneEditing : Obligations.SceneEditing := by
  intro s f tag serves u ready opened adds
  have answers {c : Instr} {k : ReqKind} {ps bytes : List Byte} {v : State}
      (request : c.request = some (f, tag, k.code, ps)) (executes : executeKind f ps k u = (v, bytes)) :
      exec c s = .next (answered f tag k.code bytes v) := exec_answers request serves executes
  have answersIf {c : Instr} {k : ReqKind} {ps a b : List Byte} {v w : State} {q : Prop} [Decidable q]
      (request : c.request = some (f, tag, k.code, ps)) (executes : executeKind f ps k u = if q then (v, a) else (w, b)) :
      exec c s = .next (if q then answered f tag k.code a v else answered f tag k.code b w) :=
    exec_answers_ite request serves executes
  -- From here on nothing evaluates the frame step that `u` stands for.
  clear_value u
  have isOpened (x : Option (List SceneEntry)) : setOpenScene f x u = opened x := setOpenScene_eq f x u
  have adding {kind : Byte} {fields : List Byte} {value : EntryValue} {limited : Prop} {clamped : Bool}
      (named : value.kind = kind.toNat) (values : parseEntryValue kind fields = some (value, clamped))
      (limits : limited ↔ clamped = true) : adds kind fields value limited := by
    intro ps set setParses supervises
    have parses : parseScnAdd (kind :: ps) = some { set := set, value := value, clamped := clamped } := by
      simp only [parseScnAdd, setParses, values, Option.map_some]
    refine ⟨fun closed => answers (k := .scnAdd) rfl (scnAdd_closed ready parses supervises closed), ?_⟩
    intro scene is isOpen resolves fresh result
    have executes := scnAdd_executes ready parses supervises isOpen resolves
    have isFresh : freshInputs value.kind is scene = fresh := named ▸ freshInputs_eq _ _ _
    have isResult : withEntries value is scene = result := by
      rw [withEntries, isFresh, revalued, named]
    rw [isFresh, isResult, isOpened] at executes
    refine ⟨fun crowded => ?_, fun room => ⟨(okOrClamped clamped).byte, fun limit => ?_, fun free => ?_, ?_⟩⟩
    · rw [if_pos crowded] at executes
      exact answers (k := .scnAdd) rfl executes
    · rw [limits.1 limit]
      rfl
    · rw [okOrClamped_byte, if_neg (mt limits.2 free)]
    · rw [if_neg (Nat.not_lt.2 room)] at executes
      exact answers (k := .scnAdd) rfl executes
  refine ⟨?_, fun code pad phantom present => ?_, fun hi lo => ?_, fun on => ?_, ?_, fun id => ?_⟩
  · rw [← isOpened]
    exact answersIf (k := .scnOpen) rfl (scnOpen_executes ready)
  · have fields := parseHeadAmp_of_fields code pad phantom present
    exact adding rfl (parseEntryValue_headAmp fields) (by cases code <;> simp [codeClamped])
  · exact adding rfl rfl (by rw [clampTrim_limit, decide_eq_true_iff]; rfl)
  · exact adding rfl (parseEntryValue_mute on) (by simp)
  · rw [← isOpened]
    exact answersIf (k := .scnCancel) rfl (scnCancel_open ready)
  · exact answersIf (k := .scnCancel) rfl (scnCancel_scheduled ready id)

end Sys2Proof.Machine
end

section
/-! PROOFS. The record of a feed (R129, R131, R134): what it is for one feed to be sound, and that every change of the part
but an outcome of its ports leaves it so. -/

-- The whole text is elaborated under a memory limit, which many threads at once would pass.
set_option Elab.async false

namespace Sys2Proof.Machine

/-! ### The condition -/

/-- Nothing of feed `f`'s conversation is left: its lane is empty, and it has no open scene and no subscription (R134). -/
def State.idle (s : State) (f : Feed) : Prop :=
  s.lane f = Lane.reset ∧ s.openScene f = none ∧ s.lmu.subscriptions[f] = none

/-- The condition on feeds, for one of them (R129, R131, R134). -/
structure State.feedSound (s : State) (f : Feed) : Prop where
  runs : ∀ r, (s.linkAt f r).state.sound
  up : ∀ r, s.lnk.feeds[f].control = some r → (s.linkAt f r).state.isUp = true
  down : s.lnk.feeds[f].control = none → ∀ r, (s.linkAt f r).state.isUp = false
  idle : s.lnk.feeds[f].control = none → s.idle f

theorem feedsSound_iff (s : State) : s.feedsSound ↔ ∀ f, s.feedSound f := by
  constructor
  · rintro ⟨runs, records⟩ f
    have record := records f
    cases control : s.lnk.feeds[f].control with
    | none =>
      rw [control] at record
      obtain ⟨main, reserve, idle⟩ := record
      exact
        { runs := fun r => runs (portOf f r)
          up := fun r e => nomatch control.symm.trans e
          down := fun _ r => by cases r <;> assumption
          idle := fun _ => idle }
    | some c =>
      rw [control] at record
      exact
        { runs := fun r => runs (portOf f r)
          up := fun r e => Option.some.inj (control.symm.trans e) ▸ record
          down := fun e => nomatch control.symm.trans e
          idle := fun e => nomatch control.symm.trans e }
  · intro each
    refine ⟨fun p => linkAt_feedOf p s ▸ (each (feedOf p)).runs (roleOf p), fun f => ?_⟩
    split
    · next r control => exact (each f).up r control
    · next control => exact ⟨(each f).down control .main, (each f).down control .reserve, (each f).idle control⟩

/-- The ports and the control port of feed `f` are the same in two states, and an OFFLINE feed `f` stays without
conversation. -/
structure State.keepsFeed (f : Feed) (s t : State) : Prop where
  state : ∀ r, (t.linkAt f r).state = (s.linkAt f r).state := by intros; rfl
  control : t.lnk.feeds[f].control = s.lnk.feeds[f].control := by rfl
  idle : s.lnk.feeds[f].control = none → s.idle f → t.idle f := by exact fun _ h => h

section
variable {f : Feed} {s t u : State}

theorem keepsFeed_sound (kept : s.keepsFeed f t) (h : s.feedSound f) : t.feedSound f where
  runs r := kept.state r ▸ h.runs r
  up r e := kept.state r ▸ h.up r (kept.control.symm.trans e)
  down e r := kept.state r ▸ h.down (kept.control.symm.trans e) r
  idle e := kept.idle (kept.control.symm.trans e) (h.idle (kept.control.symm.trans e))

theorem keepsFeed_refl (f : Feed) (s : State) : s.keepsFeed f s := {}

theorem keepsFeed_trans (a : s.keepsFeed f t) (b : t.keepsFeed f u) : s.keepsFeed f u where
  state r := (b.state r).trans (a.state r)
  control := b.control.trans a.control
  idle off h := b.idle (a.control.trans off) (a.idle off h)

theorem foldl_keepsFeed {α : Type} (step : State → α → State) (h : ∀ (s : State) (a : α), s.keepsFeed f (step s a))
    (l : List α) (s : State) : s.keepsFeed f (l.foldl step s) :=
  List.foldlRecOn l step (keepsFeed_refl f s) fun t reached a _ => keepsFeed_trans reached (h t a)

/-! ### Notices, taps and channels -/

/-- An OFFLINE feed is handed nothing (R149). -/
theorem told_keepsFeed (nts : Feed → List Notice) (s : State) : s.keepsFeed f (told nts s) where
  control := by rw [told_feed]
  idle off h := by
    obtain ⟨lane, rest⟩ := h
    refine ⟨?_, rest⟩
    rw [told_lane, State.online, off]
    exact lane

theorem notifyIf_keepsFeed (b : Bool) (g : Feed) (nt : Notice) (s : State) : s.keepsFeed f (notifyIf b g nt s) :=
  notifyIf_told b g nt s ▸ told_keepsFeed _ s

theorem notifyWhere_keepsFeed (p : Feed → Bool) (nt : Notice) (s : State) : s.keepsFeed f (notifyWhere p nt s) :=
  notifyWhere_told p nt s ▸ told_keepsFeed _ s

theorem clockEvent_keepsFeed (g : Ftu → Ftu) (s : State) : s.keepsFeed f (clockEvent g s) :=
  keepsFeed_trans (t := { s with ftu := g s.ftu }) {} (notifyWhere_keepsFeed _ _ _)

theorem changeTap_keepsFeed (g : Feed) (i : Input) (h : Tap → Tap) (s : State) : s.keepsFeed f (changeTap g i h s) :=
  changeTap_told g i h s ▸ keepsFeed_trans {} (told_keepsFeed _ _)

theorem changeTaps_keepsFeed (g : Feed) (h : Int → Tap → Tap) (is : List Input) (s : State) :
    s.keepsFeed f (changeTaps g h is s) :=
  foldl_keepsFeed _ (fun _ _ => changeTap_keepsFeed _ _ _ _) is s

/-- A change of the four taps of an input. -/
theorem changeInput_keepsFeed (i : Input) (g : Feed → Tap → Tap) (s : State) :
    s.keepsFeed f (changeTap 3 i (g 3) (changeTap 2 i (g 2) (changeTap 1 i (g 1) (changeTap 0 i (g 0) s)))) :=
  keepsFeed_trans (changeTap_keepsFeed 0 i _ s) (keepsFeed_trans (changeTap_keepsFeed 1 i _ _)
    (keepsFeed_trans (changeTap_keepsFeed 2 i _ _) (changeTap_keepsFeed 3 i _ _)))

theorem setOwner_keepsFeed (new : Option Feed) (cause : OwnerCause) (i : Input) (s : State) :
    s.keepsFeed f (setOwner new cause i s) := by
  unfold setOwner
  dsimp only
  split
  · exact {}
  · exact keepsFeed_trans (t := { s with hac := _ }) {} (notifyWhere_keepsFeed _ _ _)

theorem claimSeen_keepsFeed (g : Feed) (s : State) (i : Input) : s.keepsFeed f (claimSeen g s i) := by
  unfold claimSeen
  split
  · exact notifyIf_keepsFeed _ _ _ _
  · exact {}

theorem regain_keepsFeed (i : Input) (s : State) : s.keepsFeed f (regain i s) :=
  keepsFeed_trans (t := { s with hac := _ }) {}
    (changeInput_keepsFeed i (fun g => Tap.rebase s.ftu.frame g i _ _) _)

theorem applyPlaw_keepsFeed (s : State) : s.keepsFeed f (applyPlaw s) := by
  unfold applyPlaw
  exact keepsFeed_trans (t := { s with hac := { s.hac with plt := s.hac.staging, marks := noMarks } }) {}
    (keepsFeed_trans (foldl_keepsFeed _ (fun t i => regain_keepsFeed i t) inputs _) (notifyWhere_keepsFeed _ _ _))

theorem effective_keepsFeed (i : Input) (s : State) : s.keepsFeed f (effective i s) := by
  rcases effective_eq i s with same | ⟨v, event⟩
  · rw [same]
    exact {}
  · rw [event]
    exact keepsFeed_trans (t := { s with hac := _ }) {}
      (keepsFeed_trans (changeInput_keepsFeed i (fun _ => Tap.jump _ _) _) (notifyWhere_keepsFeed _ _ _))

/-! ### The frame up to its requests -/

theorem converterOutcome_keepsFeed (g : Group) (x : Option (List Sample)) (s : State) :
    s.keepsFeed f (converterOutcome g x s) := by
  unfold converterOutcome
  exact keepsFeed_trans (t := { s with cvp := _ }) {} (notifyWhere_keepsFeed _ _ _)

theorem missingConverter_keepsFeed (g : Group) (s : State) : s.keepsFeed f (missingConverter g s) := by
  unfold missingConverter
  split
  · exact {}
  · exact converterOutcome_keepsFeed g none s

theorem beforeStep_keepsFeed (s : State) : s.keepsFeed f (beforeStep s) :=
  keepsFeed_trans (t := lawInEffect (mapsInForce (settleEnds s))) {}
    (keepsFeed_trans (foldl_keepsFeed _ (fun t g => missingConverter_keepsFeed g t) (List.finRange 6) _)
      (foldl_keepsFeed _ (fun t i => effective_keepsFeed i t) inputs _))

/-- A change of the subscriptions that gives an OFFLINE feed `f` none. -/
theorem withSubscriptions_keepsFeed (s : State) (x : Vector (Option Subscription) 4)
    (same : s.lnk.feeds[f].control = none → s.lmu.subscriptions[f] = none → x[f] = none) :
    s.keepsFeed f (s.withSubscriptions x) where
  idle off := fun ⟨lane, scene, without⟩ => ⟨lane, scene, same off without⟩

/-- The samples of a frame start no subscription (R154). -/
theorem takeSamples_keepsFeed (s : State) : s.keepsFeed f (takeSamples s) := by
  rw [takeSamples_told]
  refine keepsFeed_trans (withSubscriptions_keepsFeed s s.sampledSubscriptions fun _ without => ?_)
    (keepsFeed_trans ?_ (told_keepsFeed _ _))
  · rw [State.sampledSubscriptions, mapAll_eq_tab, tab_at, without]
    rfl
  · exact {}

theorem stepTaps_keepsFeed (s : State) : s.keepsFeed f (stepTaps s) := {}

theorem opened_keepsFeed (s : State) : s.keepsFeed f s.opened := {}

theorem openFrame_keepsFeed (s : State) : s.keepsFeed f (openFrame s) := by
  cases stepped : s.stepped with
  | true =>
    rw [openFrame_of_stepped stepped]
    exact {}
  | false =>
    rw [openFrame_eq s stepped]
    exact keepsFeed_trans (beforeStep_keepsFeed s) (keepsFeed_trans (stepTaps_keepsFeed _)
      (keepsFeed_trans (takeSamples_keepsFeed _) (opened_keepsFeed _)))

theorem meterBlock_keepsFeed (g : Feed) (ps : List (Input × Nat)) (s : State) : s.keepsFeed f (meterBlock g ps s) := by
  unfold meterBlock
  split
  · exact {}
  · exact notifyIf_keepsFeed _ _ _ _

/-- A period end starts no subscription of another feed, and its own feed has one (R154). -/
theorem periodEnd_keepsFeed (g : Feed) (s : State) : s.keepsFeed f (periodEnd g s) := by
  unfold periodEnd
  split
  · next u sub =>
    split
    · unfold meterBlocks
      refine keepsFeed_trans
        (withSubscriptions_keepsFeed s (put s.lmu.subscriptions g (some u.restart)) fun _ without => ?_)
        (keepsFeed_trans (meterBlock_keepsFeed _ _ _)
          (keepsFeed_trans (meterBlock_keepsFeed _ _ _) (meterBlock_keepsFeed _ _ _)))
      have other : f ≠ g := by
        rintro rfl
        exact nomatch sub.symm.trans without
      rw [put_eq_tab, tab_at, if_neg other, without]
    · exact {}
  · exact {}

theorem beforeRequests_keepsFeed (s : State) : s.keepsFeed f (beforeRequests s) :=
  keepsFeed_trans (openFrame_keepsFeed s) (keepsFeed_trans (periodEnd_keepsFeed 0 _)
    (keepsFeed_trans (periodEnd_keepsFeed 1 _) (keepsFeed_trans (periodEnd_keepsFeed 2 _) (periodEnd_keepsFeed 3 _))))

/-! ### Scenes, timers and send opportunities -/

theorem act_keepsFeed (g : Feed) (e : SceneEntry) (s : State) : s.keepsFeed f (e.act g s) := by
  unfold SceneEntry.act
  split
  · exact {}
  · exact changeTap_keepsFeed _ _ _ _
  · exact changeTap_keepsFeed _ _ _ _

theorem runEntries_keepsFeed (g : Feed) (es : List SceneEntry) :
    ∀ (k : Nat) (s : State) (r : SceneResult), s.keepsFeed f (runEntries g k es s r).1 := by
  induction es with
  | nil => exact fun _ s _ => keepsFeed_refl f s
  | cons e es ih =>
    intro k s r
    unfold runEntries
    split
    · exact keepsFeed_trans (act_keepsFeed g e s) (ih _ _ _)
    · exact ih _ _ _

theorem sceneDue_keepsFeed (s : State) : s.keepsFeed f (sceneDue s) := by
  unfold sceneDue
  split
  · exact {}
  · split
    · exact keepsFeed_trans (t := { s with scu := _ }) {}
        (keepsFeed_trans (runEntries_keepsFeed _ _ 0 _ _) (notifyIf_keepsFeed _ _ _ _))
    · exact {}

theorem scenesDue_keepsFeed (s : State) : s.keepsFeed f (scenesDue s) :=
  keepsFeed_trans (sceneDue_keepsFeed s) (keepsFeed_trans (sceneDue_keepsFeed _)
    (keepsFeed_trans (sceneDue_keepsFeed _) (sceneDue_keepsFeed _)))

theorem wordclockPresent_keepsFeed (s : State) : s.keepsFeed f (wordclockPresent s) := by
  unfold wordclockPresent
  split
  · exact {}
  · exact keepsFeed_trans (t := { s with ftu := _ }) {} (clockEvent_keepsFeed _ _)

theorem wordclockAbsent_keepsFeed (s : State) : s.keepsFeed f (wordclockAbsent s) := by
  unfold wordclockAbsent
  split
  · exact keepsFeed_trans (t := { s with ftu := _ }) {} (clockEvent_keepsFeed _ _)
  · exact {}

theorem busOpportunity_keepsFeed (b : Group) (s : State) : s.keepsFeed f (busOpportunity b s) := {}

/-! ### The end of the frame, loads and saves -/

/-- A read that a change of every entry leaves alone is the same at every entry. -/
theorem mapAll_read {α β : Type} {n : Nat} (v : Vector α n) (g : Fin n → α → α) (p : α → β) (h : ∀ i x, p (g i x) = p x)
    (i : Fin n) : p (mapAll g v)[i] = p v[i] := by
  rw [mapAll_eq_tab, tab_at]
  exact h i v[i]

/-- No request of an empty lane waits for the end of the round. -/
theorem lateArrivals_keepsFeed (s : State) : s.keepsFeed f (lateArrivals s) where
  idle _ := fun ⟨lane, rest⟩ => ⟨by
    show (mapAll (fun _ l => l.arriveLate) s.cle.lanes)[f] = Lane.reset
    rw [mapAll_eq_tab, tab_at, show s.cle.lanes[f] = Lane.reset from lane]
    rfl, rest⟩

/-- An empty lane has nothing to send (R148). -/
theorem transmit_keepsFeed (s : State) : s.keepsFeed f (transmit s) where
  state r := mapAll_read s.lnk.ports _ LinkPort.state (by intros; rfl) (portOf f r)
  idle _ := fun ⟨lane, rest⟩ => ⟨by
    show (mapAll (fun _ l => l.advance) s.cle.lanes)[f] = Lane.reset
    rw [mapAll_eq_tab, tab_at, show s.cle.lanes[f] = Lane.reset from lane]
    rfl, rest⟩

theorem nextFrame_keepsFeed (s : State) : s.keepsFeed f (nextFrame s) where
  state r := mapAll_read s.lnk.ports _ LinkPort.state (by intros; rfl) (portOf f r)
  control := mapAll_read s.lnk.feeds _ FeedRecord.control (by intros; rfl) f

theorem becomeReady_keepsFeed (s : State) : s.keepsFeed f (becomeReady s) := by
  unfold becomeReady
  split <;> exact {}

theorem completeLoad_keepsFeed (r : EepromRead) (s : State) : s.keepsFeed f (completeLoad r s) := by
  unfold completeLoad
  split
  · next kind _ => cases kind <;> exact {}
  · exact {}

theorem completeSave_keepsFeed (x : SaveEnd) (s : State) : s.keepsFeed f (completeSave x s) := by
  unfold completeSave
  split
  · exact {}
  · exact keepsFeed_trans (t := { s with sil := _ }) {} (notifyIf_keepsFeed _ _ _ _)

/-- After reset every feed is OFFLINE with its ports DOWN (R137). -/
theorem powerOn_feedSound (s : State) (f : Feed) : (powerOn s).feedSound f := by
  have port (r : Role) : (powerOn s).linkAt f r = LinkPort.reset := tab_at _ _
  have feed : (powerOn s).lnk.feeds[f] = FeedRecord.reset := tab_at _ _
  exact
    { runs := fun r => by rw [port]; trivial
      up := fun r e => by rw [feed] at e; cases e
      down := fun _ r => by rw [port]; rfl
      idle := fun _ => ⟨tab_at _ _, tab_at _ _, tab_at _ _⟩ }

end

end Sys2Proof.Machine
end

section
/-! PROOFS. Every step keeps each ONLINE feed's control port UP, and an OFFLINE feed without conversation (R129 to R134). -/

-- The whole text is elaborated under a memory limit, which many threads at once would pass.
set_option Elab.async false

namespace Sys2Proof.Machine

/-! ### The outcomes of a feed's ports -/

theorem step_sound {x : LinkState} (h : x.sound) (good : Bool) : (x.step good).sound := by
  cases x with
  | down =>
    cases good with
    | true => exact ⟨Nat.le_refl 1, by decide⟩
    | false => trivial
  | seek run =>
    obtain ⟨low, high⟩ := h
    cases good with
    | true =>
      by_cases enough : 15 ≤ run
      · rw [step_rises enough]
        exact Nat.zero_le 7
      · rw [show (LinkState.seek run).step true = .seek (run + 1) from if_neg (by omega)]
        exact ⟨by omega, by omega⟩
    | false => trivial
  | up run =>
    cases good with
    | true => exact Nat.zero_le 7
    | false =>
      by_cases enough : 7 ≤ run
      · rw [step_falls enough]
        trivial
      · rw [show (LinkState.up run).step false = .up (run + 1) from if_neg (by omega)]
        exact Nat.lt_of_not_le enough

theorem role_cases (r q : Role) : q = r ∨ q = r.other := by
  cases r <;> cases q <;> simp [Role.other]

theorem portOf_ne {f g : Feed} (ne : g ≠ f) (r q : Role) : (portOf f r).val ≠ (portOf g q).val := by
  intro e
  have feeds := congrArg feedOf (Fin.ext e)
  rw [feedOf_portOf, feedOf_portOf] at feeds
  exact ne feeds.symm

section
variable {f g : Feed} {r : Role} {x : LinkState} {s : State}

/-! An outcome of feed `f`'s port, and another feed `g`. -/

theorem setPort_keepsFeed (ne : g ≠ f) (s : State) : s.keepsFeed g (setPort f r x s) where
  state q := by
    show (upd s.lnk.ports (portOf f r) (LinkPort.taken x))[portOf g q].state = _
    rw [Fin.getElem_fin, upd_entry, if_neg (portOf_ne ne r q)]
    rfl

/-- The record, lane, open scene and subscription of feed `f` replaced. -/
theorem onFeed_keepsFeed (ne : g ≠ f) (record : FeedRecord → FeedRecord) (lane : Lane → Lane) (s : State) :
    s.keepsFeed g { s with lnk := s.lnk.onFeed f record, cle := s.cle.onLane f lane } where
  control := by
    show (upd s.lnk.feeds f record)[g].control = _
    rw [upd_eq_tab, tab_at, if_neg ne]
  idle _ := fun ⟨empty, rest⟩ => ⟨by
    show (upd s.cle.lanes f lane)[g] = _
    rw [upd_eq_tab, tab_at, if_neg ne]
    exact empty, rest⟩

theorem markOffline_keepsFeed (ne : g ≠ f) (s : State) : s.keepsFeed g (markOffline f s) where
  control := (onFeed_keepsFeed ne (fun x => { x with control := none }) Lane.tearDown s).control
  idle off := fun h => by
    obtain ⟨lane, scene, without⟩ := (onFeed_keepsFeed ne (fun x => { x with control := none }) Lane.tearDown s).idle off h
    refine ⟨lane, ?_, ?_⟩
    · show (put s.scu.opened f none)[g] = none
      rw [put_eq_tab, tab_at, if_neg ne]
      exact scene
    · show (put s.lmu.subscriptions f none)[g] = none
      rw [put_eq_tab, tab_at, if_neg ne]
      exact without

theorem goOnline_keepsFeed (ne : g ≠ f) (s : State) : s.keepsFeed g (goOnline f r s) :=
  keepsFeed_trans (onFeed_keepsFeed ne _ _ s) (clockEvent_keepsFeed _ _)

theorem goOffline_keepsFeed (ne : g ≠ f) (s : State) : s.keepsFeed g (goOffline f s) :=
  keepsFeed_trans (markOffline_keepsFeed ne s) (clockEvent_keepsFeed _ _)

theorem moveControl_keepsFeed (ne : g ≠ f) (s : State) : s.keepsFeed g (moveControl f r s) :=
  onFeed_keepsFeed ne _ _ s

theorem portUp_keepsFeed (ne : g ≠ f) (s : State) : s.keepsFeed g (portUp f r s) := by
  unfold portUp
  split
  · exact goOnline_keepsFeed ne s
  · split
    · exact moveControl_keepsFeed ne s
    · exact {}

theorem portDown_keepsFeed (ne : g ≠ f) (s : State) : s.keepsFeed g (portDown f r s) := by
  unfold portDown
  split
  · split
    · exact moveControl_keepsFeed ne s
    · exact goOffline_keepsFeed ne s
  · exact {}

theorem takeOutcome_keepsFeed (ne : g ≠ f) (good : Bool) (s : State) : s.keepsFeed g (takeOutcome f r good s) := by
  have port := setPort_keepsFeed (r := r) (x := (s.linkAt f r).state.step good) ne s
  unfold takeOutcome
  dsimp only
  split
  · exact keepsFeed_trans port (portUp_keepsFeed ne _)
  · split
    · exact keepsFeed_trans port (portDown_keepsFeed ne _)
    · exact port

/-- Bytes are delivered to the lane of an ONLINE feed alone (R130). -/
theorem deliverBytes_keepsFeed (f : Feed) (r : Role) (late som : Bool) (bytes : List Byte) (s : State) :
    s.keepsFeed g (deliverBytes f r late som bytes s) where
  idle off := fun ⟨lane, rest⟩ => ⟨by
    unfold deliverBytes State.lane
    dsimp only
    split
    · next delivers =>
      have control := of_decide_eq_true (Bool.and_eq_true_iff.1 delivers).2
      have other : g ≠ f := by
        rintro rfl
        exact nomatch off.symm.trans control
      show (upd s.cle.lanes f _)[g] = _
      rw [upd_eq_tab, tab_at, if_neg other]
      exact lane
    · exact lane, rest⟩

theorem holdPort_keepsFeed (f : Feed) (r : Role) (s : State) : s.keepsFeed g (holdPort f r s) where
  state q := upd_read s.lnk.ports (portOf f r) LinkPort.waiting LinkPort.state (fun _ => rfl) (portOf g q)

/-! The feed itself. -/

theorem setPort_runs (h : s.feedSound f) (fits : x.sound) (q : Role) : ((setPort f r x s).linkAt f q).state.sound := by
  rcases role_cases r q with rfl | rfl
  · rw [setPort_linkAt]
    exact fits
  · rw [setPort_linkAt_other]
    exact h.runs r.other

/-- An outcome that leaves its port as far UP as before. -/
theorem setPort_same (h : s.feedSound f) (fits : x.sound) (same : x.isUp = (s.linkAt f r).state.isUp) :
    (setPort f r x s).feedSound f := by
  have isUp (q : Role) : ((setPort f r x s).linkAt f q).state.isUp = (s.linkAt f q).state.isUp := by
    rcases role_cases r q with rfl | rfl
    · rw [setPort_linkAt]
      exact same
    · rw [setPort_linkAt_other]
  exact
    { runs := setPort_runs h fits
      up := fun q e => (isUp q).trans (h.up q e)
      down := fun e q => (isUp q).trans (h.down e q)
      idle := h.idle }

/-- A feed with control port `q`, which is UP. -/
theorem feedSound_online {q : Role} (runs : ∀ r, (s.linkAt f r).state.sound) (control : s.lnk.feeds[f].control = some q)
    (up : (s.linkAt f q).state.isUp = true) : s.feedSound f where
  runs := runs
  up _ e := Option.some.inj (control.symm.trans e) ▸ up
  down e := nomatch control.symm.trans e
  idle e := nomatch control.symm.trans e

theorem moveControl_feedSound {q : Role} (runs : ∀ r, (s.linkAt f r).state.sound) (up : (s.linkAt f q).state.isUp = true) :
    (moveControl f q s).feedSound f :=
  feedSound_online (q := q) runs (by rw [moveControl_feed, if_pos rfl]) up

/-- A port of a sound feed comes UP (R131). -/
theorem portUp_feedSound (h : s.feedSound f) (fits : x.sound) (before : (s.linkAt f r).state.isUp = false)
    (after : x.isUp = true) : (portUp f r (setPort f r x s)).feedSound f := by
  have runs := setPort_runs (r := r) h fits
  have up : ((setPort f r x s).linkAt f r).state.isUp = true := by rw [setPort_linkAt]; exact after
  unfold portUp
  rw [setPort_feeds]
  split
  · have same := portFree_linkAt (goOnline_portFree f r) (setPort f r x s) f
    exact feedSound_online (fun q => same q ▸ runs q) (goOnline_feed f r _).1 (same r ▸ up)
  · next c control =>
    split
    · next moves =>
      obtain ⟨rfl, -⟩ := of_decide_eq_true (Bool.and_eq_true_iff.1 moves).2
      exact moveControl_feedSound runs up
    · have held := h.up c control
      obtain rfl : c = r.other := (role_cases r c).resolve_left (by rintro rfl; exact nomatch before.symm.trans held)
      exact feedSound_online runs control (by rw [setPort_linkAt_other]; exact held)

/-- What is left of a feed that goes OFFLINE (R134). -/
theorem markOffline_feedSound (runs : ∀ r, (s.linkAt f r).state.sound) (down : ∀ r, (s.linkAt f r).state.isUp = false) :
    (markOffline f s).feedSound f := by
  have off : (markOffline f s).lnk.feeds[f].control = none := by
    show (upd s.lnk.feeds f fun x => { x with control := none })[f].control = none
    rw [upd_eq_tab, tab_at, if_pos rfl]
  refine { runs := runs
           up := fun r e => nomatch off.symm.trans e
           down := fun _ => down
           idle := fun _ => ⟨?_, ?_, ?_⟩ }
  · show (upd s.cle.lanes f Lane.tearDown)[f] = Lane.reset
    rw [upd_eq_tab, tab_at, if_pos rfl]
    rfl
  · show (put s.scu.opened f none)[f] = none
    rw [put_eq_tab, tab_at, if_pos rfl]
  · show (put s.lmu.subscriptions f none)[f] = none
    rw [put_eq_tab, tab_at, if_pos rfl]

/-- A port of a sound feed goes DOWN from UP (R132 to R134). -/
theorem portDown_feedSound (h : s.feedSound f) (fits : x.sound) (before : (s.linkAt f r).state.isUp = true)
    (after : x.isUp = false) : (portDown f r (setPort f r x s)).feedSound f := by
  have runs := setPort_runs (r := r) h fits
  have down : ((setPort f r x s).linkAt f r).state.isUp = false := by rw [setPort_linkAt]; exact after
  unfold portDown
  rw [setPort_feeds, setPort_linkAt_other]
  split
  · split
    · next up => exact moveControl_feedSound runs (by rw [setPort_linkAt_other]; exact up)
    · next low =>
      refine keepsFeed_sound (clockEvent_keepsFeed _ _) (markOffline_feedSound runs fun q => ?_)
      rcases role_cases r q with rfl | rfl
      · exact down
      · rw [setPort_linkAt_other]
        exact Bool.eq_false_iff.2 low
  · next standby =>
    cases control : s.lnk.feeds[f].control with
    | none => exact nomatch before.symm.trans (h.down control r)
    | some c =>
      obtain rfl : c = r.other := (role_cases r c).resolve_left (by rintro rfl; exact standby control)
      exact feedSound_online runs control (by rw [setPort_linkAt_other]; exact h.up _ control)

end

section
variable (f : Feed) (r : Role) {g : Feed} {s : State} (h : s.feedSound g)
include h

/-- An outcome of a port keeps every feed sound (R129 to R134). -/
theorem takeOutcome_feedSound (good : Bool) : (takeOutcome f r good s).feedSound g := by
  by_cases other : g = f
  · subst other
    have fits := step_sound (h.runs r) good
    cases before : (s.linkAt g r).state.isUp <;> cases after : ((s.linkAt g r).state.step good).isUp
    · rw [takeOutcome_same (after.trans before.symm)]
      exact setPort_same h fits (after.trans before.symm)
    · rw [takeOutcome_rises before after]
      exact portUp_feedSound h fits before after
    · rw [takeOutcome_falls before after]
      exact portDown_feedSound h fits before after
    · rw [takeOutcome_same (after.trans before.symm)]
      exact setPort_same h fits (after.trans before.symm)
  · exact keepsFeed_sound (takeOutcome_keepsFeed other good s) h

theorem takeHeld_feedSound : (takeHeld f r s).feedSound g := by
  unfold takeHeld
  split
  · exact takeOutcome_feedSound f r h false
  · exact h

theorem portOutcome_feedSound (late : Bool) (o : UpOutcome) : (portOutcome f r late o s).feedSound g := by
  unfold portOutcome
  split
  · exact takeHeld_feedSound f _
      (takeOutcome_feedSound f r (keepsFeed_sound (deliverBytes_keepsFeed f r late _ _ s) h) true)
  · split
    · exact keepsFeed_sound (holdPort_keepsFeed f r s) h
    · exact takeHeld_feedSound f _ (takeOutcome_feedSound f r h false)

end

/-! ### Requests -/

section
variable {f g : Feed} {s : State}

theorem accept_keepsFeed {t : State} {r : Result} {fields : List Byte} (h : s.keepsFeed g t) :
    s.keepsFeed g (accept r fields t).1 := h

theorem runRequest_keepsFeed {α : Type} {k : ReqKind} {parsed : Option α} {form : α → Bool} {body : α → State → Reply}
    (h : ∀ p, s.keepsFeed g (body p s).1) : s.keepsFeed g (runRequest k parsed form f body s).1 :=
  runRequest_keeps (P := s.keepsFeed g) (keepsFeed_refl g s) h

theorem onInputs_keepsFeed {set : ChannelSet} {check : State → Input → Option Result} {body : List Input → State → Reply}
    (h : ∀ is, s.keepsFeed g (body is s).1) : s.keepsFeed g (onInputs f set check body s).1 := by
  unfold onInputs
  split
  · exact {}
  · exact h _

/-- An OFFLINE feed is not the ONLINE feed `f`. -/
theorem ne_of_offline (on : s.online f = true) (off : s.lnk.feeds[g].control = none) : g ≠ f := by
  rintro rfl
  rw [State.online, off] at on
  cases on

theorem setOpenScene_keepsFeed (on : s.online f = true) (x : Option (List SceneEntry)) :
    s.keepsFeed g (setOpenScene f x s) where
  idle off := fun ⟨lane, scene, without⟩ => ⟨lane, by
    show (put s.scu.opened f x)[g] = none
    rw [put_eq_tab, tab_at, if_neg (ne_of_offline on off)]
    exact scene, without⟩

theorem setSubscription_keepsFeed (on : s.online f = true) (x : Option Subscription) :
    s.keepsFeed g (setSubscription f x s) :=
  withSubscriptions_keepsFeed s (put s.lmu.subscriptions f x) fun off without => by
    rw [put_eq_tab, tab_at, if_neg (ne_of_offline on off), without]

/-- The record of feed `f` with RESYNC cleared (R150). -/
theorem resync_keepsFeed (f : Feed) (s : State) :
    s.keepsFeed g { s with lnk := s.lnk.onFeed f fun r => { r with resync := false } } where
  control := upd_read s.lnk.feeds f (fun r => { r with resync := false }) FeedRecord.control (fun _ => rfl) g

/-- A restart leaves no lane, scene or subscription that was not there (R152, R165). -/
theorem restart_keepsFeed (s : State) : s.keepsFeed g (restart s) where
  idle _ := fun ⟨lane, _, _⟩ => by
    refine ⟨?_, tab_at _ g, tab_at _ g⟩
    show (mapAll (fun _ l => l.restart) s.cle.lanes)[g] = Lane.reset
    rw [mapAll_eq_tab, tab_at, show s.cle.lanes[g] = Lane.reset from lane]
    rfl

theorem reqScnCommit_keepsFeed (on : s.online f = true) (ps : List Byte) : s.keepsFeed g (reqScnCommit f ps s).1 := by
  have executes (es : List SceneEntry) : s.keepsFeed g (executeScene f es s).1 :=
    keepsFeed_trans (setOpenScene_keepsFeed on none) (runEntries_keepsFeed f es 0 _ _)
  refine runRequest_keepsFeed fun mode => ?_
  repeat' split
  · exact {}
  · exact {}
  · exact executes _
  · exact executes _
  · exact {}
  · exact {}
  · exact { idle := (setOpenScene_keepsFeed on none).idle }

theorem reqOwnClaim_keepsFeed (f : Feed) (ps : List Byte) (s : State) : s.keepsFeed g (reqOwnClaim f ps s).1 := by
  refine runRequest_keepsFeed fun set => ?_
  dsimp only
  split
  · unfold refuseAt
    dsimp only
    split
    · exact foldl_keepsFeed _ (fun _ _ => claimSeen_keepsFeed _ _ _) _ s
    · exact {}
  · exact accept_keepsFeed (foldl_keepsFeed _ (fun _ _ => setOwner_keepsFeed _ _ _ _) _ s)

/-- A request of an ONLINE feed (R146). -/
theorem executeKind_keepsFeed (on : s.online f = true) (ps : List Byte) (k : ReqKind) :
    s.keepsFeed g (executeKind f ps k s).1 := by
  cases k with
  | devStatus => exact runRequest_keepsFeed fun _ => accept_keepsFeed (resync_keepsFeed f s)
  | devRestart =>
    refine runRequest_keepsFeed fun _ => ?_
    split
    · exact {}
    · exact accept_keepsFeed (restart_keepsFeed s)
  | clockSet =>
    refine runRequest_keepsFeed fun _ => ?_
    dsimp only
    split
    · exact {}
    · exact accept_keepsFeed (clockEvent_keepsFeed _ s)
  | tapTrim | tapMode | tapAnchor | tapMute =>
    exact runRequest_keepsFeed fun _ => onInputs_keepsFeed fun is => accept_keepsFeed (changeTaps_keepsFeed f _ is s)
  | haSet =>
    exact runRequest_keepsFeed fun p => onInputs_keepsFeed fun is => accept_keepsFeed
      (foldl_keepsFeed (fun s i => setHeadAmp (p.code.map codeOf) p.pad p.phantom i s) (fun _ _ => {}) is s)
  | haNudge =>
    exact runRequest_keepsFeed fun p => onInputs_keepsFeed fun is => accept_keepsFeed
      (foldl_keepsFeed (fun s i => nudgeHeadAmp p.2 i s) (fun _ _ => {}) is s)
  | ownClaim => exact reqOwnClaim_keepsFeed f ps s
  | ownRelease | ownAssign =>
    exact runRequest_keepsFeed fun _ => onInputs_keepsFeed fun is => accept_keepsFeed
      (foldl_keepsFeed _ (fun _ _ => setOwner_keepsFeed _ _ _ _) is s)
  | lawApply =>
    refine runRequest_keepsFeed fun _ => ?_
    repeat' split
    · exact {}
    · exact {}
    · exact accept_keepsFeed (keepsFeed_trans (t := { s with tgu := _ }) {} (notifyWhere_keepsFeed _ _ _))
  | plawApply =>
    refine runRequest_keepsFeed fun _ => ?_
    repeat' split
    · exact {}
    · exact {}
    · exact accept_keepsFeed (applyPlaw_keepsFeed s)
  | scnOpen =>
    refine runRequest_keepsFeed fun _ => ?_
    split
    · exact {}
    · exact accept_keepsFeed (setOpenScene_keepsFeed on _)
  | scnAdd =>
    refine runRequest_keepsFeed fun p => ?_
    split
    · exact {}
    · refine onInputs_keepsFeed fun is => ?_
      dsimp only
      split
      · exact {}
      · exact accept_keepsFeed (setOpenScene_keepsFeed on _)
  | scnCommit => exact reqScnCommit_keepsFeed on ps
  | scnCancel =>
    refine runRequest_keepsFeed fun _ => ?_
    repeat' split
    · exact {}
    · exact accept_keepsFeed (setOpenScene_keepsFeed on none)
    · exact {}
    · exact {}
  | mtrSubscribe =>
    refine runRequest_keepsFeed fun p => ?_
    split
    · exact accept_keepsFeed (setSubscription_keepsFeed on none)
    · exact onInputs_keepsFeed fun _ => accept_keepsFeed (setSubscription_keepsFeed on _)
  | tapGet | haGet | clipGet | clipSet | clipAck => exact runRequest_keepsFeed fun _ => onInputs_keepsFeed fun _ => {}
  | storeSave | mapWindows | mapGet | feedGlide | lawStage | plawStage | lawGet | supervisorSet | scnList =>
    refine runRequest_keepsFeed fun _ => ?_
    repeat' split
    all_goals exact {}

theorem execute_keepsFeed (on : s.online f = true) (m : Message) : s.keepsFeed g (execute f m s).1 := by
  unfold execute
  split
  · exact {}
  · exact executeKind_keepsFeed on m.params _

/-! ### The round -/

/-- The lane of an ONLINE feed changes. -/
theorem onLane_keepsFeed (on : s.online f = true) (l : Lane → Lane) :
    s.keepsFeed g { s with cle := s.cle.onLane f l } where
  idle off := fun ⟨lane, rest⟩ => ⟨by
    show (upd s.cle.lanes f l)[g] = _
    rw [upd_eq_tab, tab_at, if_neg (ne_of_offline on off)]
    exact lane, rest⟩

theorem online_of_keepsFeed {t : State} (kept : s.keepsFeed f t) (on : s.online f = true) : t.online f = true :=
  (congrArg Option.isSome kept.control).trans on

theorem grant_keepsFeed (on : s.online f = true) (m : Message) : s.keepsFeed g (grant f m s) := by
  have executed := execute_keepsFeed (g := f) on m
  exact keepsFeed_trans (execute_keepsFeed on m)
    (keepsFeed_trans (onLane_keepsFeed (online_of_keepsFeed executed on) (·.respond _)) {})

/-- A feed with a request is ONLINE (R134). -/
theorem online_of_request (h : s.feedSound f) (waits : (s.lane f).requests ≠ []) : s.online f = true := by
  rw [State.online, Option.isSome_iff_ne_none]
  intro off
  obtain ⟨lane, -⟩ := h.idle off
  exact waits (by rw [lane]; rfl)

theorem consider_keepsFeed (h : s.feedSound f) : s.keepsFeed g (consider f s) := by
  unfold consider
  split
  · exact {}
  · next m rest waits =>
    have on := online_of_request h (by rw [waits]; exact List.cons_ne_nil m rest)
    split
    · exact keepsFeed_trans (t := popRequest f s) (onLane_keepsFeed on _) (grant_keepsFeed (s := popRequest f s) on m)
    · exact {}

/-- Feeds considered one after another, from a state in which every feed is sound. -/
theorem considers_keepsFeed (h : ∀ g, s.feedSound g) (l : List Feed) :
    ∀ g, s.keepsFeed g (l.foldl (fun t f => consider f t) s) :=
  List.foldlRecOn (motive := fun t : State => ∀ g, s.keepsFeed g t) l _ (fun g => keepsFeed_refl g s)
    fun _ reached f _ g => keepsFeed_trans (reached g) (consider_keepsFeed (keepsFeed_sound (reached f) (h f)))

theorem beforeRequests_feedSound (h : ∀ g, s.feedSound g) (g : Feed) : (beforeRequests s).feedSound g :=
  keepsFeed_sound (beforeRequests_keepsFeed s) (h g)

theorem reach_keepsFeed (h : ∀ g, s.feedSound g) (f g : Feed) : s.keepsFeed g (reach f s) :=
  keepsFeed_trans (beforeRequests_keepsFeed s) (considers_keepsFeed (beforeRequests_feedSound h) _ g)

theorem submit_keepsFeed (h : ∀ g, s.feedSound g) (f : Feed) (m : Message) : s.keepsFeed g (submit f m s) := by
  unfold submit
  split
  · next on =>
    split
    · have reached := reach_keepsFeed h f
      exact keepsFeed_trans (reached g) (grant_keepsFeed (online_of_keepsFeed (reached f) on) m)
    · exact onLane_keepsFeed on _
  · exact {}

/-! ### The frame -/

theorem missingLinks_feedSound (h : s.feedSound g) : (missingLinks s).feedSound g := by
  refine List.foldlRecOn (motive := fun t : State => t.feedSound g) _ _ h fun t reached p _ => ?_
  unfold missingLink
  split
  · exact reached
  · exact portOutcome_feedSound _ _ reached _ _

theorem afterRound_feedSound (h : s.feedSound g) : (afterRound s).feedSound g := by
  have links := missingLinks_feedSound (keepsFeed_sound (lateArrivals_keepsFeed s) h)
  refine keepsFeed_sound ?_ links
  exact keepsFeed_trans (clockEvent_keepsFeed Ftu.revertExpiry _)
    (keepsFeed_trans (clockEvent_keepsFeed Ftu.holdoverExpiry _) (keepsFeed_trans (scenesDue_keepsFeed _)
      (foldl_keepsFeed (fun t b => busOpportunity b t) (fun t b => busOpportunity_keepsFeed b t) (List.finRange 6) _)))

theorem tick_feedSound (h : ∀ g, s.feedSound g) (g : Feed) : (tick s).feedSound g := by
  have begun := beforeRequests_feedSound h
  have ended : (frameEvents s).feedSound g :=
    afterRound_feedSound (keepsFeed_sound (considers_keepsFeed begun (beforeRequests s).roundLeft g) (begun g))
  exact keepsFeed_sound (keepsFeed_trans (transmit_keepsFeed _)
    (keepsFeed_trans (nextFrame_keepsFeed _) (becomeReady_keepsFeed _))) ended

end

/-! ### Every command -/

theorem next_feedSound {s t : State} {g : Feed} (h : s.feedSound g)
    (e : (Host.Outcome.next s : Host.Outcome State Fault Refusal) = .next t) : t.feedSound g := by
  cases e
  exact h

theorem exec_feedSound (c : Instr) {s t : State} (h : ∀ g, s.feedSound g) (e : exec c s = .next t) (g : Feed) :
    t.feedSound g := by
  have kept {u : State} (a : s.keepsFeed g u) : u.feedSound g := keepsFeed_sound a (h g)
  have opened {u : State} (a : (openFrame s).keepsFeed g u) : u.feedSound g :=
    kept (keepsFeed_trans (openFrame_keepsFeed s) a)
  cases req : c.request with
  | some r =>
    obtain ⟨f, tag, kind, ps⟩ := r
    rw [exec_request req] at e
    exact next_feedSound (kept (submit_keepsFeed h f _)) e
  | none =>
    cases c with
    | reset => exact next_feedSound (powerOn_feedSound s g) e
    | frameTick => exact next_feedSound (tick_feedSound h g) e
    | converterFrame k x => exact next_feedSound (kept (converterOutcome_keepsFeed k _ s)) e
    | upstreamFrame p x late => exact next_feedSound (portOutcome_feedSound _ _ (h g) late (judgeUpstream x)) e
    | wordclockPresent => exact next_feedSound (kept (wordclockPresent_keepsFeed s)) e
    | wordclockAbsent => exact next_feedSound (kept (wordclockAbsent_keepsFeed s)) e
    | revertTimerExpiry => exact next_feedSound (kept (clockEvent_keepsFeed Ftu.revertExpiry s)) e
    | holdoverTimerExpiry => exact next_feedSound (kept (clockEvent_keepsFeed Ftu.holdoverExpiry s)) e
    | busSendOpportunity b => exact next_feedSound (opened (busOpportunity_keepsFeed b _)) e
    | effectiveEvent i => exact next_feedSound (kept (effective_keepsFeed i s)) e
    | settleMuteEnd i => exact next_feedSound (kept (u := settleEnd i s) {}) e
    | sceneExecution => exact next_feedSound (opened (sceneDue_keepsFeed _)) e
    | meterPeriodEnd f => exact next_feedSound (opened (periodEnd_keepsFeed f _)) e
    | pendingMapInForce f => exact next_feedSound (kept (u := mapInForce f s) {}) e
    | pendingLawInEffect => exact next_feedSound (kept (u := lawInEffect s) {}) e
    | loadComplete x => exact next_feedSound (kept (completeLoad_keepsFeed x s)) e
    | saveComplete x => exact next_feedSound (kept (completeSave_keepsFeed x s)) e
    | _ => cases req

/-- Settles O59: a step takes the command at the front of the queue, and every command keeps each feed sound. -/
theorem feedsStaySound : Obligations.FeedsStaySound := by
  intro s t h e
  rw [feedsSound_iff] at h ⊢
  unfold step at e
  split at e
  · cases e
    exact h
  · next c rest _ => exact exec_feedSound c (s := { s with pending := rest }) (fun g => keepsFeed_sound {} (h g)) e

end Sys2Proof.Machine
end

section
/-! PROOFS. The two CRCs bit by bit (R127, R140). -/

-- The whole text is elaborated under a memory limit, which many threads at once would pass.
set_option Elab.async false

namespace Sys2Proof.Machine

variable {w : Nat}

/-- One bit of the division: the remainder is shifted, and the polynomial added when the bit shifted out differs from the
message's. -/
def crcBit (poly c : BitVec w) (b : Bool) : BitVec w := if c.msb != b then (c <<< 1) ^^^ poly else c <<< 1

/-- A shift of a remainder with bits of the message added to it: the first of them is the message's bit. -/
theorem crcShift_xor_succ (poly c x : BitVec w) (k : Nat) :
    crcShift poly (k + 1) (c ^^^ x) = crcShift poly k (crcBit poly c x.msb ^^^ (x <<< 1)) := by
  rw [crcShift, crcBit, BitVec.msb_xor, BitVec.shiftLeft_xor_distrib]
  split
  · rw [BitVec.xor_assoc, BitVec.xor_comm (x <<< 1), BitVec.xor_assoc]
  · rfl

/-- `k` shifts of a remainder with bits of the message added to it take the first `k` of them one by one. -/
theorem crcShift_xor (poly : BitVec w) (k : Nat) (c x : BitVec w) :
    crcShift poly k (c ^^^ x) = ((List.range k).map x.getMsbD).foldl (crcBit poly) c ^^^ (x <<< k) := by
  induction k generalizing c x with
  | zero => simp [crcShift]
  | succ k ih =>
    have shifted : (List.range k).map (x <<< 1).getMsbD = (List.range k).map (x.getMsbD ∘ Nat.succ) := by
      refine List.map_congr_left fun i _ => ?_
      simp [BitVec.getMsbD_shiftLeft]
    rw [crcShift_xor_succ, ih, shifted, List.range_succ_eq_map, List.map_cons, List.map_map, List.foldl_cons,
      BitVec.msb_eq_getMsbD_zero, ← BitVec.shiftLeft_add, Nat.add_comm]

/-- The bits of a byte, most significant first. -/
def bitsOf (b : Byte) : List Bool := (List.range 8).map fun k => b.getLsbD (7 - k)

/-- A byte added at the top of a remainder and shifted out is taken bit by bit. -/
theorem crcShift_byte (poly c x : BitVec w) (b : Byte) (bits : ∀ k < 8, x.getMsbD k = b.getLsbD (7 - k))
    (all : x <<< 8 = 0#w) : crcShift poly 8 (c ^^^ x) = (bitsOf b).foldl (crcBit poly) c := by
  have same : (List.range 8).map x.getMsbD = bitsOf b :=
    List.map_congr_left fun k listed => bits k (List.mem_range.1 listed)
  rw [crcShift_xor, same, all, BitVec.xor_zero]

/-- A division that takes each byte bit by bit takes all bits of the bytes. -/
theorem foldl_bytes {α : Type} (byteStep : α → Byte → α) (bitStep : α → Bool → α)
    (agree : ∀ c b, byteStep c b = (bitsOf b).foldl bitStep c) (c : α) (bytes : List Byte) :
    bytes.foldl byteStep c = (bytes.flatMap bitsOf).foldl bitStep c := by
  rw [List.foldl_flatMap, funext₂ agree]

/-- Settles O10: a byte is added to the remainder at once, or bit by bit as it is shifted out. -/
theorem crcsDivideBitByBit : Obligations.CrcsDivideBitByBit := by
  intro bytes
  refine ⟨foldl_bytes _ (crcBit 0x07#8) (fun c b => ?_) 0 bytes, foldl_bytes _ (crcBit 0x1021#16) (fun c b => ?_) _ bytes⟩
  · refine crcShift_byte _ c b b (fun k small => ?_) ?_
    · simp [BitVec.getMsbD, small]
    · simp
  · refine crcShift_byte _ c _ b (fun k small => ?_) ?_
    · have place : 15 - k - 8 = 7 - k := by omega
      have low : k < 16 ∧ 15 - k < 16 ∧ ¬ 15 - k < 8 ∧ 7 - k < 16 := by omega
      simp [BitVec.getMsbD, place, low]
    · simp

end Sys2Proof.Machine
end

section
/-! PROOFS. The layout of the downstream frame (R124 to R127). -/

-- The whole text is elaborated under a memory limit, which many threads at once would pass.
set_option Elab.async false

namespace Sys2Proof.Machine

/-! ### Flags -/

/-- Flags A, bit by bit (R124). -/
theorem flagsA_fields (starting resync defaults som : Bool) {count : Nat} (few : count ≤ 4) :
    (flagsA starting resync defaults som count).getLsbD 7 = starting ∧
    (flagsA starting resync defaults som count).getLsbD 6 = resync ∧
    (flagsA starting resync defaults som count).getLsbD 5 = defaults ∧
    (flagsA starting resync defaults som count).getLsbD 4 = som ∧
    (flagsA starting resync defaults som count).toNat % 16 = count := by
  have each : ∀ (a b c d : Bool) (k : Fin 5),
      (flagsA a b c d k).getLsbD 7 = a ∧ (flagsA a b c d k).getLsbD 6 = b ∧ (flagsA a b c d k).getLsbD 5 = c ∧
      (flagsA a b c d k).getLsbD 4 = d ∧ (flagsA a b c d k).toNat % 16 = k.val := by decide
  exact each starting resync defaults som ⟨count, by omega⟩

/-- Flags B as a number (R124). -/
theorem flagsB_toNat (clock : ClockState) (f : Feed) (r : Role) :
    (flagsB clock f r).toNat = 64 * clock.byte.toNat + 16 * f.val + (if r = .main then 0 else 8) := by
  have small : clock.byte.toNat ≤ 2 := by cases clock <;> simp [ClockState.byte]
  have value : (flagsB clock f r).toNat =
      (64 * clock.byte.toNat + 16 * f.val + 8 * (if r = .main then 0 else 1)) % 256 := BitVec.toNat_ofNat _ 8
  rw [value]
  cases r <;> simp <;> omega

/-! ### Control bytes -/

theorem chunk_few (l : Lane) : l.chunk.bytes.length ≤ 4 := by
  unfold Lane.chunk
  split
  · exact Nat.zero_le 4
  · exact List.length_take_le _ _

theorem field_length (l : Lane) : l.chunk.field.length = 4 := by
  have few := chunk_few l
  rw [Chunk.field, List.length_append, List.length_replicate]
  omega

/-! ### Slots -/

/-- A list of blocks of `m` bytes, block by block. -/
theorem drop_flatMap_block {α : Type} {m : Nat} {g : α → List Byte} (each : ∀ x, (g x).length = m) (l : List α)
    (rest : List Byte) (k : Nat) (h : k < l.length) : ((l.flatMap g ++ rest).drop (m * k)).take m = g l[k] := by
  induction l generalizing k with
  | nil => exact absurd h (Nat.not_lt_zero k)
  | cons x l ih =>
    rw [List.flatMap_cons, List.append_assoc]
    cases k with
    | zero => exact List.take_left' (each x)
    | succ k =>
      have skip : (g x ++ (l.flatMap g ++ rest)).drop (m * (k + 1)) = (l.flatMap g ++ rest).drop (m * k) := by
        rw [Nat.mul_succ, Nat.add_comm, ← List.drop_drop, List.drop_left' (each x)]
      rw [skip]
      exact ih k (Nat.lt_of_succ_lt_succ h)

/-- The slots of the downstream frame (R124). -/
def State.slotBytes (s : State) (f : Feed) : List Byte :=
  (s.slotMap f).slots.flatMap fun e => be 3 (s.slotSample f e).toNat

theorem slotBytes_length (s : State) (f : Feed) : (s.slotBytes f).length = 3 * (s.slotMap f).slots.length := by
  simp [State.slotBytes, List.length_flatMap, Nat.mul_comm]

/-! ### The frame -/

/-- The frame up to its flags B: the bytes that do not tell the two ports of a feed apart (R124, R125). -/
def State.frontBytes (s : State) (f : Feed) : List Byte :=
  [0xA9, 0x1E] ++ beFrame s.ftu.frame ++
    [byte (s.slotMap f).slots.length,
      flagsA s.loading s.lnk.feeds[f].resync s.sil.defaults (s.lane f).chunk.som (s.lane f).chunk.bytes.length]

/-- The CRC-8 of the frame (R127). -/
def State.frameCrc (s : State) (f : Feed) (r : Role) : Byte :=
  crc8 (s.header f r (s.lane f).chunk ++ (s.lane f).chunk.field)

/-- The parts of the frame; the role enters flags B and the CRC alone. -/
theorem downstream_parts (s : State) (f : Feed) (r : Role) :
    s.downstream f r = s.frontBytes f ++ flagsB s.ftu.clock f r ::
      (s.slotBytes f ++ (s.lane f).chunk.field ++ [s.frameCrc f r]) := by
  simp [State.downstream, State.header, State.frontBytes, State.slotBytes, State.frameCrc]

theorem downstream_header (s : State) (f : Feed) (r : Role) :
    ((s.downstream f r).drop 2).take 7 = s.header f r (s.lane f).chunk := by
  unfold State.downstream
  rw [List.append_assoc, List.append_assoc, List.append_assoc, List.drop_left' (i := 2) rfl]
  exact List.take_left' (l₁ := s.header f r (s.lane f).chunk) rfl

theorem downstream_drop (s : State) (f : Feed) (r : Role) :
    (s.downstream f r).drop 9 = s.slotBytes f ++ ((s.lane f).chunk.field ++ [s.frameCrc f r]) := by
  rw [downstream_parts, List.append_cons, List.drop_left' (i := 9) rfl, List.append_assoc]

theorem downstream_slot (s : State) (f : Feed) (r : Role) (k : Nat) (h : k < (s.slotMap f).slots.length) :
    ((s.downstream f r).drop (9 + 3 * k)).take 3 = be 3 (s.slotSample f (s.slotMap f).slots[k]).toNat := by
  rw [← List.drop_drop, downstream_drop]
  exact drop_flatMap_block (fun _ => be_length 3 _) _ _ k h

theorem downstream_control (s : State) (f : Feed) (r : Role) :
    ((s.downstream f r).drop (9 + 3 * (s.slotMap f).slots.length)).take 4 = (s.lane f).chunk.field := by
  rw [← List.drop_drop, downstream_drop, List.drop_left' (slotBytes_length s f), List.take_left' (field_length _)]

theorem downstream_crc (s : State) (f : Feed) (r : Role) :
    (s.downstream f r).getD (13 + 3 * (s.slotMap f).slots.length) 0 = s.frameCrc f r := by
  have body : (s.frontBytes f ++ flagsB s.ftu.clock f r :: (s.slotBytes f ++ (s.lane f).chunk.field)).length =
      13 + 3 * (s.slotMap f).slots.length := by
    simp [State.frontBytes, beFrame, slotBytes_length, field_length]
    omega
  rw [downstream_parts, ← List.cons_append, ← List.append_assoc, ← body]
  simp

/-- The frames of a feed's two ports differ in the role bit and the CRC alone (R125, R127). -/
theorem downstream_role (s : State) (f : Feed) (r q : Role) (k : Nat) (inside : k < 13 + 3 * (s.slotMap f).slots.length)
    (flags : k ≠ 8) : (s.downstream f r).getD k 0 = (s.downstream f q).getD k 0 := by
  have front : (s.frontBytes f).length = 8 := rfl
  have back : (s.slotBytes f ++ (s.lane f).chunk.field).length = 4 + 3 * (s.slotMap f).slots.length := by
    rw [List.length_append, slotBytes_length, field_length, Nat.add_comm]
  rw [downstream_parts, downstream_parts]
  rcases Nat.lt_or_gt_of_ne flags with low | high
  · rw [List.getD_append _ _ _ _ (front.symm ▸ low), List.getD_append _ _ _ _ (front.symm ▸ low)]
  · obtain ⟨j, rfl⟩ := Nat.exists_eq_add_of_lt high
    have within : j < (s.slotBytes f ++ (s.lane f).chunk.field).length := by omega
    rw [List.getD_append_right _ _ _ _ (by omega), List.getD_append_right _ _ _ _ (by omega), front,
      show 8 + j + 1 - 8 = j + 1 by omega, List.getD_cons_succ, List.getD_cons_succ, List.getD_append _ _ _ _ within,
      List.getD_append _ _ _ _ within]

theorem downstream_length (s : State) (f : Feed) (r : Role) :
    (s.downstream f r).length = 14 + 3 * (s.slotMap f).slots.length := by
  simp [downstream_parts, State.frontBytes, beFrame, slotBytes_length, field_length]
  omega

/-- Settles O4: each field stands in its part of the frame. -/
theorem downstreamFrameLayout : Obligations.DownstreamFrameLayout := by
  intro s f few r b n
  have count : (byte n).toNat = n := Nat.mod_eq_of_lt (show n < 256 by omega)
  obtain ⟨starting, resync, defaults, som, bytes⟩ := flagsA_fields s.loading s.lnk.feeds[f].resync s.sil.defaults
    (s.lane f).chunk.som (chunk_few (s.lane f))
  have frame : ofBe (beFrame s.ftu.frame) = s.ftu.frame.toNat :=
    (ofBe_be 4 _).trans (Nat.mod_eq_of_lt s.ftu.frame.isLt)
  refine ⟨downstream_length s f r, rfl, frame, count, starting, resync, defaults, som, bytes, flagsB_toNat _ f r,
    fun k h => downstream_slot s f r k h, downstream_control s f r, ?_,
    fun k inside flags => downstream_role s f r r.other k inside flags⟩
  rw [downstream_header, downstream_control]
  exact downstream_crc s f r

end Sys2Proof.Machine
end

section
/-! PROOFS. UPSTREAM_FRAME (R128 to R130): the judgement of what a port received, its state machine, and when a fall waits for
the other port's outcome of the frame. -/

-- The whole text is elaborated under a memory limit, which many threads at once would pass.
set_option Elab.async false

namespace Sys2Proof.Machine

/-! ### The judgement and the state machine -/

/-- What a port received is good when one frame began, all its bytes came, its CRC-8 matches and its count is at most 4
(R128). -/
def goodUpstream : List (List Byte) → Bool
  | [flags :: c0 :: c1 :: c2 :: c3 :: crc :: _] =>
    decide (crc8 [flags, c0, c1, c2, c3] = crc ∧ (flags &&& 7).toNat ≤ 4)
  | _ => false

/-- The port received one frame, of six bytes at least after its sync word. -/
def wholeFrame (received : List (List Byte)) : Prop :=
  ∃ flags c0 c1 c2 c3 crc rest, received = [flags :: c0 :: c1 :: c2 :: c3 :: crc :: rest]

theorem judgeUpstream_not_whole {received : List (List Byte)} (h : ¬ wholeFrame received) :
    judgeUpstream received = .bad := by
  unfold judgeUpstream
  split
  · exact absurd ⟨_, _, _, _, _, _, _, rfl⟩ h
  · rfl

theorem goodUpstream_not_whole {received : List (List Byte)} (h : ¬ wholeFrame received) :
    goodUpstream received = false := by
  unfold goodUpstream
  split
  · exact absurd ⟨_, _, _, _, _, _, _, rfl⟩ h
  · rfl

theorem judgeUpstream_isGood (received : List (List Byte)) : (judgeUpstream received).isGood = goodUpstream received := by
  by_cases whole : wholeFrame received
  · obtain ⟨flags, c0, c1, c2, c3, crc, rest, rfl⟩ := whole
    show (if crc8 [flags, c0, c1, c2, c3] = crc ∧ (flags &&& 7).toNat ≤ 4 then UpOutcome.good _ _ else .bad).isGood =
      decide (crc8 [flags, c0, c1, c2, c3] = crc ∧ (flags &&& 7).toNat ≤ 4)
    split
    · next fits => exact (decide_eq_true fits).symm
    · next fails => exact (decide_eq_false fails).symm
  · rw [judgeUpstream_not_whole whole, goodUpstream_not_whole whole]
    rfl

theorem isGood_eq_false {o : UpOutcome} : o.isGood = false ↔ o = .bad := by
  cases o <;> simp

/-- The next state of a port, by what it counts to (R129). -/
theorem step_eq (good : Bool) (x : LinkState) :
    x.step good = match x with
      | .down => if good then .seek 1 else .down
      | .seek run => if good then if run + 1 < 16 then .seek (run + 1) else .up 0 else .down
      | .up run => if good then .up 0 else if run + 1 < 8 then .up (run + 1) else .down := by
  have swap (n k : Nat) (a b : LinkState) : (if n ≤ k then a else b) = if k < n then b else a := by
    simp only [← Nat.not_lt, ite_not]
  cases x with
  | down => rfl
  | seek run | up run => rw [LinkState.step, swap]

/-- A port falls with its eighth bad frame in a row (R129). -/
theorem falls_iff_eighth {x : LinkState} : x.falls = true ↔ ∃ run, 7 ≤ run ∧ x = .up run := by
  constructor
  · intro falls
    obtain ⟨up, down⟩ := falls_iff.1 falls
    obtain ⟨run, rfl⟩ := isUp_iff.1 up
    refine ⟨run, Nat.le_of_not_lt fun few => ?_, rfl⟩
    rw [show (LinkState.up run).step false = .up (run + 1) from if_neg (by omega)] at down
    cases down
  · rintro ⟨run, enough, rfl⟩
    exact falls_iff.2 ⟨rfl, by rw [step_falls enough]; rfl⟩

/-- A port may be UP after a frame when it is UP, or one good frame from it (R129). -/
theorem mayBeUp_iff {x : LinkState} :
    (x.step true).isUp = true ↔ (∃ run, x = .up run) ∨ ∃ run, 15 ≤ run ∧ x = .seek run := by
  cases x with
  | down => simp [LinkState.step, LinkState.isUp]
  | up run => simp [LinkState.step, LinkState.isUp]
  | seek run =>
    by_cases enough : 15 ≤ run
    · simp [step_rises enough, LinkState.isUp, enough]
    · rw [show (LinkState.seek run).step true = .seek (run + 1) from if_neg (by omega)]
      simp [LinkState.isUp, enough]

/-- When a bad outcome waits (log entry 9), by the states of the two ports. -/
theorem mustWait_iff {f : Feed} {r : Role} {s : State} :
    mustWait f r s = true ↔
      (∃ run, 7 ≤ run ∧ (s.linkAt f r).state = .up run) ∧ (s.linkAt f r.other).judged = false ∧
        if s.lnk.feeds[f].control = some r then
          (∃ run, (s.linkAt f r.other).state = .up run) ∨ ∃ run, 15 ≤ run ∧ (s.linkAt f r.other).state = .seek run
        else ∃ run, 7 ≤ run ∧ (s.linkAt f r.other).state = .up run := by
  unfold mustWait
  rw [Bool.and_eq_true, Bool.and_eq_true, falls_iff_eighth, Bool.not_eq_true', and_assoc]
  split
  · rw [mayBeUp_iff]
  · rw [falls_iff_eighth]

/-! ### Ports after an outcome -/

section
variable (f : Feed) (r : Role) (s : State)

theorem takeOutcome_ports (good : Bool) :
    (takeOutcome f r good s).lnk.ports =
      upd s.lnk.ports (portOf f r) (LinkPort.taken ((s.linkAt f r).state.step good)) := by
  unfold takeOutcome
  dsimp only
  split
  · exact portUp_ports f r _
  · split
    · exact portDown_ports f r _
    · rfl

theorem holdPort_eq (p : Port) :
    holdPort (feedOf p) (roleOf p) s =
      { s with lnk := { s.lnk with ports := tab fun q =>
        if q = p then { s.lnk.ports[p] with judged := true, held := true } else s.lnk.ports[q] } } := by
  have ports : upd s.lnk.ports p LinkPort.waiting =
      tab fun q => if q = p then (s.lnk.ports[p]).waiting else s.lnk.ports[q] := upd_eq_tab_of rfl
  rw [holdPort, portOf_feedOf, ports]
  rfl

/-- An outcome that does not wait: it is taken, and then one that waits on the other port. -/
theorem portOutcome_now {late : Bool} {o : UpOutcome} (now : o = .bad → mustWait f r s = false) :
    portOutcome f r late o s = takeHeld f r.other (takeOutcome f r o.isGood (deliverOutcome f r late o s)) := by
  cases o with
  | good som bytes => rfl
  | bad =>
    unfold portOutcome
    dsimp only
    rw [now rfl]
    rfl

theorem deliverOutcome_lnk (late : Bool) (o : UpOutcome) : (deliverOutcome f r late o s).lnk = s.lnk := by
  cases o <;> rfl

/-- The ports after an outcome that does not wait (R129). -/
theorem portOutcome_ports {late : Bool} {o : UpOutcome} (now : o = .bad → mustWait f r s = false) :
    (portOutcome f r late o s).lnk.ports = tab fun k =>
      if k = portOf f r then (s.linkAt f r).taken ((s.linkAt f r).state.step o.isGood)
      else if k = portOf f r.other ∧ (s.linkAt f r.other).held = true then
        (s.linkAt f r.other).taken ((s.linkAt f r.other).state.step false)
      else s.lnk.ports[k] := by
  have same (q : Role) : (deliverOutcome f r late o s).linkAt f q = s.linkAt f q := by
    rw [State.linkAt, deliverOutcome_lnk]
    rfl
  have taken := takeOutcome_ports f r (deliverOutcome f r late o s) o.isGood
  rw [deliverOutcome_lnk, same] at taken
  have other := (takeOutcome_linkAt_other f r o.isGood (deliverOutcome f r late o s)).trans (same r.other)
  rw [portOutcome_now f r s now]
  unfold takeHeld
  rw [other]
  have differ : portOf f r.other ≠ portOf f r := fun e => portOf_ne_other f r (congrArg Fin.val e)
  split
  · next held =>
    rw [takeOutcome_ports, other, taken, upd_eq_tab, upd_eq_tab]
    congr 1
    funext k
    rw [tab_at]
    by_cases main : k = portOf f r
    · subst main
      rw [if_neg differ.symm, if_pos rfl, if_pos rfl]
      rfl
    · by_cases second : k = portOf f r.other
      · subst second
        rw [if_pos rfl, if_neg main, if_neg main, if_pos ⟨rfl, held⟩]
        rfl
      · rw [if_neg second, if_neg main, if_neg main, if_neg fun c => second c.1]
  · next free =>
    rw [taken, upd_eq_tab]
    congr 1
    funext k
    rw [if_neg (c := _ ∧ _) fun c => free c.2]
    split
    · next main => exact main ▸ rfl
    · rfl

end

/-! ### The blocks that a port change reaches -/

/-- A change of the clock, the scenes, the link ports, the conversations and the meters (R130 to R134). -/
structure State.linkChange (s t : State) : Prop where
  cvp : t.cvp = s.cvp := by rfl
  smu : t.smu = s.smu := by rfl
  tgu : t.tgu = s.tgu := by rfl
  hac : t.hac = s.hac := by rfl
  sil : t.sil = s.sil := by rfl
  stepped : t.stepped = s.stepped := by rfl
  pending : t.pending = s.pending := by rfl

theorem linkChange_trans {s t u : State} (a : s.linkChange t) (b : t.linkChange u) : s.linkChange u where
  cvp := b.cvp.trans a.cvp
  smu := b.smu.trans a.smu
  tgu := b.tgu.trans a.tgu
  hac := b.hac.trans a.hac
  sil := b.sil.trans a.sil
  stepped := b.stepped.trans a.stepped
  pending := b.pending.trans a.pending

theorem linkChange_onlyBlocks {s t : State} (h : s.linkChange t) : onlyBlocks [.ftu, .scu, .lnk, .cle, .lmu] s t := by
  refine ⟨fun b outside => ?_, h.stepped, h.pending⟩
  cases b with
  | cvp => exact h.cvp
  | smu => exact h.smu
  | tgu => exact h.tgu
  | hac => exact h.hac
  | sil => exact h.sil
  | _ => exact absurd (by decide) outside

section
variable (f : Feed) (r : Role) (s : State)

theorem portUp_linkChange : s.linkChange (portUp f r s) := by
  unfold portUp
  split
  · exact {}
  · split <;> exact {}

theorem portDown_linkChange : s.linkChange (portDown f r s) := by
  unfold portDown
  split
  · split <;> exact {}
  · exact {}

theorem takeOutcome_linkChange (good : Bool) : s.linkChange (takeOutcome f r good s) := by
  unfold takeOutcome
  dsimp only
  split
  · exact linkChange_trans {} (portUp_linkChange f r _)
  · split
    · exact linkChange_trans {} (portDown_linkChange f r _)
    · exact {}

theorem portOutcome_linkChange (late : Bool) (o : UpOutcome) : s.linkChange (portOutcome f r late o s) := by
  have taken (good : Bool) (t : State) : t.linkChange (takeHeld f r.other (takeOutcome f r good t)) := by
    unfold takeHeld
    split
    · exact linkChange_trans (takeOutcome_linkChange f r t good) (takeOutcome_linkChange f r.other _ false)
    · exact takeOutcome_linkChange f r t good
  unfold portOutcome
  split
  · exact linkChange_trans (t := deliverBytes f r late _ _ s) {} (taken true _)
  · split
    · exact {}
    · exact taken false s

end

/-- Settles O12: the outcome waits, or it is taken with one that waits on the other port. -/
theorem upstreamFrameDrivesPort : Obligations.UpstreamFrameDrivesPort := by
  intro s p received late f r q good next waits
  have isGood : good = (judgeUpstream received).isGood := (judgeUpstream_isGood received).symm
  have link : s.linkAt f r = s.lnk.ports[p] := linkAt_feedOf p s
  have waits_iff : waits ↔ judgeUpstream received = .bad ∧ mustWait f r s = true := by
    rw [mustWait_iff, link, ← isGood_eq_false, ← isGood]
    rfl
  rw [exec_upstreamFrame]
  refine ⟨fun wait => ?_, fun now => ⟨_, rfl, linkChange_onlyBlocks (portOutcome_linkChange f r s late _), ?_⟩⟩
  · obtain ⟨bad, wait⟩ := waits_iff.1 wait
    rw [bad, portOutcome_waits wait, holdPort_eq]
  · have step (good : Bool) (x : LinkState) : next good x = x.step good := (step_eq good x).symm
    rw [step, step, isGood, portOutcome_ports f r s fun bad => Bool.eq_false_iff.2 fun wait => now (waits_iff.2 ⟨bad, wait⟩),
      link, portOf_feedOf]
    rfl

end Sys2Proof.Machine
end

section
/-! PROOFS. What the frames that move no feed record deliver, and what a lane makes of a delivery (R129, R130, R141, R142,
R144). -/

-- The whole text is elaborated under a memory limit, which many threads at once would pass.
set_option Elab.async false

namespace Sys2Proof.Machine

/-! ### Frames that leave the feed record alone -/

section
variable {f : Feed} {r : Role} {late : Bool} {o : UpOutcome} {s : State}

theorem judgeUpstream_good {flags c0 c1 c2 c3 crc : Byte} (sum : crc8 [flags, c0, c1, c2, c3] = crc)
    (few : (flags &&& 7).toNat ≤ 4) :
    judgeUpstream [[flags, c0, c1, c2, c3, crc]] =
      .good (flags.getLsbD 4) ([c0, c1, c2, c3].take (flags &&& 7).toNat) := if_pos ⟨sum, few⟩

/-- A good frame on an UP port: its bytes are delivered, and the port stays UP (R129, R130). -/
theorem portOutcome_up_good {som : Bool} {bytes : List Byte} (up : (s.linkAt f r).state.isUp = true)
    (free : (s.linkAt f r.other).held = false) :
    portOutcome f r late (.good som bytes) s = setPort f r (.up 0) (deliverBytes f r late som bytes s) := by
  obtain ⟨run, state⟩ := isUp_iff.1 up
  have same : (deliverBytes f r late som bytes s).linkAt f r = s.linkAt f r := rfl
  rw [portOutcome_taken (o := .good som bytes) free (by simp)]
  show takeOutcome f r true (deliverBytes f r late som bytes s) = _
  rw [takeOutcome_same (by rw [same, up, step_true_isUp up]), same, state]
  rfl

/-- An outcome on a port that is not UP, and does not come UP with it: nothing moves but the port (R129, R130). -/
theorem portOutcome_low (notUp : (s.linkAt f r).state.isUp = false) (free : (s.linkAt f r.other).held = false)
    (stays : ((s.linkAt f r).state.step o.isGood).isUp = false) :
    portOutcome f r late o s = setPort f r ((s.linkAt f r).state.step o.isGood) s := by
  rw [portOutcome_notUp notUp free, takeOutcome_same (stays.trans notUp.symm)]

/-- The lanes after a delivery (R130). -/
theorem deliverBytes_lanes (som : Bool) (bytes : List Byte) (up : (s.linkAt f r).state.isUp = true) :
    (deliverBytes f r late som bytes s).cle =
      { s.cle with
        lanes := tab fun g =>
          if g = f ∧ s.lnk.feeds[f].control = some r then (s.lane g).deliver late som bytes else s.lane g } := by
  unfold deliverBytes
  dsimp only
  rw [up, Bool.true_and]
  by_cases control : s.lnk.feeds[f].control = some r
  · rw [if_pos (decide_eq_true control), Cle.onLane, upd_eq_tab]
    simp only [control, and_true]
    rfl
  · have lanes : (tab fun g => s.lane g) = s.cle.lanes := tab_of_entries _
    rw [if_neg (fun d => control (of_decide_eq_true d))]
    simp only [control, and_false, if_false, lanes]

end

/-! ### A delivery -/

/-- The start of a message (R141). -/
theorem start_eq (bytes : List Byte) :
    Assembler.start bytes =
      if bytes = [] ∨ (bytes.getD 0 0).toNat < 4 ∨ 63 < (bytes.getD 0 0).toNat then .waitSom
      else .collecting bytes ((bytes.getD 0 0).toNat - (bytes.length - 1)) := by
  cases bytes with
  | nil => rfl
  | cons b rest =>
    show (if 4 ≤ b.toNat ∧ b.toNat ≤ 63 then Assembler.collecting (b :: rest) (b.toNat - rest.length) else .waitSom) = _
    by_cases fits : 4 ≤ b.toNat ∧ b.toNat ≤ 63
    · have inside : ¬ (b :: rest = [] ∨ b.toNat < 4 ∨ 63 < b.toNat) := by simp; omega
      rw [if_pos fits]
      exact (if_neg inside).symm
    · have outside : b :: rest = [] ∨ b.toNat < 4 ∨ 63 < b.toNat := by right; omega
      rw [if_neg fits]
      exact (if_pos outside).symm

section
variable {l : Lane} {late : Bool} {bytes got : List Byte} {expected : Nat}

/-- A delivery with SOM, in either state of the assembler (R141). -/
theorem deliver_som : l.deliver late true bytes = { l with assembler := Assembler.start bytes } := by
  unfold Lane.deliver
  cases l.assembler <;> rfl

theorem deliver_waiting (waits : l.assembler = .waitSom) : l.deliver late false bytes = l := by
  cases l
  cases waits
  rfl

section
variable (collects : l.assembler = .collecting got expected)
include collects

theorem deliver_more (few : bytes.length < expected) :
    l.deliver late false bytes =
      { l with assembler := .collecting (got ++ bytes) (expected - bytes.length) } := by
  unfold Lane.deliver
  simp only [collects, Assembler.deliver, Bool.false_eq_true, if_false, if_pos few]

/-- The last bytes of what proves no request (R142). -/
theorem deliver_discards (enough : expected ≤ bytes.length) (bad : openEnvelope (got ++ bytes.take expected) = none) :
    l.deliver late false bytes = { l with assembler := .waitSom } := by
  unfold Lane.deliver
  simp only [collects, Assembler.deliver, Bool.false_eq_true, if_false, if_neg (Nat.not_lt.2 enough), bad]

/-- The last bytes of a request (R142). -/
theorem deliver_completes {m : Message} (enough : expected ≤ bytes.length)
    (good : openEnvelope (got ++ bytes.take expected) = some m) :
    l.deliver late false bytes = Lane.complete late m { l with assembler := .waitSom } := by
  unfold Lane.deliver
  simp only [collects, Assembler.deliver, Bool.false_eq_true, if_false, if_neg (Nat.not_lt.2 enough), good]

end

end

/-- A run of bytes whose last two are not the CRC-16 of the others is no request (R142). -/
theorem openEnvelope_none {bytes : List Byte}
    (differs : bytes.drop (bytes.length - 2) ≠ be 2 (crc16 (bytes.take (bytes.length - 2))).toNat) :
    openEnvelope bytes = none := by
  unfold openEnvelope
  dsimp only
  split
  · exact if_neg differs
  · rfl

theorem openEnvelope_some {bytes params : List Byte} {first tag kind : Byte}
    (parts : bytes.take (bytes.length - 2) = first :: tag :: kind :: params)
    (sum : bytes.drop (bytes.length - 2) = be 2 (crc16 (bytes.take (bytes.length - 2))).toNat) :
    openEnvelope bytes = some { tag := tag, kind := kind, params := params } := by
  unfold openEnvelope
  rw [parts] at sum ⊢
  exact if_pos sum

/-- Settles O13: a frame that leaves the feed record alone moves its port and at most one lane, and a lane takes a delivery by
the state of its assembler. -/
theorem controlBytesReachAssembler : Obligations.ControlBytesReachAssembler := by
  refine ⟨?_, ?_, ?_⟩
  · intro s p flags c0 c1 c2 c3 crc late run f r state free sum few
    have up : (s.linkAt f r).state.isUp = true := by rw [linkAt_feedOf, state]; rfl
    rw [exec_upstreamFrame, judgeUpstream_good sum few, portOutcome_up_good up free, setPort_eq,
      deliverBytes_lanes (late := late) (flags.getLsbD 4) _ up]
    rfl
  · intro s p received late free only
    have only_of {x : LinkState} (h : portOutcome (feedOf p) (roleOf p) late (judgeUpstream received) s =
        setPort (feedOf p) (roleOf p) x s) : only x := by
      show exec _ s = _
      rw [exec_upstreamFrame, h, setPort_eq]
    have link := linkAt_feedOf p s
    have low {x y : LinkState} (state : s.lnk.ports[p].state = x) (notUp : x.isUp = false)
        (next : x.step (judgeUpstream received).isGood = y) (stays : y.isUp = false) : only y := by
      have now : (s.linkAt (feedOf p) (roleOf p)).state = x := by rw [link, state]
      subst next
      subst now
      exact only_of (portOutcome_low notUp free stays)
    refine ⟨fun good => ⟨fun state => ?_, fun run state few => ?_⟩, fun bad => ⟨fun state => ?_, fun run state => ?_,
      fun run state few => ?_⟩⟩
    · exact low state rfl (by rw [isGood_of_ne_bad good]; rfl) rfl
    · exact low state rfl (by rw [isGood_of_ne_bad good]; exact if_neg (by omega)) rfl
    · exact low state rfl (by rw [bad]; rfl) rfl
    · exact low state rfl (by rw [bad]; rfl) rfl
    · have step : (s.linkAt (feedOf p) (roleOf p)).state.step false = .up (run + 1) := by
        rw [link, state]
        exact if_neg (by omega)
      refine only_of ?_
      rw [bad, portOutcome_control_stays (by rw [link, state]; rfl) (by rw [step]; rfl) free, step]
  · intro l late som bytes _ length waiting joined settled
    refine ⟨?_, ?_, ?_⟩
    · rintro rfl
      rw [deliver_som, start_eq]
      split <;> rfl
    · rintro rfl waits
      exact deliver_waiting waits
    · rintro got expected rfl collects
      refine ⟨deliver_more collects, ?_⟩
      intro enough message covered crc
      refine ⟨fun differs => deliver_discards collects enough (openEnvelope_none differs), ?_⟩
      intro first tag kind params parts sum
      rw [deliver_completes collects enough (openEnvelope_some parts sum)]
      show waiting.complete late _ = _
      have late_eq : waiting.arriveLate = settled := rfl
      rw [Lane.complete, late_eq]
      rfl

end Sys2Proof.Machine
end

section
/-! PROOFS. What joins a queue of the control lane or finds it full (R136, R144, R149). -/

-- The whole text is elaborated under a memory limit, which many threads at once would pass.
set_option Elab.async false

namespace Sys2Proof.Machine

/-- One lane replaced. -/
theorem onLane_eq {f : Feed} {h : Lane → Lane} {s : State} {l : Lane} (lane : h (s.lane f) = l) :
    s.cle.onLane f h = { s.cle with lanes := tab fun g => if g = f then l else s.lane g } := by
  rw [Cle.onLane, upd_eq_tab_of (v := s.cle.lanes) lane]
  rfl

/-- A lane replaced by itself. -/
theorem sameLane_eq (f : Feed) (s : State) :
    { s.cle with lanes := tab fun g => if g = f then s.lane f else s.lane g } = s.cle := by
  have lanes : s.cle.onLane f (fun l => l) = s.cle := by rw [Cle.onLane, upd_same _ _ _ rfl]
  exact (onLane_eq rfl).symm.trans lanes

/-! ### Notices -/

/-- The place of a notice's kind in the table of notices. -/
def Notice.place : Notice → Nat
  | .headAmp .. => 0
  | .owner .. => 1
  | .claimSeen .. => 2
  | .limit .. => 3
  | .clip .. => 4
  | .meter .. => 5
  | .sceneDone .. => 6
  | .clock .. => 7
  | .input .. => 8
  | .storeDone .. => 9
  | .law .. => 10

/-- The key of a notice as two numbers: the place of its kind, and its key value (R149). -/
def Notice.key (x : Notice) : Nat × Nat := (x.place, x.keyValue)

theorem kind_toNat (x : Notice) : x.kind.toNat = 128 + x.place := by
  cases x <;> rfl

/-- Two notices share a key when their kinds and key values agree (R149). -/
theorem notice_sameKey_iff (a b : Notice) : a.sameKey b = true ↔ b.key = a.key := by
  have kinds : a.kind = b.kind ↔ b.place = a.place := by
    rw [← BitVec.toNat_inj, kind_toNat, kind_toNat, Nat.add_left_cancel_iff, eq_comm]
  rw [Notice.sameKey, decide_eq_true_iff, Notice.key, Notice.key, Prod.mk.injEq, kinds, eq_comm (a := a.keyValue)]

theorem hasWaiting_iff (nt : Notice) (l : Lane) :
    l.hasWaiting nt = true ↔ ∃ x ∈ l.notices.drop l.sendingNotice, x.key = nt.key := by
  simp only [Lane.hasWaiting, List.any_eq_true, notice_sameKey_iff]

section
variable {nt : Notice} {f : Feed} {s : State}

/-- A notice handed to one feed (R149). -/
theorem told_one (nt : Notice) (f : Feed) (s : State) : told (toFeed f [nt]) s = notifyIf true f nt s :=
  (notifyIf_told true f nt s).symm

theorem notify_offline (off : s.lnk.feeds[f].control = none) : notifyIf true f nt s = s := by
  have offline : s.online f = false := by rw [State.online, off]; rfl
  simp only [notifyIf, offline, Bool.and_false, Bool.false_and, Bool.false_eq_true, if_false]

/-- A notice that finds one of its key, or room in the queue, overflows nothing. -/
theorem notify_fits (on : s.online f = true) (fits : (s.lane f).overflows nt = false) :
    notifyIf true f nt s = { s with cle := s.cle.onLane f (·.offer nt) } := by
  simp only [notifyIf, on, fits, Bool.and_false, Bool.true_and, Bool.false_eq_true, if_false, if_true]

/-- A notice that finds the queue full is dropped, and RESYNC is set (R136, R149). -/
theorem notify_overflows (on : s.online f = true) (full : (s.lane f).overflows nt = true) :
    notifyIf true f nt s = { s with lnk := s.lnk.onFeed f fun r => { r with resync := true } } := by
  obtain ⟨fresh, long⟩ := Bool.and_eq_true_iff.1 full
  have kept : (s.lane f).offer nt = s.lane f := by
    rw [Lane.offer, if_neg (by simpa using fresh), if_neg (Nat.not_lt.2 (of_decide_eq_true long))]
  have lanes : s.cle.onLane f (·.offer nt) = s.cle := (onLane_eq kept).trans (sameLane_eq f s)
  simp only [notifyIf, on, full, Bool.and_true, if_true, lanes]

/-- The queue of a lane after a notice that found one of its key (R149). -/
theorem offer_replaces {l : Lane} (found : l.hasWaiting nt = true) :
    l.offer nt =
      { l with
        notices := l.notices.take l.sendingNotice ++
          (l.notices.drop l.sendingNotice).map fun x => if x.key = nt.key then nt else x } := by
  rw [Lane.offer, if_pos found]
  simp only [notice_sameKey_iff]

theorem offer_joins {l : Lane} (fresh : l.hasWaiting nt = false) (room : l.notices.length < 16) :
    l.offer nt = { l with notices := l.notices ++ [nt] } := by
  rw [Lane.offer, if_neg (by rw [fresh]; exact Bool.false_ne_true), if_pos room]

end

/-! ### The statement -/

/-- What becomes of a request that is not granted on arrival (R144). -/
theorem exec_not_served {c : Instr} {f : Feed} {tag kind : Byte} {ps : List Byte} {s : State}
    (request : c.request = some (f, tag, kind, ps)) (waits : ¬ s.serves f) :
    exec c s = .next
      { s with
        cle :=
          { s.cle with
            lanes := tab fun g =>
              if g = f then
                if s.online f = false then s.lane f else (s.lane f).arrive { tag := tag, kind := kind, params := ps }
              else s.lane g } } := by
  rw [exec_request request, submit_not_served f _ s waits]
  cases on : s.online f with
  | true =>
    rw [if_pos rfl, onLane_eq rfl]
    rfl
  | false =>
    simp only [Bool.false_eq_true, if_false, if_true, sameLane_eq]

/-- Settles O31: a request arrives or is none, a notice is replaced, joins or is dropped, and notices come one by one. -/
theorem requestsWaitOrOverflow : Obligations.RequestsWaitOrOverflow := by
  refine ⟨?_, ?_, ?_⟩
  · intro s c f tag kind ps request waits l lane
    exact exec_not_served request waits
  · intro s f nt key l sending queue
    have keys (x : Notice) : key x = x.key := by
      cases x with
      | law t _ => cases t <;> rfl
      | _ => rfl
    have queued {q : List Notice} (offered : l.offer nt = { l with notices := q }) :
        { s with cle := s.cle.onLane f (·.offer nt) } = queue q := by rw [onLane_eq offered]
    have waiting : (∃ x ∈ l.notices.drop sending, key x = key nt) ↔ l.hasWaiting nt = true := by
      simp only [keys]
      exact (hasWaiting_iff nt l).symm
    rw [told_one]
    by_cases off : s.lnk.feeds[f].control = none
    · rw [if_pos off, notify_offline off]
    have on : s.online f = true := Option.isSome_iff_ne_none.2 off
    rw [if_neg off]
    by_cases found : l.hasWaiting nt = true
    · have fits : l.overflows nt = false := by rw [Lane.overflows, found, Bool.not_true, Bool.false_and]
      rw [if_pos (waiting.2 found), notify_fits on fits, queued (offer_replaces found)]
      simp only [keys]
      rfl
    rw [if_neg (fun h => found (waiting.1 h))]
    have fresh : l.hasWaiting nt = false := Bool.eq_false_iff.2 found
    by_cases room : l.notices.length < 16
    · have fits : l.overflows nt = false := by
        rw [Lane.overflows, decide_eq_false (Nat.not_le.2 room), Bool.and_false]
      rw [if_pos room, notify_fits on fits, queued (offer_joins fresh room)]
    · have full : l.overflows nt = true := by rw [Lane.overflows, fresh, decide_eq_true (Nat.not_lt.1 room)]; rfl
      rw [if_neg room, notify_overflows on full, Lnk.onFeed,
        upd_eq_tab_of (v := s.lnk.feeds) (x := { s.lnk.feeds[f] with resync := true }) rfl]
  · intro s f nts more
    refine ⟨told_nothing s, (told_told nts more s).symm, ?_⟩
    rw [told_told]
    congr 1
    funext g
    by_cases e : g = f
    · subst e
      simp [toFeed]
    · simp [toFeed, e]

end Sys2Proof.Machine
end

section
/-! PROOFS. The queues of a lane (R144, R149): what an executed request and the handing of notices leave of them. -/

-- The whole text is elaborated under a memory limit, which many threads at once would pass.
set_option Elab.async false

namespace Sys2Proof.Machine

/-! ### The notice queue -/

/-- At most sixteen notices, and no two waiting ones of one key (R149). -/
def Lane.noticesFit (l : Lane) : Prop :=
  l.notices.length ≤ 16 ∧ ((l.notices.map Notice.key).drop l.sendingNotice).Nodup

theorem bounded_iff (l : Lane) :
    l.bounded ↔ l.requests.length ≤ 8 ∧ l.responses.length ≤ 8 ∧ l.noticesFit := by
  have keys : (l.notices.drop l.sendingNotice).Pairwise (fun a b => a.sameKey b = false) ↔
      ((l.notices.map Notice.key).drop l.sendingNotice).Nodup := by
    rw [← List.map_drop, List.Nodup, List.pairwise_map]
    refine List.Pairwise.iff fun a b => ?_
    rw [Bool.eq_false_iff, ne_eq, notice_sameKey_iff, eq_comm]
  rw [Lane.bounded, keys, Lane.noticesFit]

/-- A replaced notice has the key of the one it replaces. -/
theorem replace_keys (nt : Notice) (q : List Notice) :
    (q.map fun x => if x.key = nt.key then nt else x).map Notice.key = q.map Notice.key := by
  rw [List.map_map]
  refine List.map_congr_left fun x _ => ?_
  show (if x.key = nt.key then nt else x).key = x.key
  split
  · next same => exact same.symm
  · rfl

section
variable {nt : Notice} {l : Lane}

/-- A notice replaces the one of its key in its place, so that the keys stay (R149). -/
theorem offer_replaces_noticesFit (found : l.hasWaiting nt = true) (h : l.noticesFit) : (l.offer nt).noticesFit := by
  have keys : (l.offer nt).notices.map Notice.key = l.notices.map Notice.key := by
    rw [offer_replaces found, List.map_append, replace_keys, ← List.map_append, List.take_append_drop]
  have length : (l.offer nt).notices.length = l.notices.length := by
    simpa only [List.length_map] using congrArg List.length keys
  rw [Lane.noticesFit, keys, length]
  exact h

/-- A notice without one of its key joins at the end (R149). -/
theorem offer_joins_noticesFit (fresh : l.hasWaiting nt = false) (room : l.notices.length < 16) (h : l.noticesFit) :
    (l.offer nt).noticesFit := by
  obtain ⟨-, distinct⟩ := h
  have new : nt.key ∉ (l.notices.map Notice.key).drop l.sendingNotice := by
    intro old
    rw [← List.map_drop, List.mem_map] at old
    exact Bool.eq_false_iff.1 fresh ((hasWaiting_iff nt l).2 old)
  rw [Lane.noticesFit, offer_sendingNotice, offer_joins fresh room]
  refine ⟨by simpa using room, ?_⟩
  have joined : ((l.notices.map Notice.key).drop l.sendingNotice ++ [nt.key]).Nodup :=
    List.nodup_append_comm.1 (List.nodup_cons.2 ⟨new, distinct⟩)
  rw [List.map_append, List.drop_append]
  exact joined.sublist (List.Sublist.append_left (List.drop_sublist _ _) _)

/-- What a lane is offered keeps its notice queue in bounds, its waiting notices with distinct keys (R149). -/
theorem offer_noticesFit (nt : Notice) (h : l.noticesFit) : (l.offer nt).noticesFit := by
  cases found : l.hasWaiting nt with
  | true => exact offer_replaces_noticesFit found h
  | false =>
    by_cases room : l.notices.length < 16
    · exact offer_joins_noticesFit found room h
    · have dropped : l.offer nt = l := by
        rw [Lane.offer, if_neg (by rw [found]; exact Bool.false_ne_true), if_neg room]
      exact dropped.symm ▸ h

theorem handed_noticesFit (nts : List Notice) (h : l.noticesFit) : (l.handed nts).1.noticesFit := by
  induction nts generalizing l with
  | nil => exact h
  | cons nt nts ih => exact ih (offer_noticesFit nt h)

end

/-! ### What an executed request leaves of the lanes -/

/-- The responses of lane `l` as they were, its requests less some at the front, and its notices in bounds as before. -/
structure Lane.keeps (l m : Lane) : Prop where
  requests : m.requests <:+ l.requests := by exact List.suffix_rfl
  responses : m.responses = l.responses := by rfl
  notices : l.noticesFit → m.noticesFit := by exact id

theorem lane_keeps_refl (l : Lane) : l.keeps l := {}

theorem lane_keeps_trans {l m n : Lane} (a : l.keeps m) (b : m.keeps n) : l.keeps n where
  requests := b.requests.trans a.requests
  responses := b.responses.trans a.responses
  notices h := b.notices (a.notices h)

theorem lane_keeps_bounded {l m : Lane} (kept : l.keeps m) (h : l.bounded) : m.bounded := by
  rw [bounded_iff] at h ⊢
  obtain ⟨requests, responses, notices⟩ := h
  exact ⟨kept.requests.length_le.trans requests, kept.responses ▸ responses, kept.notices notices⟩

theorem handed_keepsLane (nts : List Notice) (l : Lane) : l.keeps (l.handed nts).1 where
  requests := by rw [handed_keeps]
  responses := by rw [handed_keeps]
  notices := handed_noticesFit nts

/-- A restart leaves no request and no waiting notice (R152). -/
theorem restart_keepsLane (l : Lane) : l.keeps l.restart where
  requests := List.nil_suffix
  notices := fun ⟨few, _⟩ => by
    refine ⟨(List.length_take_le' _ _).trans few, ?_⟩
    show ((l.notices.take l.sendingNotice).map Notice.key |>.drop l.sendingNotice).Nodup
    rw [List.drop_eq_nil_of_le (by rw [List.length_map]; exact List.length_take_le _ _)]
    exact List.nodup_nil

/-- Every lane keeps its responses, its requests but some at the front, and its notices in bounds; the round is where it was. -/
structure State.keepsQueues (s t : State) : Prop where
  lane : ∀ f, (s.lane f).keeps (t.lane f) := by exact fun _ => {}
  left : t.cle.left = s.cle.left := by rfl
  pointer : t.cle.pointer = s.cle.pointer := by rfl

section
variable {s t u : State}

theorem keepsQueues_refl (s : State) : s.keepsQueues s := {}

theorem keepsQueues_trans (a : s.keepsQueues t) (b : t.keepsQueues u) : s.keepsQueues u where
  lane f := lane_keeps_trans (a.lane f) (b.lane f)
  left := b.left.trans a.left
  pointer := b.pointer.trans a.pointer

theorem keepsQueues_bounded (kept : s.keepsQueues t) (h : s.queuesBounded) : t.queuesBounded := by
  obtain ⟨lanes, distinct⟩ := h
  refine ⟨fun f => lane_keeps_bounded (kept.lane f) (lanes f), ?_⟩
  rw [sameRound_roundLeft ⟨kept.left, kept.pointer⟩]
  exact distinct

theorem foldl_keepsQueues {α : Type} (step : State → α → State) (h : ∀ (s : State) (a : α), s.keepsQueues (step s a))
    (l : List α) (s : State) : s.keepsQueues (l.foldl step s) :=
  List.foldlRecOn l step (keepsQueues_refl s) fun t reached a _ => keepsQueues_trans reached (h t a)

/-! ### Notices, taps and channels -/

theorem told_keepsQueues (nts : Feed → List Notice) (s : State) : s.keepsQueues (told nts s) where
  lane f := by
    rw [told_lane]
    split
    · exact handed_keepsLane _ _
    · exact {}

theorem notifyIf_keepsQueues (b : Bool) (f : Feed) (nt : Notice) (s : State) : s.keepsQueues (notifyIf b f nt s) :=
  notifyIf_told b f nt s ▸ told_keepsQueues _ s

theorem notifyWhere_keepsQueues (p : Feed → Bool) (nt : Notice) (s : State) : s.keepsQueues (notifyWhere p nt s) :=
  notifyWhere_told p nt s ▸ told_keepsQueues _ s

theorem clockEvent_keepsQueues (g : Ftu → Ftu) (s : State) : s.keepsQueues (clockEvent g s) :=
  keepsQueues_trans (t := { s with ftu := g s.ftu }) {} (notifyWhere_keepsQueues _ _ _)

theorem changeTap_keepsQueues (f : Feed) (i : Input) (g : Tap → Tap) (s : State) : s.keepsQueues (changeTap f i g s) :=
  changeTap_told f i g s ▸ keepsQueues_trans {} (told_keepsQueues _ _)

theorem changeTaps_keepsQueues (f : Feed) (g : Int → Tap → Tap) (is : List Input) (s : State) :
    s.keepsQueues (changeTaps f g is s) :=
  foldl_keepsQueues _ (fun _ _ => changeTap_keepsQueues _ _ _ _) is s

/-- A change of the four taps of an input. -/
theorem changeInput_keepsQueues (i : Input) (g : Feed → Tap → Tap) (s : State) :
    s.keepsQueues (changeTap 3 i (g 3) (changeTap 2 i (g 2) (changeTap 1 i (g 1) (changeTap 0 i (g 0) s)))) :=
  keepsQueues_trans (changeTap_keepsQueues 0 i _ s) (keepsQueues_trans (changeTap_keepsQueues 1 i _ _)
    (keepsQueues_trans (changeTap_keepsQueues 2 i _ _) (changeTap_keepsQueues 3 i _ _)))

theorem setOwner_keepsQueues (new : Option Feed) (cause : OwnerCause) (i : Input) (s : State) :
    s.keepsQueues (setOwner new cause i s) := by
  unfold setOwner
  dsimp only
  split
  · exact {}
  · exact keepsQueues_trans (t := { s with hac := _ }) {} (notifyWhere_keepsQueues _ _ _)

theorem claimSeen_keepsQueues (f : Feed) (s : State) (i : Input) : s.keepsQueues (claimSeen f s i) := by
  unfold claimSeen
  split
  · exact notifyIf_keepsQueues _ _ _ _
  · exact {}

theorem regain_keepsQueues (i : Input) (s : State) : s.keepsQueues (regain i s) :=
  keepsQueues_trans (t := { s with hac := _ }) {}
    (changeInput_keepsQueues i (fun g => Tap.rebase s.ftu.frame g i _ _) _)

theorem applyPlaw_keepsQueues (s : State) : s.keepsQueues (applyPlaw s) := by
  unfold applyPlaw
  exact keepsQueues_trans (t := { s with hac := { s.hac with plt := s.hac.staging, marks := noMarks } }) {}
    (keepsQueues_trans (foldl_keepsQueues _ (fun t i => regain_keepsQueues i t) inputs _)
      (notifyWhere_keepsQueues _ _ _))

theorem act_keepsQueues (f : Feed) (e : SceneEntry) (s : State) : s.keepsQueues (e.act f s) := by
  unfold SceneEntry.act
  split
  · exact {}
  · exact changeTap_keepsQueues _ _ _ _
  · exact changeTap_keepsQueues _ _ _ _

theorem runEntries_keepsQueues (f : Feed) (es : List SceneEntry) :
    ∀ (k : Nat) (s : State) (r : SceneResult), s.keepsQueues (runEntries f k es s r).1 := by
  induction es with
  | nil => exact fun _ s _ => keepsQueues_refl s
  | cons e es ih =>
    intro k s r
    unfold runEntries
    split
    · exact keepsQueues_trans (act_keepsQueues f e s) (ih _ _ _)
    · exact ih _ _ _

/-! ### Requests -/

theorem accept_keepsQueues {r : Result} {fields : List Byte} (h : s.keepsQueues t) :
    s.keepsQueues (accept r fields t).1 := h

theorem runRequest_keepsQueues {α : Type} {k : ReqKind} {parsed : Option α} {form : α → Bool} {f : Feed}
    {body : α → State → Reply} (h : ∀ p, s.keepsQueues (body p s).1) :
    s.keepsQueues (runRequest k parsed form f body s).1 :=
  runRequest_keeps (P := s.keepsQueues) (keepsQueues_refl s) h

theorem onInputs_keepsQueues {f : Feed} {set : ChannelSet} {check : State → Input → Option Result}
    {body : List Input → State → Reply} (h : ∀ is, s.keepsQueues (body is s).1) :
    s.keepsQueues (onInputs f set check body s).1 := by
  unfold onInputs
  split
  · exact {}
  · exact h _

theorem restart_keepsQueues (s : State) : s.keepsQueues (restart s) where
  lane f := by
    show Lane.keeps _ (mapAll (fun _ l => l.restart) s.cle.lanes)[f]
    rw [mapAll_eq_tab, tab_at]
    exact restart_keepsLane _

theorem reqScnCommit_keepsQueues (f : Feed) (ps : List Byte) (s : State) : s.keepsQueues (reqScnCommit f ps s).1 := by
  have executes (es : List SceneEntry) : s.keepsQueues (executeScene f es s).1 :=
    keepsQueues_trans (t := setOpenScene f none s) {} (runEntries_keepsQueues f es 0 _ _)
  refine runRequest_keepsQueues fun mode => ?_
  repeat' split
  · exact {}
  · exact {}
  · exact executes _
  · exact executes _
  · exact {}
  · exact {}
  · exact {}

theorem reqOwnClaim_keepsQueues (f : Feed) (ps : List Byte) (s : State) : s.keepsQueues (reqOwnClaim f ps s).1 := by
  refine runRequest_keepsQueues fun set => ?_
  dsimp only
  split
  · unfold refuseAt
    dsimp only
    split
    · exact foldl_keepsQueues _ (fun _ _ => claimSeen_keepsQueues _ _ _) _ s
    · exact {}
  · exact accept_keepsQueues (foldl_keepsQueues _ (fun _ _ => setOwner_keepsQueues _ _ _ _) _ s)

/-- A request of a known kind (R146). -/
theorem executeKind_keepsQueues (f : Feed) (ps : List Byte) (k : ReqKind) (s : State) :
    s.keepsQueues (executeKind f ps k s).1 := by
  cases k with
  | devRestart =>
    refine runRequest_keepsQueues fun _ => ?_
    split
    · exact {}
    · exact accept_keepsQueues (restart_keepsQueues s)
  | clockSet =>
    refine runRequest_keepsQueues fun _ => ?_
    dsimp only
    split
    · exact {}
    · exact accept_keepsQueues (clockEvent_keepsQueues _ s)
  | tapTrim | tapMode | tapAnchor | tapMute =>
    exact runRequest_keepsQueues fun _ => onInputs_keepsQueues fun is =>
      accept_keepsQueues (changeTaps_keepsQueues f _ is s)
  | haSet =>
    exact runRequest_keepsQueues fun p => onInputs_keepsQueues fun is => accept_keepsQueues
      (foldl_keepsQueues (fun s i => setHeadAmp (p.code.map codeOf) p.pad p.phantom i s) (fun _ _ => {}) is s)
  | haNudge =>
    exact runRequest_keepsQueues fun p => onInputs_keepsQueues fun is => accept_keepsQueues
      (foldl_keepsQueues (fun s i => nudgeHeadAmp p.2 i s) (fun _ _ => {}) is s)
  | ownClaim => exact reqOwnClaim_keepsQueues f ps s
  | ownRelease | ownAssign =>
    exact runRequest_keepsQueues fun _ => onInputs_keepsQueues fun is => accept_keepsQueues
      (foldl_keepsQueues _ (fun _ _ => setOwner_keepsQueues _ _ _ _) is s)
  | lawApply =>
    refine runRequest_keepsQueues fun _ => ?_
    repeat' split
    · exact {}
    · exact {}
    · exact accept_keepsQueues (keepsQueues_trans (t := { s with tgu := _ }) {} (notifyWhere_keepsQueues _ _ _))
  | plawApply =>
    refine runRequest_keepsQueues fun _ => ?_
    repeat' split
    · exact {}
    · exact {}
    · exact accept_keepsQueues (applyPlaw_keepsQueues s)
  | scnAdd =>
    refine runRequest_keepsQueues fun p => ?_
    split
    · exact {}
    · refine onInputs_keepsQueues fun is => ?_
      dsimp only
      split <;> exact {}
  | scnCommit => exact reqScnCommit_keepsQueues f ps s
  | mtrSubscribe =>
    refine runRequest_keepsQueues fun p => ?_
    split
    · exact {}
    · exact onInputs_keepsQueues fun _ => {}
  | tapGet | haGet | clipGet | clipSet | clipAck =>
    exact runRequest_keepsQueues fun _ => onInputs_keepsQueues fun _ => {}
  | devStatus | storeSave | mapWindows | mapGet | feedGlide | lawStage | plawStage | lawGet | supervisorSet | scnOpen
  | scnCancel | scnList =>
    refine runRequest_keepsQueues fun _ => ?_
    repeat' split
    all_goals exact {}

theorem execute_keepsQueues (f : Feed) (m : Message) (s : State) : s.keepsQueues (execute f m s).1 := by
  unfold execute
  split
  · exact {}
  · exact executeKind_keepsQueues f m.params _ s

end

end Sys2Proof.Machine
end

section
/-! PROOFS. Every step keeps the queues of the control lane in bounds (R144, R145, R149). -/

-- The whole text is elaborated under a memory limit, which many threads at once would pass.
set_option Elab.async false

namespace Sys2Proof.Machine

/-! ### Lanes -/

section
variable {l : Lane}

/-- A request that arrives joins a queue of fewer than eight, or is answered while the response queue has room (R144). -/
theorem arrive_bounded (m : Message) (h : l.bounded) : (l.arrive m).bounded := by
  obtain ⟨requests, responses, notices⟩ := h
  unfold Lane.arrive
  split
  · exact ⟨by simpa using ‹l.requests.length < 8›, responses, notices⟩
  · split
    · exact ⟨requests, by simpa using ‹l.responses.length < 8›, notices⟩
    · exact ⟨requests, responses, notices⟩

theorem arriveLate_bounded (h : l.bounded) : l.arriveLate.bounded := by
  unfold Lane.arriveLate
  split
  · exact h
  · exact arrive_bounded _ h

theorem complete_bounded (late : Bool) (m : Message) (h : l.bounded) : (l.complete late m).bounded := by
  unfold Lane.complete
  split
  · exact arriveLate_bounded h
  · exact arrive_bounded m (arriveLate_bounded h)

/-- A delivery completes at most one request (R141, R142). -/
theorem deliver_bounded (late som : Bool) (bytes : List Byte) (h : l.bounded) : (l.deliver late som bytes).bounded := by
  unfold Lane.deliver
  dsimp only
  split
  · exact h
  · exact complete_bounded (l := { l with assembler := _ }) late _ h

theorem reset_bounded : Lane.reset.bounded := ⟨by decide, by decide, by decide, List.Pairwise.nil⟩

/-- The response to a request joins a queue of fewer than eight (R145). -/
theorem respond_bounded (m : Message) (room : l.responses.length < 8) (h : l.bounded) : (l.respond m).bounded := by
  obtain ⟨requests, -, notices⟩ := h
  exact ⟨requests, by simpa [Lane.respond] using room, notices⟩

/-- The head of the response queue leaves it with its last byte: no notice is being sent (R148). -/
theorem finish_response_bounded (sends : l.sendingNotice = 0) (h : l.bounded) : (l.finish .response).bounded := by
  obtain ⟨requests, responses, few, distinct⟩ := h
  rw [sends] at distinct
  refine ⟨requests, ?_, few, distinct⟩
  show l.responses.tail.length ≤ 8
  rw [List.length_tail]
  omega

/-- The head of the notice queue leaves it with its last byte: the notices behind it go on waiting (R148, R149). -/
theorem finish_notice_bounded (h : l.bounded) : (l.finish .notice).bounded := by
  obtain ⟨requests, responses, few, distinct⟩ := h
  refine ⟨requests, responses, ?_, ?_⟩
  · show l.notices.tail.length ≤ 16
    rw [List.length_tail]
    omega
  · show (l.notices.tail.drop 0).Pairwise _
    have sends : l.sendingNotice ≤ 1 := by
      unfold Lane.sendingNotice
      split <;> decide
    rw [List.drop_zero, ← List.drop_one]
    exact distinct.sublist (List.drop_sublist_drop_left _ sends)

/-- The notice that the serialiser begins to send waits no longer (R148, R149). -/
theorem sending_bounded (src : Source) (rest : List Byte) (same : l.serialiser = .idle ∨ ∃ b, l.serialiser = .sending src b)
    (h : l.bounded) : ({ l with serialiser := .sending src rest } : Lane).bounded := by
  obtain ⟨requests, responses, few, distinct⟩ := h
  refine ⟨requests, responses, few, ?_⟩
  have less : l.sendingNotice ≤ ({ l with serialiser := .sending src rest } : Lane).sendingNotice := by
    unfold Lane.sendingNotice
    rcases same with idle | ⟨b, sends⟩
    · rw [idle]
      exact Nat.zero_le _
    · rw [sends]
      cases src <;> exact Nat.le_refl _
  exact distinct.sublist (List.drop_sublist_drop_left _ less)

/-- The serialiser's bytes of one frame (R148). -/
theorem advance_bounded (h : l.bounded) : l.advance.bounded := by
  unfold Lane.advance
  split
  · exact h
  · next som src bytes outgoing =>
    have same : l.serialiser = .idle ∨ ∃ b, l.serialiser = .sending src b := by
      cases serialiser : l.serialiser with
      | idle => exact .inl rfl
      | sending src' rest =>
        simp only [Lane.outgoing, serialiser, Option.some.injEq, Prod.mk.injEq] at outgoing
        exact .inr ⟨rest, by rw [outgoing.2.1]⟩
    split
    · cases src with
      | response =>
        refine finish_response_bounded ?_ h
        rcases same with idle | ⟨b, sends⟩
        · rw [Lane.sendingNotice, idle]
        · rw [Lane.sendingNotice, sends]
      | notice => exact finish_notice_bounded h
    · exact sending_bounded src _ same h

end

/-! ### The lanes of the part -/

section
variable {s t : State} {f g : Feed}

/-- One lane changes. -/
theorem onLane_queuesBounded {change : Lane → Lane} (kept : (s.lane f).bounded → (change (s.lane f)).bounded)
    (h : s.queuesBounded) : { s with cle := s.cle.onLane f change }.queuesBounded := by
  obtain ⟨lanes, distinct⟩ := h
  refine ⟨fun k => ?_, distinct⟩
  show (upd s.cle.lanes f change)[k].bounded
  rw [upd_eq_tab, tab_at]
  split
  · next same => exact same ▸ kept (same ▸ lanes k)
  · exact lanes k

/-- Every lane changes. -/
theorem mapLanes_queuesBounded {change : Lane → Lane} (kept : ∀ l, l.bounded → (change l).bounded) (h : s.queuesBounded) :
    { s with cle := { s.cle with lanes := mapAll (fun _ l => change l) s.cle.lanes } }.queuesBounded := by
  obtain ⟨lanes, distinct⟩ := h
  refine ⟨fun k => ?_, distinct⟩
  show (mapAll (fun _ l => change l) s.cle.lanes)[k].bounded
  rw [mapAll_eq_tab, tab_at]
  exact kept _ (lanes k)

/-! ### The frame up to its requests -/

theorem effective_keepsQueues (i : Input) (s : State) : s.keepsQueues (effective i s) := by
  rcases effective_eq i s with same | ⟨v, event⟩
  · rw [same]
    exact {}
  · rw [event]
    exact keepsQueues_trans (t := { s with hac := _ }) {}
      (keepsQueues_trans (changeInput_keepsQueues i (fun _ => Tap.jump _ _) _) (notifyWhere_keepsQueues _ _ _))

theorem converterOutcome_keepsQueues (g : Group) (x : Option (List Sample)) (s : State) :
    s.keepsQueues (converterOutcome g x s) := by
  unfold converterOutcome
  exact keepsQueues_trans (t := { s with cvp := _ }) {} (notifyWhere_keepsQueues _ _ _)

theorem missingConverter_keepsQueues (g : Group) (s : State) : s.keepsQueues (missingConverter g s) := by
  unfold missingConverter
  split
  · exact {}
  · exact converterOutcome_keepsQueues g none s

theorem beforeStep_keepsQueues (s : State) : s.keepsQueues (beforeStep s) :=
  keepsQueues_trans (t := lawInEffect (mapsInForce (settleEnds s))) {}
    (keepsQueues_trans (foldl_keepsQueues _ (fun t g => missingConverter_keepsQueues g t) (List.finRange 6) _)
      (foldl_keepsQueues _ (fun t i => effective_keepsQueues i t) inputs _))

theorem takeSamples_keepsQueues (s : State) : s.keepsQueues (takeSamples s) :=
  takeSamples_told s ▸ keepsQueues_trans {} (told_keepsQueues _ _)

theorem stepTaps_keepsQueues (s : State) : s.keepsQueues (stepTaps s) := {}

theorem opened_keepsQueues (s : State) : s.keepsQueues s.opened := {}

theorem openFrame_keepsQueues (s : State) : s.keepsQueues (openFrame s) := by
  cases stepped : s.stepped with
  | true =>
    rw [openFrame_of_stepped stepped]
    exact {}
  | false =>
    rw [openFrame_eq s stepped]
    exact keepsQueues_trans (beforeStep_keepsQueues s) (keepsQueues_trans (stepTaps_keepsQueues _)
      (keepsQueues_trans (takeSamples_keepsQueues _) (opened_keepsQueues _)))

theorem meterBlock_keepsQueues (f : Feed) (ps : List (Input × Nat)) (s : State) :
    s.keepsQueues (meterBlock f ps s) := by
  unfold meterBlock
  split
  · exact {}
  · exact notifyIf_keepsQueues _ _ _ _

theorem periodEnd_keepsQueues (f : Feed) (s : State) : s.keepsQueues (periodEnd f s) := by
  unfold periodEnd
  split
  · split
    · unfold meterBlocks
      exact keepsQueues_trans (t := { s with lmu := _ }) {} (keepsQueues_trans (meterBlock_keepsQueues _ _ _)
        (keepsQueues_trans (meterBlock_keepsQueues _ _ _) (meterBlock_keepsQueues _ _ _)))
    · exact {}
  · exact {}

theorem beforeRequests_keepsQueues (s : State) : s.keepsQueues (beforeRequests s) :=
  keepsQueues_trans (openFrame_keepsQueues s) (keepsQueues_trans (periodEnd_keepsQueues 0 _)
    (keepsQueues_trans (periodEnd_keepsQueues 1 _)
      (keepsQueues_trans (periodEnd_keepsQueues 2 _) (periodEnd_keepsQueues 3 _))))

/-! ### Scenes, timers, loads and saves -/

theorem sceneDue_keepsQueues (s : State) : s.keepsQueues (sceneDue s) := by
  unfold sceneDue
  split
  · exact {}
  · split
    · exact keepsQueues_trans (t := { s with scu := _ }) {}
        (keepsQueues_trans (runEntries_keepsQueues _ _ 0 _ _) (notifyIf_keepsQueues _ _ _ _))
    · exact {}

theorem scenesDue_keepsQueues (s : State) : s.keepsQueues (scenesDue s) :=
  keepsQueues_trans (sceneDue_keepsQueues s) (keepsQueues_trans (sceneDue_keepsQueues _)
    (keepsQueues_trans (sceneDue_keepsQueues _) (sceneDue_keepsQueues _)))

theorem wordclockPresent_keepsQueues (s : State) : s.keepsQueues (wordclockPresent s) := by
  unfold wordclockPresent
  split
  · exact {}
  · exact keepsQueues_trans (t := { s with ftu := _ }) {} (clockEvent_keepsQueues _ _)

theorem wordclockAbsent_keepsQueues (s : State) : s.keepsQueues (wordclockAbsent s) := by
  unfold wordclockAbsent
  split
  · exact keepsQueues_trans (t := { s with ftu := _ }) {} (clockEvent_keepsQueues _ _)
  · exact {}

theorem busOpportunity_keepsQueues (b : Group) (s : State) : s.keepsQueues (busOpportunity b s) := {}

theorem becomeReady_keepsQueues (s : State) : s.keepsQueues (becomeReady s) := by
  unfold becomeReady
  split <;> exact {}

theorem completeLoad_keepsQueues (r : EepromRead) (s : State) : s.keepsQueues (completeLoad r s) := by
  unfold completeLoad
  split
  · next kind _ => cases kind <;> exact {}
  · exact {}

theorem completeSave_keepsQueues (x : SaveEnd) (s : State) : s.keepsQueues (completeSave x s) := by
  unfold completeSave
  split
  · exact {}
  · exact keepsQueues_trans (t := { s with sil := _ }) {} (notifyIf_keepsQueues _ _ _ _)

/-! ### Link ports -/

section
variable (f : Feed) (r : Role) (h : s.queuesBounded)
include h

theorem resetAssembler_queuesBounded : (resetAssembler f s).queuesBounded := onLane_queuesBounded id h

theorem goOnline_queuesBounded : (goOnline f r s).queuesBounded :=
  keepsQueues_bounded (clockEvent_keepsQueues _ _)
    (resetAssembler_queuesBounded (s := { s with lnk := _ }) f h)

theorem moveControl_queuesBounded : (moveControl f r s).queuesBounded :=
  resetAssembler_queuesBounded (s := { s with lnk := _ }) f h

/-- A feed that goes OFFLINE is left with an empty lane (R134). -/
theorem goOffline_queuesBounded : (goOffline f s).queuesBounded := by
  have down : (markOffline f s).queuesBounded := onLane_queuesBounded (fun _ => reset_bounded) h
  exact keepsQueues_bounded (clockEvent_keepsQueues _ _) down

theorem portUp_queuesBounded : (portUp f r s).queuesBounded := by
  unfold portUp
  split
  · exact goOnline_queuesBounded f r h
  · split
    · exact moveControl_queuesBounded f .main h
    · exact h

theorem portDown_queuesBounded : (portDown f r s).queuesBounded := by
  unfold portDown
  split
  · split
    · exact moveControl_queuesBounded f _ h
    · exact goOffline_queuesBounded f h
  · exact h

theorem takeOutcome_queuesBounded (good : Bool) : (takeOutcome f r good s).queuesBounded := by
  unfold takeOutcome
  dsimp only
  split
  · exact portUp_queuesBounded (s := { s with lnk := _ }) f r h
  · split
    · exact portDown_queuesBounded (s := { s with lnk := _ }) f r h
    · exact h

theorem takeHeld_queuesBounded : (takeHeld f r s).queuesBounded := by
  unfold takeHeld
  split
  · exact takeOutcome_queuesBounded f r h false
  · exact h

theorem deliverBytes_queuesBounded (late som : Bool) (bytes : List Byte) :
    (deliverBytes f r late som bytes s).queuesBounded := by
  unfold deliverBytes
  split
  · exact onLane_queuesBounded (deliver_bounded late som bytes) h
  · exact h

theorem portOutcome_queuesBounded (late : Bool) (o : UpOutcome) : (portOutcome f r late o s).queuesBounded := by
  unfold portOutcome
  split
  · exact takeHeld_queuesBounded f _ (takeOutcome_queuesBounded f r (deliverBytes_queuesBounded f r h late _ _) true)
  · split
    · exact h
    · exact takeHeld_queuesBounded f _ (takeOutcome_queuesBounded f r h false)

omit f r in
theorem missingLinks_queuesBounded : (missingLinks s).queuesBounded := by
  refine List.foldlRecOn (motive := State.queuesBounded) _ _ h fun t reached p _ => ?_
  unfold missingLink
  split
  · exact reached
  · exact portOutcome_queuesBounded _ _ reached _ _

end

/-! ### The round -/

/-- A grant answers its feed and leaves the other lanes to the request (R145). -/
theorem grant_lane (f g : Feed) (m : Message) (s : State) :
    (grant f m s).lane g =
      if g = f then ((execute f m s).1.lane f).respond { m with params := (execute f m s).2 }
      else (execute f m s).1.lane g := by
  show (upd (execute f m s).1.cle.lanes f _)[g] = _
  rw [upd_eq_tab_of (v := (execute f m s).1.cle.lanes) rfl, tab_at]
  rfl

theorem popRequest_keepsQueues (f : Feed) (s : State) : s.keepsQueues (popRequest f s) where
  lane g := by
    show (s.cle.lanes[g]).keeps (upd s.cle.lanes f _)[g]
    rw [upd_eq_tab, tab_at]
    split
    · exact { requests := List.tail_suffix _ }
    · exact {}

theorem grant_queuesBounded (m : Message) (room : (s.lane f).responses.length < 8) (h : s.queuesBounded) :
    (grant f m s).queuesBounded := by
  have executed := execute_keepsQueues f m s
  obtain ⟨lanes, -⟩ := keepsQueues_bounded executed h
  refine ⟨fun g => ?_, h.2.sublist (List.tail_sublist _)⟩
  rw [grant_lane]
  split
  · exact respond_bounded _ ((executed.lane f).responses ▸ room) (lanes f)
  · exact lanes g

/-- The consideration of a feed (R145). -/
theorem consider_queuesBounded (f : Feed) (h : s.queuesBounded) : (consider f s).queuesBounded := by
  have passed : (passOver s).queuesBounded := ⟨h.1, h.2.sublist (List.tail_sublist _)⟩
  unfold consider
  split
  · exact passed
  · split
    · next room =>
      have popped := popRequest_keepsQueues f s
      exact grant_queuesBounded _ ((popped.lane f).responses ▸ room) (keepsQueues_bounded popped h)
    · exact passed

theorem considers_queuesBounded (l : List Feed) (h : s.queuesBounded) :
    (l.foldl (fun t f => consider f t) s).queuesBounded :=
  List.foldlRecOn (motive := State.queuesBounded) l _ h fun _ reached f _ => consider_queuesBounded f reached

/-- The consideration of a feed leaves the other lanes to the request that it grants. -/
theorem consider_keepsLane (other : g ≠ f) : (s.lane g).keeps ((consider f s).lane g) := by
  unfold consider
  split
  · exact {}
  · next m _ _ =>
    split
    · rw [grant_lane, if_neg other]
      exact lane_keeps_trans ((popRequest_keepsQueues f s).lane g) ((execute_keepsQueues f m _).lane g)
    · exact {}

/-- The lane of a feed that is not considered. -/
theorem considers_keepsLane (l : List Feed) (others : g ∉ l) :
    (s.lane g).keeps ((l.foldl (fun t f => consider f t) s).lane g) :=
  List.foldlRecOn (motive := fun t : State => (s.lane g).keeps (t.lane g)) l _ (lane_keeps_refl _) fun _ reached _ mem =>
    lane_keeps_trans reached (consider_keepsLane (ne_of_mem_of_not_mem mem others).symm)

/-- The round up to a feed does not consider it. -/
theorem reach_keepsLane (f : Feed) (s : State) : (s.lane f).keeps ((reach f s).lane f) := by
  refine lane_keeps_trans ((beforeRequests_keepsQueues s).lane f) (considers_keepsLane _ fun mem => ?_)
  exact absurd (List.mem_takeWhile_imp (p := fun g => decide (g ≠ f)) mem) (by simp)

theorem submit_queuesBounded (f : Feed) (m : Message) (h : s.queuesBounded) : (submit f m s).queuesBounded := by
  unfold submit
  split
  · split
    · next waits =>
      obtain ⟨-, room, -⟩ := waits
      refine grant_queuesBounded m (by rw [(reach_keepsLane f s).responses]; exact room) ?_
      exact considers_queuesBounded _ (keepsQueues_bounded (beforeRequests_keepsQueues s) h)
    · exact onLane_queuesBounded (arrive_bounded m) h
  · exact h

/-! ### The frame -/

theorem afterRound_queuesBounded (h : s.queuesBounded) : (afterRound s).queuesBounded := by
  have links : (missingLinks (lateArrivals s)).queuesBounded :=
    missingLinks_queuesBounded (mapLanes_queuesBounded (fun _ => arriveLate_bounded) h)
  refine keepsQueues_bounded ?_ links
  exact keepsQueues_trans (clockEvent_keepsQueues Ftu.revertExpiry _)
    (keepsQueues_trans (clockEvent_keepsQueues Ftu.holdoverExpiry _) (keepsQueues_trans (scenesDue_keepsQueues _)
      (foldl_keepsQueues (fun t b => busOpportunity b t) (fun t b => busOpportunity_keepsQueues b t)
        (List.finRange 6) _)))

theorem transmit_queuesBounded (h : s.queuesBounded) : (transmit s).queuesBounded :=
  mapLanes_queuesBounded (s := { s with lnk := _ }) (fun _ => advance_bounded) h

/-- A round that has not begun considers the four feeds from the pointer on. -/
theorem wholeRound_nodup (p : Feed) : [p, p + 1, p + 2, p + 3].Nodup := by
  revert p
  decide

/-- The next frame's round has not begun. -/
theorem nextFrame_queuesBounded (h : s.queuesBounded) : (nextFrame s).queuesBounded :=
  ⟨h.1, wholeRound_nodup s.cle.pointer⟩

theorem tick_queuesBounded (h : s.queuesBounded) : (tick s).queuesBounded := by
  have ended : (frameEvents s).queuesBounded :=
    afterRound_queuesBounded (considers_queuesBounded _ (keepsQueues_bounded (beforeRequests_keepsQueues s) h))
  exact keepsQueues_bounded (becomeReady_keepsQueues _) (nextFrame_queuesBounded (transmit_queuesBounded ended))

theorem powerOn_queuesBounded (s : State) : (powerOn s).queuesBounded := by
  refine ⟨fun f => ?_, wholeRound_nodup 0⟩
  have empty : (powerOn s).lane f = Lane.reset := tab_at _ f
  rw [empty]
  exact reset_bounded

/-! ### Every command -/

theorem next_queuesBounded (h : s.queuesBounded)
    (e : (Host.Outcome.next s : Host.Outcome State Fault Refusal) = .next t) : t.queuesBounded := by
  cases e
  exact h

theorem exec_queuesBounded (c : Instr) (h : s.queuesBounded) (e : exec c s = .next t) : t.queuesBounded := by
  have kept {u : State} (a : s.keepsQueues u) : u.queuesBounded := keepsQueues_bounded a h
  have opened {u : State} (a : (openFrame s).keepsQueues u) : u.queuesBounded :=
    kept (keepsQueues_trans (openFrame_keepsQueues s) a)
  cases req : c.request with
  | some r =>
    obtain ⟨f, tag, kind, ps⟩ := r
    rw [exec_request req] at e
    exact next_queuesBounded (submit_queuesBounded f _ h) e
  | none =>
    cases c with
    | reset => exact next_queuesBounded (powerOn_queuesBounded s) e
    | frameTick => exact next_queuesBounded (tick_queuesBounded h) e
    | converterFrame k x => exact next_queuesBounded (kept (converterOutcome_keepsQueues k _ s)) e
    | upstreamFrame p x late => exact next_queuesBounded (portOutcome_queuesBounded _ _ h late (judgeUpstream x)) e
    | wordclockPresent => exact next_queuesBounded (kept (wordclockPresent_keepsQueues s)) e
    | wordclockAbsent => exact next_queuesBounded (kept (wordclockAbsent_keepsQueues s)) e
    | revertTimerExpiry => exact next_queuesBounded (kept (clockEvent_keepsQueues Ftu.revertExpiry s)) e
    | holdoverTimerExpiry => exact next_queuesBounded (kept (clockEvent_keepsQueues Ftu.holdoverExpiry s)) e
    | busSendOpportunity b => exact next_queuesBounded (opened (busOpportunity_keepsQueues b _)) e
    | effectiveEvent i => exact next_queuesBounded (kept (effective_keepsQueues i s)) e
    | settleMuteEnd i => exact next_queuesBounded (kept (u := settleEnd i s) {}) e
    | sceneExecution => exact next_queuesBounded (opened (sceneDue_keepsQueues _)) e
    | meterPeriodEnd f => exact next_queuesBounded (opened (periodEnd_keepsQueues f _)) e
    | pendingMapInForce f => exact next_queuesBounded (kept (u := mapInForce f s) {}) e
    | pendingLawInEffect => exact next_queuesBounded (kept (u := lawInEffect s) {}) e
    | loadComplete x => exact next_queuesBounded (kept (completeLoad_keepsQueues x s)) e
    | saveComplete x => exact next_queuesBounded (kept (completeSave_keepsQueues x s)) e
    | _ => cases req

end

/-- Settles O54: a step takes the command at the front of the queue, and every command keeps each lane's queues in bounds and
takes feeds off the round only. -/
theorem queuesStayBounded : Obligations.QueuesStayBounded := by
  intro s t h e
  unfold step at e
  split at e
  · cases e
    exact h
  · next c rest _ => exact exec_queuesBounded c (s := { s with pending := rest }) h e

end Sys2Proof.Machine
end

section
/-! PROOFS. The execution of a request does not look at the feeds that the round has still to consider (R145, R146). -/

-- The whole text is elaborated under a memory limit, which many threads at once would pass.
set_option Elab.async false

namespace Sys2Proof.Machine

/-- The round of the frame has the feeds of a list still to consider (R145). -/
def State.withLeft (left : List Feed) (s : State) : State := { s with cle := { s.cle with left := some left } }

/-- An answer from a state with another rest of the round. -/
def withLeftAfter (left : List Feed) (r : Reply) : Reply := (r.1.withLeft left, r.2)

section
variable {l : List Feed} {s : State}

@[simp] theorem withLeft_ftu : (s.withLeft l).ftu = s.ftu := rfl
@[simp] theorem withLeft_tgu : (s.withLeft l).tgu = s.tgu := rfl
@[simp] theorem withLeft_hac : (s.withLeft l).hac = s.hac := rfl
@[simp] theorem withLeft_channel (i : Input) : (s.withLeft l).channel i = s.channel i := rfl
@[simp] theorem withLeft_openScene (f : Feed) : (s.withLeft l).openScene f = s.openScene f := rfl

theorem foldl_withLeft {α : Type} {step : State → α → State} (h : ∀ s a, step (s.withLeft l) a = (step s a).withLeft l)
    (as : List α) (s : State) : as.foldl step (s.withLeft l) = (as.foldl step s).withLeft l :=
  List.foldl_hom (State.withLeft l) h

/-- A choice by what does not change, and an operation on what is chosen. -/
theorem ite_maps {α β : Type} {op : α → β} {p q : Prop} [Decidable p] [Decidable q] {a b : α} {x y : β} (same : p ↔ q)
    (yes : x = op a) (no : y = op b) : (if p then x else y) = op (if q then a else b) := by
  rw [apply_ite op]
  exact if_congr same yes no

/-! ### Notices, taps and channels -/

theorem told_withLeft (nts : Feed → List Notice) : told nts (s.withLeft l) = (told nts s).withLeft l := rfl

theorem notifyIf_withLeft (b : Bool) (f : Feed) (nt : Notice) :
    notifyIf b f nt (s.withLeft l) = (notifyIf b f nt s).withLeft l := by
  rw [notifyIf_told, notifyIf_told, told_withLeft]

theorem notifyWhere_withLeft (p : Feed → Bool) (nt : Notice) :
    notifyWhere p nt (s.withLeft l) = (notifyWhere p nt s).withLeft l := by
  rw [notifyWhere_told, notifyWhere_told, told_withLeft]

theorem clockEvent_withLeft (g : Ftu → Ftu) : clockEvent g (s.withLeft l) = (clockEvent g s).withLeft l :=
  notifyWhere_withLeft (s := { s with ftu := g s.ftu }) _ _

theorem changeTap_withLeft (f : Feed) (i : Input) (g : Tap → Tap) :
    changeTap f i g (s.withLeft l) = (changeTap f i g s).withLeft l :=
  notifyIf_withLeft (s := { s with tgu := _ }) _ f _

theorem changeTaps_withLeft (f : Feed) (g : Int → Tap → Tap) (is : List Input) :
    changeTaps f g is (s.withLeft l) = (changeTaps f g is s).withLeft l :=
  foldl_withLeft (fun s i => changeTap_withLeft f i (g (s.channel i).gain)) is s

theorem setOwner_withLeft (new : Option Feed) (cause : OwnerCause) (i : Input) :
    setOwner new cause i (s.withLeft l) = (setOwner new cause i s).withLeft l := by
  unfold setOwner
  exact ite_maps Iff.rfl rfl (notifyWhere_withLeft (s := { s with hac := _ }) _ _)

theorem claimSeen_withLeft (f : Feed) (i : Input) :
    claimSeen f (s.withLeft l) i = (claimSeen f s i).withLeft l := by
  unfold claimSeen
  simp only [withLeft_channel]
  split
  · exact notifyIf_withLeft _ _ _
  · rfl

theorem rebase_withLeft (i : Input) (d : Int) : rebase i d (s.withLeft l) = (rebase i d s).withLeft l := by
  unfold rebase
  simp only [changeTap_withLeft]
  rfl

theorem regain_withLeft (i : Input) : regain i (s.withLeft l) = (regain i s).withLeft l := by
  unfold regain
  exact rebase_withLeft (s := { s with hac := _ }) i _

/-- The preamp law in effect replaced by the staged one (R89). -/
def State.withStagedPlaw (s : State) : State := { s with hac := { s.hac with plt := s.hac.staging, marks := noMarks } }

theorem applyPlaw_eq :
    applyPlaw s = notifyWhere (fun _ => true) (.law .plt s.ftu.frame)
      (inputs.foldl (fun s i => regain i s) s.withStagedPlaw) := rfl

theorem applyPlaw_withLeft : applyPlaw (s.withLeft l) = (applyPlaw s).withLeft l := by
  have staged : (s.withLeft l).withStagedPlaw = s.withStagedPlaw.withLeft l := rfl
  rw [applyPlaw_eq, applyPlaw_eq, staged, foldl_withLeft fun _ i => regain_withLeft i, notifyWhere_withLeft,
    withLeft_ftu]

/-! ### Scenes -/

theorem act_withLeft (f : Feed) (e : SceneEntry) : e.act f (s.withLeft l) = (e.act f s).withLeft l := by
  unfold SceneEntry.act
  split
  · rfl
  · exact changeTap_withLeft _ _ _
  · exact changeTap_withLeft _ _ _

theorem runEntries_withLeft (f : Feed) (es : List SceneEntry) : ∀ (k : Nat) (s : State) (r : SceneResult),
    runEntries f k es (s.withLeft l) r = ((runEntries f k es s r).1.withLeft l, (runEntries f k es s r).2) := by
  induction es with
  | nil => exact fun _ _ _ => rfl
  | cons e es ih =>
    intro k s r
    have applies : e.applies f (s.withLeft l) = e.applies f s := rfl
    unfold runEntries
    rw [applies, act_withLeft, ih, ih]
    split <;> rfl

theorem executeScene_withLeft (f : Feed) (es : List SceneEntry) :
    executeScene f es (s.withLeft l) = withLeftAfter l (executeScene f es s) := by
  have run := runEntries_withLeft (l := l) f es 0 (setOpenScene f none s) { applied := 0, skipped := 0, first := 255 }
  unfold executeScene runScene
  rw [show setOpenScene f none (s.withLeft l) = (setOpenScene f none s).withLeft l from rfl, run]
  rfl

/-! ### The checks of a request -/

theorem accept_withLeft {t u : State} (r : Result) (fields : List Byte) (h : t = u.withLeft l) :
    accept r fields t = withLeftAfter l (accept r fields u) := by
  rw [h]
  rfl

theorem resolve_withLeft (f : Feed) (set : ChannelSet) (check : Input → Option Result) :
    (s.withLeft l).resolve f set check = s.resolve f set check := by
  have from_ (ms : List Nat) : ∀ (pos : Nat) (found : List Input),
      (s.withLeft l).resolveFrom f set.inputForm check pos found ms =
        s.resolveFrom f set.inputForm check pos found ms := by
    induction ms with
    | nil => exact fun _ _ => rfl
    | cons m ms ih =>
      intro pos found
      have translates : (s.withLeft l).translate f set.inputForm m = s.translate f set.inputForm m := rfl
      simp only [State.resolveFrom, translates, ih]
  exact from_ _ _ _

end

/-- What does not look at the rest of the round, and leaves it alone. -/
def leftBlind (g : State → Reply) : Prop := ∀ l s, g (s.withLeft l) = withLeftAfter l (g s)

section
variable {f : Feed} {ps : List Byte}

theorem runRequest_leftBlind {α : Type} {k : ReqKind} {parsed : Option α} {form : α → Bool} {body : α → State → Reply}
    (h : ∀ p, leftBlind (body p)) : leftBlind (runRequest k parsed form f body) := by
  intro l s
  unfold runRequest
  cases parsed with
  | none => rfl
  | some p => exact ite_maps Iff.rfl rfl (ite_maps Iff.rfl rfl (ite_maps Iff.rfl rfl (h p l s)))

theorem onInputs_leftBlind {set : ChannelSet} {check : State → Input → Option Result} {body : List Input → State → Reply}
    (checks : ∀ l s, check (State.withLeft l s) = check s) (h : ∀ is, leftBlind (body is)) :
    leftBlind (onInputs f set check body) := by
  intro l s
  unfold onInputs
  rw [checks, resolve_withLeft]
  split
  · rfl
  · exact h _ l s

/-! ### Every request -/

theorem reqScnCommit_leftBlind : leftBlind (reqScnCommit f ps) := by
  refine runRequest_leftBlind fun mode l s => ?_
  simp only [withLeft_openScene]
  split
  · rfl
  · rfl
  · split
    · exact executeScene_withLeft f _
    · exact ite_maps Iff.rfl (executeScene_withLeft f _)
        (ite_maps Iff.rfl rfl (ite_maps Iff.rfl rfl rfl))

theorem reqOwnClaim_leftBlind : leftBlind (reqOwnClaim f ps) := by
  refine runRequest_leftBlind fun set l s => ?_
  have check : mustHold (fun i => !(s.withLeft l).ownedElsewhere f i) .owned =
      mustHold (fun i => !s.ownedElsewhere f i) .owned := rfl
  have seen : claimsSeen f set (s.withLeft l) = (claimsSeen f set s).withLeft l :=
    foldl_withLeft (fun _ i => claimSeen_withLeft f i) (s.translated f set) s
  simp only [check, resolve_withLeft, seen]
  split
  · split <;> rfl
  · exact accept_withLeft _ _ (foldl_withLeft (fun _ _ => setOwner_withLeft _ _ _) _ s)

/-- A request of a known kind (R146). -/
theorem executeKind_leftBlind (k : ReqKind) : leftBlind (executeKind f ps k) := by
  cases k with
  | devStatus | mapGet | feedGlide | scnList => exact runRequest_leftBlind fun _ _ _ => rfl
  | tapGet | haGet | clipGet | clipSet | clipAck =>
    exact runRequest_leftBlind fun _ => onInputs_leftBlind (fun _ _ => rfl) fun _ _ _ => rfl
  | tapTrim | tapMode | tapAnchor | tapMute =>
    exact runRequest_leftBlind fun _ => onInputs_leftBlind (fun _ _ => rfl) fun is _ _ =>
      accept_withLeft _ _ (changeTaps_withLeft f _ is)
  | haSet =>
    exact runRequest_leftBlind fun p => onInputs_leftBlind (fun _ _ => rfl) fun is _ s => accept_withLeft _ _
      (foldl_withLeft (step := fun s i => setHeadAmp (p.code.map codeOf) p.pad p.phantom i s) (fun _ _ => rfl) is s)
  | haNudge =>
    exact runRequest_leftBlind fun p => onInputs_leftBlind (fun _ _ => rfl) fun is _ s => accept_withLeft _ _
      (foldl_withLeft (step := fun s i => nudgeHeadAmp p.2 i s) (fun _ _ => rfl) is s)
  | ownClaim => exact reqOwnClaim_leftBlind
  | ownRelease | ownAssign =>
    exact runRequest_leftBlind fun _ => onInputs_leftBlind (fun _ _ => rfl) fun is _ s => accept_withLeft _ _
      (foldl_withLeft (fun _ _ => setOwner_withLeft _ _ _) is s)
  | clockSet =>
    refine runRequest_leftBlind fun p l s => ?_
    dsimp only
    split
    · rfl
    · next x _ =>
      have set : setClock x p.lengths (s.withLeft l) = (setClock x p.lengths s).withLeft l := clockEvent_withLeft _
      rw [set]
      rfl
  | lawApply =>
    refine runRequest_leftBlind fun _ l s => ite_maps Iff.rfl rfl ?_
    simp only [withLeft_tgu]
    split
    · rfl
    · exact accept_withLeft _ _ (notifyWhere_withLeft (s := { s with tgu := _ }) _ _)
  | plawApply =>
    refine runRequest_leftBlind fun _ l s => ite_maps Iff.rfl rfl ?_
    simp only [withLeft_hac]
    split
    · rfl
    · exact accept_withLeft _ _ applyPlaw_withLeft
  | scnCommit => exact reqScnCommit_leftBlind
  | scnAdd =>
    refine runRequest_leftBlind fun p l s => ?_
    simp only [withLeft_openScene]
    split
    · rfl
    · refine onInputs_leftBlind (fun _ _ => rfl) (fun is _ _ => ?_) l s
      split <;> rfl
  | mtrSubscribe =>
    refine runRequest_leftBlind fun p l s => ?_
    split
    · rfl
    · exact onInputs_leftBlind (fun _ _ => rfl) (fun _ _ _ => rfl) l s
  | devRestart | storeSave | lawStage | plawStage => exact runRequest_leftBlind fun _ _ _ => ite_maps Iff.rfl rfl rfl
  | lawGet => exact runRequest_leftBlind fun _ _ _ => ite_maps Iff.rfl rfl (ite_maps Iff.rfl rfl rfl)
  | mapWindows =>
    refine runRequest_leftBlind fun _ l s => ?_
    split <;> rfl
  | supervisorSet =>
    refine runRequest_leftBlind fun _ l s => ?_
    split
    · rfl
    · exact ite_maps Iff.rfl rfl rfl
  | scnOpen =>
    refine runRequest_leftBlind fun _ l s => ?_
    simp only [withLeft_openScene]
    split <;> rfl
  | scnCancel =>
    refine runRequest_leftBlind fun _ l s => ?_
    simp only [withLeft_openScene]
    split
    · split <;> rfl
    · exact ite_maps Iff.rfl rfl rfl

theorem execute_leftBlind (m : Message) : leftBlind (execute f m) := by
  intro l s
  unfold execute
  split
  · rfl
  · exact executeKind_leftBlind _ l s

end

end Sys2Proof.Machine
end

section
/-! PROOFS. The arbiter's round (R145): the feeds it considers one after another, and what each consideration does. -/

-- The whole text is elaborated under a memory limit, which many threads at once would pass.
set_option Elab.async false

namespace Sys2Proof.Machine

/-- Feed `f` has a request waiting and room for its response (R145). -/
def State.eligible (s : State) (f : Feed) : Prop := (s.lane f).requests ≠ [] ∧ (s.lane f).responses.length < 8

/-! ### One consideration -/

section
variable {f g : Feed} {s t : State}

/-- A feed that is not eligible is passed over (R145). -/
theorem consider_ineligible {rest : List Feed} (left : s.roundLeft = g :: rest) (h : ¬ s.eligible f) :
    consider f s = s.withLeft rest := by
  rw [show rest = s.roundLeft.tail by rw [left]; rfl]
  refine consider_passes f s ?_
  by_cases empty : (s.lane f).requests = []
  · exact .inl empty
  · exact .inr (Nat.le_of_not_lt fun room => h ⟨empty, room⟩)

/-- The oldest request of an eligible feed is executed and answered (R145). -/
theorem consider_eligible {m : Message} {rest : List Message} (waits : (s.lane f).requests = m :: rest)
    (room : (s.lane f).responses.length < 8) :
    consider f s =
      answered f m.tag m.kind (execute f m (popRequest f s)).2 (execute f m (popRequest f s)).1 := by
  rw [consider_grants f s m rest waits room, grant_executes]

theorem popRequest_eq {m : Message} {rest : List Message} (waits : (s.lane f).requests = m :: rest) :
    popRequest f s =
      { s with cle := { s.cle with lanes := tab fun g =>
        if g = f then { s.lane f with requests := rest } else s.lane g } } := by
  rw [popRequest, onLane_eq (l := { s.lane f with requests := rest }) (by rw [waits]; rfl)]

/-- A feed that is not eligible does not become so by what leaves its lane with no more requests and no fewer responses. -/
theorem ineligible_of_keeps (kept : (s.lane f).keeps (t.lane f)) (h : ¬ s.eligible f) : ¬ t.eligible f := by
  rintro ⟨waits, room⟩
  refine h ⟨fun empty => waits ?_, kept.responses ▸ room⟩
  exact List.suffix_nil.1 (empty ▸ kept.requests)

/-- A consideration takes requests off the front of queues only. -/
theorem consider_requests (f g : Feed) (s : State) : ((consider f s).lane g).requests <:+ (s.lane g).requests := by
  by_cases same : g = f
  · subst same
    unfold consider
    split
    · exact List.suffix_rfl
    · split
      · rw [grant_lane, if_pos rfl]
        exact (lane_keeps_trans ((popRequest_keepsQueues g s).lane g) ((execute_keepsQueues g _ _).lane g)).requests
      · exact List.suffix_rfl
  · exact (consider_keepsLane same).requests

/-- A consideration gives its feed at most one response. -/
theorem consider_responses (f : Feed) (s : State) :
    ∃ r : List Message, ((consider f s).lane f).responses = (s.lane f).responses ++ r ∧ r.length ≤ 1 := by
  have none : ∃ r : List Message, (s.lane f).responses = (s.lane f).responses ++ r ∧ r.length ≤ 1 :=
    ⟨[], (List.append_nil _).symm, Nat.zero_le 1⟩
  unfold consider
  split
  · exact none
  · next m _ _ =>
    split
    · have kept := lane_keeps_trans ((popRequest_keepsQueues f s).lane f) ((execute_keepsQueues f m _).lane f)
      rw [grant_lane, if_pos rfl, ← kept.responses]
      exact ⟨[_], rfl, Nat.le_refl 1⟩
    · exact none

end

/-! ### The round -/

theorem round_requests (s : State) (f : Feed) : ((round s).lane f).requests <:+ (s.lane f).requests :=
  List.foldlRecOn (motive := fun t : State => (t.lane f).requests <:+ (s.lane f).requests) s.roundLeft _
    List.suffix_rfl fun t reached g _ => (consider_requests g f t).trans reached

/-- Feeds considered one after another, none twice, get at most one response each. -/
theorem considers_responses {l : List Feed} (distinct : l.Nodup) (f : Feed) (s : State) :
    ∃ r : List Message, ((l.foldl (fun s f => consider f s) s).lane f).responses = (s.lane f).responses ++ r ∧
      r.length ≤ 1 := by
  induction l generalizing s with
  | nil => exact ⟨[], (List.append_nil _).symm, Nat.zero_le 1⟩
  | cons g l ih =>
    obtain ⟨fresh, distinct⟩ := List.nodup_cons.1 distinct
    rw [List.foldl_cons]
    by_cases same : f = g
    · subst same
      rw [(considers_keepsLane l fresh).responses]
      exact consider_responses f s
    · rw [← (consider_keepsLane (s := s) same).responses]
      exact ih distinct (consider g s)

section
variable {f : Feed} {s : State}

/-- A round without an eligible feed passes every feed over. -/
theorem round_idle {l : List Feed} (left : s.roundLeft = l) (idle : ∀ f ∈ l, ¬ s.eligible f) :
    round s = s.withLeft [] := by
  induction l generalizing s with
  | nil =>
    have same : s.cle.left = some [] := by
      unfold State.roundLeft at left
      cases begun : s.cle.left with
      | none => rw [begun] at left; cases left
      | some l => rw [begun] at left; exact congrArg some left
    rw [round_done s left, State.withLeft, ← same]
  | cons f l ih =>
    obtain ⟨first, rest⟩ := List.forall_mem_cons.1 idle
    rw [round_next s f l left, consider_ineligible left first]
    exact ih (s := s.withLeft l) rfl rest

/-- A round whose one eligible feed is `f` executes and answers its oldest request, and nothing else. -/
theorem round_lone {m : Message} {rest : List Message} {l : List Feed} (left : s.roundLeft = l) (distinct : l.Nodup)
    (mem : f ∈ l) (waits : (s.lane f).requests = m :: rest) (room : (s.lane f).responses.length < 8)
    (alone : ∀ g, g ≠ f → ¬ s.eligible g) :
    round s =
      (answered f m.tag m.kind (execute f m (popRequest f s)).2 (execute f m (popRequest f s)).1).withLeft [] := by
  induction l generalizing s with
  | nil => exact absurd mem List.not_mem_nil
  | cons g l ih =>
    obtain ⟨fresh, distinct⟩ := List.nodup_cons.1 distinct
    rw [round_next s g l left]
    by_cases same : f = g
    · subst same
      rw [← consider_eligible waits room]
      refine round_idle (l := l) (by rw [consider_roundLeft, left]; rfl) fun g mem => ?_
      have other : g ≠ f := ne_of_mem_of_not_mem mem fresh
      exact ineligible_of_keeps (consider_keepsLane other) (alone g other)
    · have mem : f ∈ l := List.mem_of_ne_of_mem same mem
      have popped : popRequest f (s.withLeft l) = (popRequest f s).withLeft l := rfl
      rw [consider_ineligible left (alone g (Ne.symm same)),
        ih (s := s.withLeft l) rfl distinct mem waits room alone, popped, execute_leftBlind m l (popRequest f s)]
      rfl

end

/-- Settles O32: feed after feed, a consideration grants or passes over, and the rest follows along the list of feeds. -/
theorem roundGrantsEachFeedOnce : Obligations.RoundGrantsEachFeedOnce := by
  intro s p left eligible considered popped
  have isLeft : s.roundLeft = left := by
    unfold left State.roundLeft
    cases s.cle.left <;> rfl
  have isPopped {f : Feed} {m : Message} {rest : List Message} (waits : (s.lane f).requests = m :: rest) :
      popRequest f s = popped f rest := popRequest_eq waits
  refine ⟨isLeft, fun done => round_done s (isLeft.trans done), ?_, ?_, fun _ => rfl, round_requests s, ?_, ?_⟩
  · intro f rest next
    rw [next] at isLeft
    refine ⟨fun idle => ?_, fun m more waits ⟨_, room⟩ => ?_⟩
    · have passed : consider f s = considered rest s := consider_ineligible isLeft idle
      rw [← passed]
      exact ⟨round_next s f rest isLeft, fun g other => roundUpTo_next g f s rest isLeft (Ne.symm other)⟩
    · intro r t
      have granted : consider f s = t := by
        rw [consider_eligible waits room, isPopped waits]
      rw [← granted]
      refine ⟨by rw [consider_left, isLeft]; rfl, round_next s f rest isLeft,
        fun g other => roundUpTo_next g f s rest isLeft (Ne.symm other)⟩
  · intro f stops
    exact roundUpTo_stop f s (isLeft ▸ stops)
  · intro idle
    exact round_idle isLeft idle
  · intro distinct
    refine ⟨fun f => considers_responses (isLeft ▸ distinct) f s, ?_⟩
    intro f m rest mem able alone waits r
    rw [round_lone isLeft distinct mem waits able.2 alone, isPopped waits]
    rfl

end Sys2Proof.Machine
end

section
/-! PROOFS. DEV_STATUS (R136, R150). -/

-- The whole text is elaborated under a memory limit, which many threads at once would pass.
set_option Elab.async false

namespace Sys2Proof.Machine

/-! ### The status bytes -/

theorem bit_ready (s : State) : bit (!s.loading) = if s.sil.load = .ready then 1 else 0 := by
  by_cases ready : s.sil.load = .ready <;> simp [State.loading, ready, bit]

theorem bit_isSome {α : Type} [DecidableEq α] (o : Option α) : bit o.isSome = if o = none then 0 else 1 := by
  cases o <;> rfl

theorem clock_sourceByte_eq (x : ClockState) :
    x.sourceByte = match x with
      | .locked .internal => 0
      | .locked .wordclock => 1
      | .locked (.feed k) => BitVec.ofNat 8 (k.val + 2)
      | _ => 255 := by
  cases x with
  | locked c =>
    cases c with
    | feed k => exact congrArg (BitVec.ofNat 8) (Nat.add_comm 2 k.val)
    | _ => rfl
  | holdover => rfl
  | free => rfl

/-! ### The request -/

/-- DEV_STATUS in any load state: the status as it stands, and the feed's RESYNC flag cleared (R136, R150). -/
theorem devStatus_executes (f : Feed) (u : State) :
    executeKind f [] .devStatus u =
      ({ u with lnk := { u.lnk with feeds := tab fun g =>
          if g = f then { u.lnk.feeds[f] with resync := false } else u.lnk.feeds[g] } },
        0 :: u.statusBytes f) := by
  have passes : executeKind f [] .devStatus u =
      ({ u with lnk := u.lnk.onFeed f fun r => { r with resync := false } }, 0 :: u.statusBytes f) := by
    show reqDevStatus f [] u = _
    rw [reqDevStatus, parseNone_nil]
    exact runRequest_passes .devStatus () noSet f _ u (.inr rfl) (fun h => nomatch h) fun h => nomatch h
  rw [passes, Lnk.onFeed, upd_eq_tab_of (v := u.lnk.feeds) (x := { u.lnk.feeds[f] with resync := false }) rfl]

/-- Settles O34. -/
theorem devStatusReportsAndClearsResync : Obligations.DevStatusReportsAndClearsResync := by
  intro s f tag serves u code source
  have answer : exec (.devStatus f tag []) s = .next (answered f tag 0x01 (0 :: u.statusBytes f)
      { u with lnk := { u.lnk with feeds := tab fun g =>
        if g = f then { u.lnk.feeds[f] with resync := false } else u.lnk.feeds[g] } }) :=
    exec_answers (k := .devStatus) rfl serves (devStatus_executes f u)
  rw [answer]
  -- From here on nothing evaluates the frame step that `u` stands for.
  clear_value u
  have codes : u.ftu.clock.byte = code u.ftu.clock := by cases u.ftu.clock <;> rfl
  have sources : u.ftu.clock.sourceByte = source u.ftu.clock := clock_sourceByte_eq _
  unfold State.statusBytes
  simp only [bit_ready, bit_isSome, codes, sources]
  rfl

end Sys2Proof.Machine
end

section
/-! PROOFS. What the parameters of a request must be, kind by kind (R14, R23, R30, R45, R47, R51 to R53, R65, R66, R69, R75 to
R77, R87, R88, R97, R101 to R103, R110, R111, R115, R120, R121, R150, R153, R158, R159, R165, R166). -/

-- The whole text is elaborated under a memory limit, which many threads at once would pass.
set_option Elab.async false

namespace Sys2Proof.Machine

/-! ### Small fields -/

theorem parseBit_takes (b : Byte) : (parseBit b).isSome = true ↔ b.toNat ≤ 1 := by
  revert b
  decide

theorem clipMode_takes (n : Nat) : (ClipMode.ofCode n).isSome = true ↔ n ≤ 2 := by
  unfold ClipMode.ofCode
  split
  · decide
  · decide
  · decide
  · next no0 no1 no2 =>
    refine ⟨fun h => (nomatch h), fun few => ?_⟩
    interval_cases n
    · exact absurd rfl no0
    · exact absurd rfl no1
    · exact absurd rfl no2

/-! ### Lists of bytes without a channel set -/

theorem parseByte_takes (ps : List Byte) : (parseByte ps).isSome = true ↔ ps.length = 1 := by
  match ps with
  | [] | [_] | _ :: _ :: _ => simp [parseByte]

theorem parseLawGet_takes (ps : List Byte) : (parseLawGet ps).isSome = true ↔ ps.length = 3 := by
  match ps with
  | [] | [_] | [_, _] | [_, _, _] | _ :: _ :: _ :: _ :: _ => simp [parseLawGet]

theorem parseStage_takes (k n : Nat) (ps : List Byte) : (parseStage k n ps).isSome = true ↔ ps.length = 1 + k * n := by
  cases ps with
  | nil =>
    simp only [parseStage, Option.isSome_none, Bool.false_eq_true, List.length_nil, false_iff]
    omega
  | cons block rest =>
    simp only [parseStage, List.length_cons, Option.isSome_ite]
    omega

theorem parseWindows_takes (ps : List Byte) :
    (parseWindows ps).isSome = true ↔ ∃ n rest, ps = n :: rest ∧ n.toNat ≤ 8 ∧ rest.length = 4 * n.toNat := by
  cases ps with
  | nil => simp [parseWindows]
  | cons n rest => simp [parseWindows]

theorem parseClockSet_takes (ps : List Byte) :
    (parseClockSet ps).isSome = true ↔
      ∃ n rest, ps = n :: rest ∧ n.toNat ≤ 4 ∧ (rest.length = n.toNat ∨ rest.length = n.toNat + 3) := by
  cases ps with
  | nil => simp [parseClockSet]
  | cons n rest =>
    have cons_iff : (∃ n' rest', n :: rest = n' :: rest' ∧ n'.toNat ≤ 4 ∧
        (rest'.length = n'.toNat ∨ rest'.length = n'.toNat + 3)) ↔
        n.toNat ≤ 4 ∧ (rest.length = n.toNat ∨ rest.length = n.toNat + 3) := by simp
    rw [cons_iff]
    by_cases many : 4 < n.toNat
    · simp [parseClockSet, many]
    · by_cases bare : rest.length = n.toNat
      · simp [parseClockSet, many, bare]
        omega
      · have lengths : (∃ a b c, rest.drop n.toNat = [a, b, c]) ↔ rest.length = n.toNat + 3 := by
          rw [← List.length_eq_three, List.length_drop]
          omega
        rw [parseClockSet, if_neg many, if_neg bare, or_iff_right bare, ← lengths, and_iff_right (Nat.le_of_not_lt many)]
        split
        · next a b c timers => simp [timers]
        · next other => simpa using other

theorem parseCommit_takes (ps : List Byte) :
    (parseCommit ps).isSome = true ↔ ps = [0] ∨ ∃ a b c d, ps = [1, a, b, c, d] := by
  match ps with
  | [] | [_, _] | [_, _, _] | [_, _, _, _] | _ :: _ :: _ :: _ :: _ :: _ :: _ => simp [parseCommit]
  | [m] => simp [parseCommit]
  | [m, a, b, c, d] => simp [parseCommit]

theorem parseCancel_takes (ps : List Byte) : (parseCancel ps).isSome = true ↔ ps = [0] ∨ ∃ id, ps = [1, id] := by
  match ps with
  | [] | _ :: _ :: _ :: _ => simp [parseCancel]
  | [m] => simp [parseCancel]
  | [m, id] => simp [parseCancel]

/-! ### Head-amp fields -/

/-- The presence byte and the present fields of a head-amp change (R75). -/
def headAmpFields (bytes : List Byte) : Prop :=
  ∃ presence : Byte, ∃ code pad phantom : List Byte, bytes = presence :: (code ++ pad ++ phantom) ∧
    1 ≤ presence.toNat ∧ presence.toNat ≤ 7 ∧ code.length = (presence.getLsbD 0).toNat ∧
    pad.length = (presence.getLsbD 1).toNat ∧ phantom.length = (presence.getLsbD 2).toNat ∧
    ∀ b ∈ pad ++ phantom, b.toNat ≤ 1

/-- A list with an entry only when a bit is set, as an optional entry. -/
theorem optional_of_length {l : List Byte} {bit : Bool} (h : l.length = bit.toNat) :
    ∃ o : Option Byte, l = o.toList ∧ o.isSome = bit := by
  cases bit with
  | false => exact ⟨none, List.length_eq_zero_iff.1 h, rfl⟩
  | true =>
    obtain ⟨b, rfl⟩ := List.length_eq_one_iff.1 h
    exact ⟨some b, rfl, rfl⟩

theorem optional_takes (o : Option Byte) : o.any (fun b => (parseBit b).isNone) = false ↔ ∀ b ∈ o.toList, b.toNat ≤ 1 := by
  cases o with
  | none => simp
  | some b => simp [← parseBit_takes]

/-- Fields of the lengths that the presence byte asks for: they are taken when pad and phantom are bits (R75). -/
theorem parseHeadAmp_lengths {presence : Byte} {code pad phantom : List Byte} (low : 1 ≤ presence.toNat)
    (high : presence.toNat ≤ 7) (codeLength : code.length = (presence.getLsbD 0).toNat)
    (padLength : pad.length = (presence.getLsbD 1).toNat) (phantomLength : phantom.length = (presence.getLsbD 2).toNat) :
    (parseHeadAmp (presence :: (code ++ pad ++ phantom))).isSome = true ↔ ∀ b ∈ pad ++ phantom, b.toNat ≤ 1 := by
  have inRange : ¬ (presence = 0 ∨ 7 < presence.toNat) := by
    rintro (rfl | above)
    · exact absurd low (by decide)
    · omega
  have length : (code ++ pad ++ phantom).length =
      (presence.getLsbD 0).toNat + (presence.getLsbD 1).toNat + (presence.getLsbD 2).toNat := by
    rw [List.length_append, List.length_append, codeLength, padLength, phantomLength]
  obtain ⟨c, rfl, hc⟩ := optional_of_length codeLength
  obtain ⟨p, rfl, hp⟩ := optional_of_length padLength
  obtain ⟨q, rfl, hq⟩ := optional_of_length phantomLength
  have readPad := readOptional c.toList p q.toList
  have readPhantom := readOptional (c.toList ++ p.toList) q []
  rw [codeLength, ← List.append_assoc, hp] at readPad
  rw [List.append_nil, List.length_append, codeLength, padLength, hq] at readPhantom
  unfold parseHeadAmp
  dsimp only
  rw [if_neg inRange, if_neg (not_not.2 length), readPad, readPhantom]
  have bits : (p.any (fun b => (parseBit b).isNone) || q.any (fun b => (parseBit b).isNone)) = false ↔
      ∀ b ∈ p.toList ++ q.toList, b.toNat ≤ 1 := by
    rw [Bool.or_eq_false_iff, optional_takes, optional_takes, List.forall_mem_append]
  rw [← bits]
  split
  · next lost => exact ⟨fun h => (nomatch h), fun kept => nomatch kept.symm.trans lost⟩
  · next kept => exact ⟨fun _ => Bool.eq_false_iff.2 kept, fun _ => rfl⟩

/-- A list in three parts, by the lengths of the first two. -/
theorem parts_of_length {l : List Byte} {a b c : Nat} (h : l.length = a + b + c) :
    ∃ x y z : List Byte, l = x ++ y ++ z ∧ x.length = a ∧ y.length = b ∧ z.length = c := by
  refine ⟨l.take a, (l.drop a).take b, (l.drop a).drop b, ?_, ?_, ?_, ?_⟩
  · rw [List.append_assoc, List.take_append_drop, List.take_append_drop]
  · rw [List.length_take]
    omega
  · rw [List.length_take, List.length_drop]
    omega
  · rw [List.length_drop, List.length_drop]
    omega

theorem parseHeadAmp_outside {presence : Byte} (h : presence = 0 ∨ 7 < presence.toNat) (rest : List Byte) :
    parseHeadAmp (presence :: rest) = none := if_pos h

theorem parseHeadAmp_wrongLength {presence : Byte} {rest : List Byte}
    (h : rest.length ≠ (presence.getLsbD 0).toNat + (presence.getLsbD 1).toNat + (presence.getLsbD 2).toNat) :
    parseHeadAmp (presence :: rest) = none := by
  by_cases outside : presence = 0 ∨ 7 < presence.toNat
  · exact parseHeadAmp_outside outside rest
  · unfold parseHeadAmp
    dsimp only
    rw [if_neg outside, if_pos h]

theorem parseHeadAmp_takes (bytes : List Byte) : (parseHeadAmp bytes).isSome = true ↔ headAmpFields bytes := by
  constructor
  · intro taken
    cases bytes with
    | nil => cases taken
    | cons presence rest =>
      by_cases outside : presence = 0 ∨ 7 < presence.toNat
      · rw [parseHeadAmp_outside outside] at taken
        cases taken
      · by_cases length : rest.length =
            (presence.getLsbD 0).toNat + (presence.getLsbD 1).toNat + (presence.getLsbD 2).toNat
        · obtain ⟨nonzero, high⟩ := not_or.1 outside
          have low : 1 ≤ presence.toNat := by bv_omega
          have high : presence.toNat ≤ 7 := Nat.le_of_not_lt high
          obtain ⟨code, pad, phantom, rfl, codeLength, padLength, phantomLength⟩ := parts_of_length length
          exact ⟨presence, code, pad, phantom, rfl, low, high, codeLength, padLength, phantomLength,
            (parseHeadAmp_lengths low high codeLength padLength phantomLength).1 taken⟩
        · rw [parseHeadAmp_wrongLength length] at taken
          cases taken
  · rintro ⟨presence, code, pad, phantom, rfl, low, high, codeLength, padLength, phantomLength, bits⟩
    exact (parseHeadAmp_lengths low high codeLength padLength phantomLength).2 bits

/-! ### A channel set and what follows it -/

/-- Parameters that begin with a channel set, followed by bytes with a property. -/
def beginsWithSet (rest : List Byte → Prop) (ps : List Byte) : Prop :=
  ∃ x bytes, parseSet ps = some (x, bytes) ∧ rest bytes

/-- Parameters that must begin with a channel set: those with none are not taken, and those with one by the bytes after it. -/
theorem takes_of_set {α : Type} {read : Option α} {rest : List Byte → Prop} {ps : List Byte}
    (without : parseSet ps = none → read = none)
    (after : ∀ x bytes, parseSet ps = some (x, bytes) → (read.isSome = true ↔ rest bytes)) :
    read.isSome = true ↔ beginsWithSet rest ps := by
  cases parses : parseSet ps with
  | none =>
    rw [without parses]
    refine ⟨fun h => (nomatch h), ?_⟩
    rintro ⟨x, bytes, h, -⟩
    exact nomatch parses.symm.trans h
  | some r =>
    obtain ⟨x, bytes⟩ := r
    rw [after x bytes parses]
    refine ⟨fun h => ⟨x, bytes, parses, h⟩, ?_⟩
    rintro ⟨x', bytes', h, rest⟩
    cases parses.symm.trans h
    exact rest

theorem parseSetAlone_takes (ps : List Byte) : (parseSetAlone ps).isSome = true ↔ beginsWithSet (fun b => b = []) ps := by
  refine takes_of_set (fun h => by rw [parseSetAlone, h]) fun x bytes h => ?_
  rw [parseSetAlone, h]
  cases bytes <;> simp

theorem parseTrim_takes (ps : List Byte) :
    (parseTrim ps).isSome = true ↔ beginsWithSet (fun b => ∃ kind hi lo : Byte, b = [kind, hi, lo] ∧ kind.toNat ≤ 1) ps := by
  refine takes_of_set (fun h => by rw [parseTrim, h]) fun x bytes h => ?_
  rw [parseTrim, h]
  match bytes with
  | [] | [_] | [_, _] | _ :: _ :: _ :: _ :: _ => simp
  | [kind, hi, lo] => simp [parseBit_takes]

theorem parseSetBit_takes (ps : List Byte) :
    (parseSetBit ps).isSome = true ↔ beginsWithSet (fun b => ∃ x : Byte, b = [x] ∧ x.toNat ≤ 1) ps := by
  refine takes_of_set (fun h => by rw [parseSetBit, h]) fun x bytes h => ?_
  rw [parseSetBit, h]
  match bytes with
  | [] | _ :: _ :: _ => simp
  | [b] => simp [parseBit_takes]

theorem parseHaSet_takes (ps : List Byte) : (parseHaSet ps).isSome = true ↔ beginsWithSet headAmpFields ps := by
  refine takes_of_set (fun h => by rw [parseHaSet, h]) fun x bytes h => ?_
  rw [parseHaSet, h, ← parseHeadAmp_takes]
  exact iff_of_eq (congrArg (· = true) Option.isSome_map)

theorem parseNudge_takes (ps : List Byte) :
    (parseNudge ps).isSome = true ↔
      beginsWithSet (fun b => ∃ d : Byte, b = [d] ∧ -63 ≤ d.toInt ∧ d.toInt ≤ 63) ps := by
  refine takes_of_set (fun h => by rw [parseNudge, h]) fun x bytes h => ?_
  rw [parseNudge, h]
  match bytes with
  | [] | _ :: _ :: _ => simp
  | [d] => simp 

theorem parseAssign_takes (ps : List Byte) :
    (parseAssign ps).isSome = true ↔ beginsWithSet (fun b => ∃ x : Byte, b = [x] ∧ x.toNat ≤ 4) ps := by
  refine takes_of_set (fun h => by rw [parseAssign, h]) fun x bytes h => ?_
  rw [parseAssign, h]
  match bytes with
  | [] | _ :: _ :: _ => simp
  | [b] => simp 

theorem parseClipSet_takes (ps : List Byte) :
    (parseClipSet ps).isSome = true ↔
      beginsWithSet (fun b => b.length = 7 ∧ ∃ m : Byte, b.head? = some m ∧ m.toNat ≤ 2) ps := by
  refine takes_of_set (fun h => by rw [parseClipSet, h]) fun x bytes h => ?_
  rw [parseClipSet, h]
  match bytes with
  | [] | [_] | [_, _] | [_, _, _] | [_, _, _, _] | [_, _, _, _, _] | [_, _, _, _, _, _]
  | _ :: _ :: _ :: _ :: _ :: _ :: _ :: _ :: _ => simp
  | [m, _, _, _, _, _, _] => simp [clipMode_takes]

/-- The value of a scene entry, by its kind (R111). -/
def entryFields (kind : Byte) (bytes : List Byte) : Prop :=
  kind = 0 ∧ headAmpFields bytes ∨ kind = 1 ∧ bytes.length = 2 ∨ kind = 2 ∧ ∃ x : Byte, bytes = [x] ∧ x.toNat ≤ 1

theorem parseEntryValue_takes (kind : Byte) (bytes : List Byte) :
    (parseEntryValue kind bytes).isSome = true ↔ entryFields kind bytes := by
  have number (n : Nat) (small : n < 256) : kind = BitVec.ofNat 8 n ↔ kind.toNat = n := by
    rw [← BitVec.toNat_inj, BitVec.toNat_ofNat, Nat.mod_eq_of_lt small]
  have isZero : kind = 0 ↔ kind.toNat = 0 := number 0 (by decide)
  have isOne : kind = 1 ↔ kind.toNat = 1 := number 1 (by decide)
  have isTwo : kind = 2 ↔ kind.toNat = 2 := number 2 (by decide)
  rw [entryFields, isZero, isOne, isTwo]
  unfold parseEntryValue
  split
  · next zero => simp [zero, parseHeadAmp_takes]
  · next one => simp [one]
  · next two => simp [two, parseBit_takes]
  · next zero one two =>
    refine ⟨fun h => (nomatch h), ?_⟩
    rintro (⟨kind, -⟩ | ⟨kind, length⟩ | ⟨kind, x, bytes, -⟩)
    · exact absurd kind zero
    · obtain ⟨hi, lo, bytes⟩ := List.length_eq_two.1 length
      exact absurd bytes (one hi lo kind)
    · exact absurd bytes (two x kind)

theorem parseScnAdd_takes (ps : List Byte) :
    (parseScnAdd ps).isSome = true ↔
      ∃ kind rest, ps = kind :: rest ∧ beginsWithSet (entryFields kind) rest := by
  cases ps with
  | nil => simp [parseScnAdd]
  | cons kind rest =>
    have taken : (parseScnAdd (kind :: rest)).isSome = true ↔ beginsWithSet (entryFields kind) rest := by
      refine takes_of_set (fun h => by rw [parseScnAdd, h]) fun x bytes h => ?_
      rw [parseScnAdd, h, ← parseEntryValue_takes]
      exact iff_of_eq (congrArg (· = true) Option.isSome_map)
    rw [taken]
    simp

theorem parseSubscribe_takes (ps : List Byte) :
    (parseSubscribe ps).isSome = true ↔
      ∃ p rest, ps = p :: rest ∧ (rest = [] ∨ beginsWithSet (fun b => b = []) rest) := by
  match ps with
  | [] => simp [parseSubscribe]
  | [p] => simp [parseSubscribe]
  | p :: b :: rest => simp [parseSubscribe, ← parseSetAlone_takes]

/-- A set of SINGLE shape (R30). -/
theorem parseSet_of_single {ps after : List Byte} {x : ChannelSet} (h : parseSet ps = some (x, after))
    (single : x.single = true) : ∃ form m : Byte, ps = form :: m :: after ∧ (form = 0 ∨ form = 0x80) := by
  have forms (form : Byte) : form &&& 0x7C = 0 → (form &&& 3).toNat = 0 → form = 0 ∨ form = 0x80 := by
    revert form
    decide
  unfold parseSet at h
  split at h
  · cases h
  · next form rest =>
    split at h
    · cases h
    · next plain =>
      split at h
      · next m _ shape =>
        cases h
        exact ⟨form, m, rfl, forms form (not_not.1 plain) shape⟩
      · split at h
        · cases h
          cases single
        · cases h
      · split at h
        · cases h
          cases single
        · cases h
      · cases h

theorem parseSingle_takes (ps : List Byte) :
    (parseSingle ps).isSome = true ↔ ∃ form m : Byte, ps = [form, m] ∧ (form = 0 ∨ form = 0x80) := by
  constructor
  · intro taken
    unfold parseSingle parseSetAlone at taken
    split at taken
    · next set alone =>
      split at alone
      · next set' parses =>
        cases alone
        split at taken
        · next single => exact parseSet_of_single parses single
        · cases taken
      · cases alone
    · cases taken
  · rintro ⟨form, m, rfl, rfl | rfl⟩ <;> rfl

end Sys2Proof.Machine
end

section
/-! PROOFS. The checks of a request in their order (R96, R146), and the kind table. -/

-- The whole text is elaborated under a memory limit, which many threads at once would pass.
set_option Elab.async false

namespace Sys2Proof.Machine

/-! ### The kind table -/

theorem ofByte_isSome_iff (b : Byte) :
    (ReqKind.ofByte b).isSome = true ↔
      b.toNat ∈ [0x01, 0x02, 0x03, 0x04, 0x08, 0x09, 0x10, 0x11, 0x12, 0x13, 0x14, 0x15, 0x18, 0x19, 0x1A, 0x1B, 0x1C,
        0x20, 0x21, 0x22, 0x24, 0x25, 0x26, 0x27, 0x28, 0x29, 0x2A, 0x2B, 0x2C, 0x30, 0x31, 0x32, 0x33] := by
  revert b
  decide

theorem privileged_iff (k : ReqKind) :
    privileged k = true ↔ k.code.toNat ∈ [0x02, 0x03, 0x04, 0x18, 0x19, 0x1A, 0x1B, 0x26, 0x27] := by
  cases k <;> decide

/-! ### A request as its parse and its body -/

/-- What a request of kind `k` goes through: its parse is none for malformed parameters, and its form is that of the channel
set that the parameters carry. -/
structure RunsAs (f : Feed) (ps : List Byte) (k : ReqKind) {α : Type} (parsed : Option α) (form : α → Bool)
    (body : α → State → Reply) : Prop where
  runs : executeKind f ps k = runRequest k parsed form f body
  malformed : malformed ps k = parsed.isNone
  form : ∀ p, parsed = some p → (form p = true ↔ ∃ set, channelSetOf ps k = some set ∧ set.inputForm = true)

/-- The form of a set that the parameters carry. -/
theorem form_iff {o : Option ChannelSet} {x : ChannelSet} (h : o = some x) :
    x.inputForm = true ↔ ∃ set, o = some set ∧ set.inputForm = true := by
  simp [h]

/-- Every request of a known kind is its parse and its body under the checks of R146. -/
theorem executeKind_runsAs (f : Feed) (ps : List Byte) (k : ReqKind) :
    ∃ (α : Type) (parsed : Option α) (form : α → Bool) (body : α → State → Reply), RunsAs f ps k parsed form body := by
  have noForm {α : Type} (p : α) : noSet p = true ↔ ∃ set, (none : Option ChannelSet) = some set ∧ set.inputForm = true := by
    simp [noSet]
  have empty : (!ps.isEmpty) = (parseNone ps).isNone := by cases ps <;> rfl
  cases k with
  | devStatus | devRestart | storeSave | mapGet | lawApply | plawApply | scnOpen | scnList =>
    exact ⟨_, parseNone ps, noSet, _, rfl, empty, fun p _ => noForm p⟩
  | clockSet => exact ⟨_, parseClockSet ps, noSet, _, rfl, rfl, fun p _ => noForm p⟩
  | mapWindows => exact ⟨_, parseWindows ps, noSet, _, rfl, rfl, fun p _ => noForm p⟩
  | feedGlide | supervisorSet => exact ⟨_, parseByte ps, noSet, _, rfl, rfl, fun p _ => noForm p⟩
  | lawStage => exact ⟨_, parseStage 3 12 ps, noSet, _, rfl, rfl, fun p _ => noForm p⟩
  | plawStage => exact ⟨_, parseStage 2 16 ps, noSet, _, rfl, rfl, fun p _ => noForm p⟩
  | lawGet => exact ⟨_, parseLawGet ps, noSet, _, rfl, rfl, fun p _ => noForm p⟩
  | scnCommit => exact ⟨_, parseCommit ps, noSet, _, rfl, rfl, fun p _ => noForm p⟩
  | scnCancel => exact ⟨_, parseCancel ps, noSet, _, rfl, rfl, fun p _ => noForm p⟩
  | tapTrim => exact ⟨_, parseTrim ps, _, _, rfl, rfl, fun _ h => form_iff (parseTrim_set h)⟩
  | tapMode | tapMute => exact ⟨_, parseSetBit ps, _, _, rfl, rfl, fun _ h => form_iff (parseSetBit_set h)⟩
  | tapAnchor | ownClaim | ownRelease | clipAck =>
    exact ⟨_, parseSetAlone ps, _, _, rfl, rfl, fun _ h => form_iff (parseSetAlone_set h)⟩
  | tapGet | haGet | clipGet => exact ⟨_, parseSingle ps, _, _, rfl, rfl, fun _ h => form_iff (parseSingle_set h)⟩
  | haSet => exact ⟨_, parseHaSet ps, _, _, rfl, rfl, fun _ h => form_iff (parseHaSet_set h)⟩
  | haNudge => exact ⟨_, parseNudge ps, _, _, rfl, rfl, fun _ h => form_iff (parseNudge_set h)⟩
  | ownAssign => exact ⟨_, parseAssign ps, _, _, rfl, rfl, fun _ h => form_iff (parseAssign_set h)⟩
  | clipSet => exact ⟨_, parseClipSet ps, _, _, rfl, rfl, fun _ h => form_iff (parseClipSet_set h)⟩
  | scnAdd => exact ⟨_, parseScnAdd ps, _, _, rfl, rfl, fun _ h => form_iff (parseScnAdd_set h)⟩
  | mtrSubscribe =>
    refine ⟨_, parseSubscribe ps, _, _, rfl, rfl, fun p h => ?_⟩
    rw [show channelSetOf ps .mtrSubscribe = p.2 from parseSubscribe_set h]
    cases p.2 <;> simp

/-! ### Refusals by the checks -/

section
variable {f : Feed} {ps : List Byte} {k : ReqKind} {u : State}

theorem executeKind_malformed (h : malformed ps k = true) : executeKind f ps k u = (u, [11]) := by
  obtain ⟨α, parsed, form, body, as⟩ := executeKind_runsAs f ps k
  rw [as.runs, Option.isNone_iff_eq_none.1 (as.malformed.symm.trans h)]
  rfl

/-- While the part is LOADING, every kind but DEV_STATUS is refused (R146). -/
theorem executeKind_starting (h : malformed ps k = false) (loads : u.sil.load ≠ .ready) (other : k ≠ .devStatus) :
    executeKind f ps k u = (u, [12]) := by
  obtain ⟨α, parsed, form, body, as⟩ := executeKind_runsAs f ps k
  obtain ⟨p, rfl⟩ := Option.isSome_iff_exists.1 (Option.isNone_eq_false_iff.1 (as.malformed.symm.trans h))
  have starting : (u.loading && decide (k ≠ .devStatus)) = true := by simp [State.loading, loads, other]
  rw [as.runs]
  exact if_pos starting

/-- A privileged kind, and a set in INPUT form, are the supervising feed's alone (R29, R96, R146). -/
theorem executeKind_notSupervisor (h : malformed ps k = false) (ready : u.sil.load = .ready) (other : f ≠ u.cle.supervisor)
    (needs : privileged k = true ∨ ∃ set, channelSetOf ps k = some set ∧ set.inputForm = true) :
    executeKind f ps k u = (u, [5]) := by
  obtain ⟨α, parsed, form, body, as⟩ := executeKind_runsAs f ps k
  obtain ⟨p, rfl⟩ := Option.isSome_iff_exists.1 (Option.isNone_eq_false_iff.1 (as.malformed.symm.trans h))
  have started : ¬ (u.loading && decide (k ≠ .devStatus)) = true := by simp [loading_of_ready ready]
  rw [as.runs, runRequest, if_neg started]
  by_cases role : privileged k = true
  · exact if_pos (by simp [role, other])
  · have input : form p = true := (as.form p rfl).2 (needs.resolve_left role)
    rw [if_neg (by simp [role])]
    exact if_pos (by simp [input, other])

theorem execute_unknown {m : Message} (h : ReqKind.ofByte m.kind = none) : execute f m u = (u, [11]) := by
  rw [execute, h]
  rfl

end

/-! ### The statement -/

/-- Settles O29: a parse for each kind, and one pass through the checks for all of them. -/
theorem checksBeforeExecution : Obligations.ChecksBeforeExecution := by
  refine ⟨ofByte_code, ofByte_isSome_iff, privileged_iff, ?_, ?_⟩
  · intro ps k set amp takes
    have lift {α : Type} {o : Option α} {q : Prop} (h : o.isSome = true ↔ q) : o.isNone = false ↔ q :=
      Option.isNone_eq_false_iff.trans h
    cases k with
    | devStatus | devRestart | storeSave | mapGet | lawApply | plawApply | scnOpen | scnList =>
      show (!ps.isEmpty) = false ↔ ps = []
      cases ps <;> simp
    | clockSet => exact lift (parseClockSet_takes ps)
    | mapWindows => exact lift (parseWindows_takes ps)
    | tapTrim => exact lift (parseTrim_takes ps)
    | tapMode | tapMute => exact lift (parseSetBit_takes ps)
    | tapAnchor | ownClaim | ownRelease | clipAck => exact lift (parseSetAlone_takes ps)
    | tapGet | haGet | clipGet => exact lift (parseSingle_takes ps)
    | feedGlide | supervisorSet => exact lift (parseByte_takes ps)
    | lawStage => exact lift (parseStage_takes 3 12 ps)
    | plawStage => exact lift (parseStage_takes 2 16 ps)
    | lawGet => exact lift (parseLawGet_takes ps)
    | haSet => exact lift (parseHaSet_takes ps)
    | haNudge => exact lift (parseNudge_takes ps)
    | ownAssign => exact lift (parseAssign_takes ps)
    | scnAdd => exact lift (parseScnAdd_takes ps)
    | scnCommit => exact lift (parseCommit_takes ps)
    | scnCancel => exact lift (parseCancel_takes ps)
    | mtrSubscribe => exact lift (parseSubscribe_takes ps)
    | clipSet => exact lift (parseClipSet_takes ps)
  · intro s c f tag kind ps request serves u
    refine ⟨fun unknown => ?_, fun k known => ?_⟩
    · rw [exec_served request serves, execute_unknown unknown]
    · obtain rfl := code_of_ofByte known
      have answers {bytes : List Byte} (executes : executeKind f ps k u = (u, bytes)) :
          exec c s = .next (answered f tag k.code bytes u) := exec_answers request serves executes
      -- From here on nothing evaluates the frame step that `u` stands for.
      clear_value u
      exact ⟨fun bad => answers (executeKind_malformed bad),
        fun good loads other => answers (executeKind_starting good loads other),
        fun good ready other needs => answers (executeKind_notSupervisor good ready other needs)⟩

end Sys2Proof.Machine
end

section
/-! PROOFS. Messages on the control lane: their envelope (R139), the assembler (R141, R142), the serialiser (R148) and the
parameters of the notices (notice table of 09_the_control_lane.md). -/

-- The whole text is elaborated under a memory limit, which many threads at once would pass.
set_option Elab.async false

namespace Sys2Proof.Machine

/-! ### Envelopes -/

theorem envelope_length (m : Message) : (envelope m).length = m.params.length + 5 := by
  simp [envelope]

/-- The first byte counts the bytes after it (R139). -/
theorem envelope_head (m : Message) (short : m.params.length ≤ 59) :
    ∃ first rest, envelope m = first :: rest ∧ first.toNat = m.params.length + 4 :=
  ⟨byte (m.params.length + 4), _, rfl, toNat_byte (by omega)⟩

/-- What an envelope holds is its message (R142). -/
theorem openEnvelope_envelope (m : Message) : openEnvelope (envelope m) = some m := by
  let body := byte (m.params.length + 4) :: m.tag :: m.kind :: m.params
  have parts : envelope m = body ++ be 2 (crc16 body).toNat := rfl
  have length : (envelope m).length - 2 = body.length := by simp [parts]
  have covered : (envelope m).take ((envelope m).length - 2) = body := by rw [length, parts, List.take_left]
  refine openEnvelope_some covered ?_
  rw [covered, length, parts, List.drop_left]

/-- What a message of `n` bytes needs in frames of four: the last frame begins before its end and reaches it. -/
theorem frames_spec {n : Nat} (long : 4 < n) : ∃ j, (n + 3) / 4 = j + 1 ∧ 1 ≤ j ∧ 4 * j < n ∧ n ≤ 4 * j + 4 :=
  ⟨(n + 3) / 4 - 1, by omega, by omega, by omega, by omega⟩

/-! ### The assembler -/

/-- The bytes of a message that cross in delivery `k`. -/
def fourAt (bytes : List Byte) (k : Nat) : List Byte := (bytes.drop (4 * k)).take 4

theorem take_fourAt (bytes : List Byte) (k : Nat) : bytes.take (4 * k) ++ fourAt bytes k = bytes.take (4 * (k + 1)) :=
  List.take_add.symm

/-- The deliveries of a message, from an assembler in any state. -/
def deliveries (bytes : List Byte) (a : Assembler) (k : Nat) : Assembler × Option Message :=
  (List.range k).foldl (fun p k => p.1.deliver (decide (k = 0)) (fourAt bytes k)) (a, none)

theorem deliveries_succ (bytes : List Byte) (a : Assembler) (k : Nat) :
    deliveries bytes a (k + 1) = (deliveries bytes a k).1.deliver (decide (k = 0)) (fourAt bytes k) := by
  rw [deliveries, List.range_succ, List.foldl_append]
  rfl

section
variable {bytes : List Byte} (a : Assembler)

/-- The delivery with SOM begins a message of up to 64 bytes (R141). -/
theorem deliveries_one {first : Byte} {rest : List Byte} (parts : bytes = first :: rest) (counts : first.toNat = rest.length)
    (long : 4 ≤ rest.length) (short : rest.length ≤ 63) :
    deliveries bytes a 1 = (.collecting (bytes.take 4) (bytes.length - 4), none) := by
  have start : Assembler.start (first :: rest.take 3) = .collecting (first :: rest.take 3) (rest.length - 3) := by
    rw [Assembler.start, counts, if_pos ⟨long, short⟩, List.length_take, Nat.min_eq_left (by omega)]
  have delivered : a.deliver true (first :: rest.take 3) = (Assembler.start (first :: rest.take 3), none) := by
    cases a <;> rfl
  subst parts
  exact delivered.trans (by rw [start]; rfl)

/-- The deliveries before the last one are collected (R141). -/
theorem deliveries_more (begun : deliveries bytes a 1 = (.collecting (bytes.take 4) (bytes.length - 4), none)) (k : Nat)
    (inside : 4 * (k + 1) < bytes.length) :
    deliveries bytes a (k + 1) = (.collecting (bytes.take (4 * (k + 1))) (bytes.length - 4 * (k + 1)), none) := by
  induction k with
  | zero => exact begun
  | succ k ih =>
    have length : (fourAt bytes (k + 1)).length = 4 := by
      rw [fourAt, List.length_take, List.length_drop]
      omega
    rw [deliveries_succ, ih (by omega), decide_eq_false (Nat.succ_ne_zero k)]
    dsimp only [Assembler.deliver]
    rw [if_neg Bool.false_ne_true, if_pos (by omega), take_fourAt, length, Nat.sub_sub]
    rfl

/-- The last delivery completes the message (R142). -/
theorem deliveries_last {j : Nat} {m : Message} (later : j ≠ 0) (inside : 4 * j < bytes.length)
    (reaches : bytes.length ≤ 4 * j + 4)
    (begun : deliveries bytes a j = (.collecting (bytes.take (4 * j)) (bytes.length - 4 * j), none))
    (opens : openEnvelope bytes = some m) : deliveries bytes a (j + 1) = (.waitSom, some m) := by
  have rest : fourAt bytes j = bytes.drop (4 * j) :=
    List.take_of_length_le (by rw [List.length_drop]; omega)
  have length : (bytes.drop (4 * j)).length = bytes.length - 4 * j := List.length_drop
  rw [deliveries_succ, begun, decide_eq_false later, rest]
  dsimp only [Assembler.deliver]
  rw [if_neg Bool.false_ne_true, if_neg (by omega), List.take_of_length_le length.le, List.take_append_drop, opens]

/-- A message of at most 59 parameter bytes is rebuilt from its deliveries (R141, R142). -/
theorem deliveries_envelope {m : Message} (short : m.params.length ≤ 59) :
    deliveries (envelope m) a (((envelope m).length + 3) / 4) = (.waitSom, some m) := by
  have length := envelope_length m
  obtain ⟨first, rest, parts, counts⟩ := envelope_head m short
  have restLength : rest.length = m.params.length + 4 := by
    rw [parts, List.length_cons] at length
    omega
  have begun := deliveries_one a parts (counts.trans restLength.symm) (by omega) (by omega)
  obtain ⟨j, frames, later, inside, reaches⟩ := frames_spec (n := (envelope m).length) (by omega)
  obtain ⟨i, rfl⟩ := Nat.exists_eq_add_of_le' later
  rw [frames]
  exact deliveries_last a (by omega) inside reaches (deliveries_more a begun i inside) (openEnvelope_envelope m)

end

/-! ### The serialiser -/

section
variable {l : Lane} {src : Source} {bytes : List Byte}

theorem outgoing_sending (sends : l.serialiser = .sending src bytes) : l.outgoing = some (false, src, bytes) := by
  rw [Lane.outgoing, sends]

theorem outgoing_response {m : Message} {rest : List Message} (idle : l.serialiser = .idle) (first : l.responses = m :: rest) :
    l.outgoing = some (true, .response, envelope m) := by
  rw [Lane.outgoing, idle, first]

theorem outgoing_notice {nt : Notice} {rest : List Notice} (idle : l.serialiser = .idle) (none : l.responses = [])
    (first : l.notices = nt :: rest) : l.outgoing = some (true, .notice, envelope nt.message) := by
  rw [Lane.outgoing, idle, none, first]

theorem outgoing_none (idle : l.serialiser = .idle) (noResponse : l.responses = []) (noNotice : l.notices = []) :
    l.outgoing = none := by
  rw [Lane.outgoing, idle, noResponse, noNotice]

section
variable {som : Bool} (out : l.outgoing = some (som, src, bytes))
include out

theorem chunk_of_outgoing : l.chunk = { som := som, bytes := bytes.take 4 } := by
  rw [Lane.chunk, out]

theorem advance_of_outgoing :
    l.advance = if bytes.length ≤ 4 then l.finish src else { l with serialiser := .sending src (bytes.drop 4) } := by
  rw [Lane.advance, out]

/-- Until its last frame, a message begun is on its way (R148). -/
theorem iterate_advance (k : Nat) (inside : 4 * (k + 1) < bytes.length) :
    Lane.advance^[k + 1] l = { l with serialiser := .sending src (bytes.drop (4 * (k + 1))) } := by
  induction k with
  | zero => exact (advance_of_outgoing out).trans (if_neg (by omega))
  | succ k ih =>
    rw [Function.iterate_succ_apply', ih (by omega), advance_of_outgoing (outgoing_sending rfl), List.length_drop,
      if_neg (by omega), List.drop_drop]
    rfl

/-- A message that a serialiser begins is sent whole, four bytes a frame with SOM on the first (R148). -/
theorem sends_whole (begins : som = true) (long : 4 < bytes.length) :
    (∀ k, k < (bytes.length + 3) / 4 →
      ((Lane.advance)^[k] l).chunk = { som := decide (k = 0), bytes := (bytes.drop (4 * k)).take 4 }) ∧
    (Lane.advance)^[(bytes.length + 3) / 4] l = l.finish src := by
  subst begins
  obtain ⟨j, frames, later, inside, reaches⟩ := frames_spec long
  refine ⟨fun k sent => ?_, ?_⟩
  · cases k with
    | zero => exact chunk_of_outgoing out
    | succ k =>
      rw [iterate_advance out k (by omega), chunk_of_outgoing (outgoing_sending rfl), decide_eq_false (Nat.succ_ne_zero k)]
  · obtain ⟨i, rfl⟩ := Nat.exists_eq_add_of_le' later
    rw [frames, Function.iterate_succ_apply', iterate_advance out i inside, advance_of_outgoing (outgoing_sending rfl),
      List.length_drop, if_pos (by omega)]
    cases src <;> rfl

end

end

/-! ### The parameters of notices -/

theorem unclampedBytes_spec (frame : FrameNo) (i : Input) (wanted : Int) :
    (unclampedBytes frame i wanted).length = 2 ∧
      (-32768 ≤ wanted → wanted ≤ 32767 → unclampedBytes frame i wanted = be 2 (wanted % 65536).toNat) := by
  unfold unclampedBytes
  split
  · exact ⟨be_length 2 _, fun _ _ => be16s_eq wanted⟩
  · next outside => exact ⟨be_length 2 _, fun low high => absurd ⟨low, high⟩ outside⟩

/-! ### The statement -/

/-- Settles O33: deliveries are collected up to the last one, a serialiser sends on to the end of what it begins, and each
notice has its bytes. -/
theorem messagesCrossTheLane : Obligations.MessagesCrossTheLane := by
  refine ⟨fun _ => rfl, fun m a short => ⟨envelope_length m, deliveries_envelope a short⟩, ?idle, ?sending, ?notices⟩
  case idle =>
    intro l idle sends
    have begins {src : Source} {m : Message} (out : l.outgoing = some (true, src, envelope m)) : sends m (l.finish src) :=
      sends_whole out rfl (by rw [envelope_length]; omega)
    refine ⟨fun m rest first => ?_, fun nt rest noResponse first => ?_, fun noResponse noNotice => ?_⟩
    · have after : l.finish .response = { l with responses := rest } := by
        rw [Lane.finish, first, ← idle]
        rfl
      exact after ▸ begins (outgoing_response idle first)
    · have after : l.finish .notice = { l with notices := rest } := by
        rw [Lane.finish, first, ← idle]
        rfl
      exact after ▸ begins (outgoing_notice idle noResponse first)
    · have out := outgoing_none idle noResponse noNotice
      exact ⟨by rw [Lane.chunk, out], by rw [Lane.advance, out]⟩
  case sending =>
    intro l src rest sends
    have out := outgoing_sending sends
    refine ⟨chunk_of_outgoing out, ?_⟩
    rw [advance_of_outgoing out]
    by_cases long : 4 < rest.length
    · rw [if_pos long, if_neg (Nat.not_le.2 long)]
    · rw [if_neg long, if_pos (Nat.le_of_not_lt long)]
      cases src <;> rfl
  case notices =>
    intro b n8 signed frame feed
    have feeds (x : Option Feed) : ownerByte x = feed x := by cases x <;> rfl
    have signs (x : Int) : be16s x = signed x := be16s_eq x
    refine ⟨fun i v a x => ⟨rfl, ?_⟩, fun i new old cause x => ⟨rfl, ?_⟩, fun _ _ _ => ⟨rfl, rfl⟩,
      fun i set target wanted x => ⟨rfl, ?_⟩, fun _ _ _ _ _ _ => ⟨rfl, rfl⟩, fun _ _ => ⟨rfl, rfl⟩,
      fun _ _ _ _ _ => ⟨rfl, rfl⟩, fun clock x => ⟨rfl, ?_⟩, fun g c x => ⟨rfl, ?_⟩, fun ok x => ⟨rfl, ?_⟩,
      fun table x => ⟨rfl, ?_⟩⟩
    · rw [← signs]
      rfl
    · rw [← feeds, ← feeds]
      cases cause <;> rfl
    · obtain ⟨length, inside⟩ := unclampedBytes_spec x i wanted
      refine ⟨_, length, inside, ?_⟩
      rw [← signs]
      rfl
    · cases clock with
      | locked c =>
        cases c with
        | feed k => exact congrArg (fun s => 0 :: s :: frame x) (congrArg n8 (Nat.add_comm 2 k.val))
        | _ => rfl
      | _ => rfl
    · cases c <;> rfl
    · cases ok <;> rfl
    · cases table <;> rfl

end Sys2Proof.Machine
end
